-- ==== Sys2Proof/Word.lean ====
section
/-! DEFINITION. The word types of the Amith DX-4 and their plainest arithmetic (spec/00_scope.md R1, spec/20 R339). -/

namespace Sys2Proof

/-- A doubleword: the width of a general register, a handle and an address. -/
abbrev Word := BitVec 64

/-- One byte of memory. -/
abbrev Byte := BitVec 8

/-- One instruction word (R34). -/
abbrev Word32 := BitVec 32

/-- The contents of a vector register (R38). -/
abbrev VWord := BitVec 256

/-- A general-register field: 0 to 23 name g0 to g23, 24 to 31 the queue ports q0 to q7 (R38, R39). -/
abbrev GReg := BitVec 5

/-- A vector-register field. -/
abbrev VReg := BitVec 5

/-- A mask-register field (R38: any larger value traps, so decoding rejects it). -/
abbrev MReg := BitVec 3

/-- A handle-register field. -/
abbrev HReg := BitVec 4

/-- `x[hi:lo]` as a natural number (R1). -/
def bits (x hi lo : Nat) : Nat := (x >>> lo) % 2 ^ (hi + 1 - lo)

/-- The same of a bit vector. -/
def bvBits {n : Nat} (x : BitVec n) (hi lo : Nat) : Nat := bits x.toNat hi lo

end Sys2Proof
end

