-- ==== Sys2Proof/Syntax.lean ====
section
/-! DEFINITION. The syntax of the DX-4: operand kinds, and `Instr`, one constructor for each row of
spec/opcode_table.json: the 162 scalar words and 14 tile commands of spec/02_assembly.md R44 to R60, and the 77 events
of the module, which have no encoding and take as arguments what the outside world or the choice of the moment supplies. -/

namespace Sys2Proof

/-- L-format size (R48). -/
inductive Size where | b | h | w | d
  deriving DecidableEq, Repr

/-- Scope of an ordering operation (R198). -/
inductive Scope where | tile | module | system
  deriving DecidableEq, Repr

/-- Retention hint (R48). -/
inductive Hint where | dflt | short | long | bypass
  deriving DecidableEq, Repr

/-- Order of an atomic (R49). -/
inductive Order where | relaxed | acq | rel | ar
  deriving DecidableEq, Repr

/-- Kind of a fence (R373). -/
inductive FenceKind where | acq | rel | ar
  deriving DecidableEq, Repr

/-- Target level of PF (R403). -/
inductive PfLevel where | l1 | l2
  deriving DecidableEq, Repr

/-- Element types, in the order of their codes (R41); codes 14 and 15 are reserved. -/
inductive VTy where | s8 | s16 | s32 | s64 | n8 | n16 | n32 | n64 | f16 | bf16 | f32 | x19 | c8 | c4
  deriving DecidableEq, Repr

/-- VCMP condition (R51). -/
inductive Cond where | eq | ne | lt | le
  deriving DecidableEq, Repr

/-- VRED and VSCAN operation (R51). -/
inductive RedOp where | add | min | max | and | or | xor
  deriving DecidableEq, Repr

/-- The four engine queues of a core (R115). -/
inductive EngQ where | matrix | copy | collective | stream
  deriving DecidableEq, Repr

/-- M code of a matrix shape (R58): 16, 32 or 64 rows; code 11 is reserved. -/
inductive MCode where | m16 | m32 | m64
  deriving DecidableEq, Repr

/-- Rows of an M code. -/
def MCode.rows : MCode → Nat
  | .m16 => 16 | .m32 => 32 | .m64 => 64

/-- What every tile command's word 0 and successor tag say (R57, R58). -/
structure CmdHead where
  tag : BitVec 8
  /-- the handle register that receives the future; none: no future is made -/
  fut : Option HReg
  /-- the successor's queue and tag -/
  chain : Option (EngQ × BitVec 8)
  deriving DecidableEq, Repr

/-- Accumulator block, M code and N field of a matrix command (R58): N = 16 × (n + 1). -/
structure Shape where
  acc : BitVec 6
  m : MCode
  n : BitVec 6
  deriving DecidableEq, Repr

/-- M rows, N columns, blocks used (R292). -/
def Shape.rows (s : Shape) : Nat := s.m.rows
def Shape.cols (s : Shape) : Nat := 16 * (s.n.toNat + 1)
def Shape.blocks (s : Shape) : Nat := (s.rows / 16) * (s.cols / 16)

/-- An operand descriptor (R59). The type code is raw: three commands ignore it (R299). -/
inductive Opnd where
  | mem (l2 : Bool) (base : GReg) (ty : BitVec 4) (stride : GReg) (off : BitVec 10)
  | berth (base : GReg) (ty : BitVec 4) (n : BitVec 5)
  deriving DecidableEq, Repr

/-- Scale mode of a matrix command (R58, R293). -/
inductive ScaleMode where | none | side | regs (ra rb : GReg)
  deriving DecidableEq, Repr

/-- A hardware thread: physical tile, core within it, thread within the core (R10, R13). -/
structure Place where
  tile : Nat
  core : Nat
  thread : Nat
  deriving DecidableEq, Repr

/-- An access that a host port or a peer makes to module memory (R216, R330). -/
inductive AccessOp where
  | load
  | store (value : Nat)
  | amoAdd (value : Nat)
  | swap (value : Nat)
  | cas (expected value : Nat)
  deriving DecidableEq, Repr

/-- Address (host physical for CXL.mem, module physical for a peer), how many bytes, and operation; a value is a number of so
many bytes, little-endian. -/
structure MemAccess where
  addr : Nat
  bytes : Nat
  op : AccessOp
  deriving DecidableEq, Repr

/-- What one cluster's sensors return at a sample (R321, R322), one every 256 cycles and the last at the boundary: the raw
code and reading of the two temperature sensors (1/16 °C) and of the two current sensors (1/16 A), and the power (1/64 W). -/
structure SensorReading where
  cluster : Nat
  rawT : Nat × Nat
  temp : Int × Int
  rawI : Nat × Nat
  amps : Nat × Nat
  power : Nat
  deriving DecidableEq, Repr

/-- The fields of a create or destroy command record (R328), already split; `reserved` says that some byte or bit that
must be zero is not. -/
structure CmdRecord where
  op : Nat
  vd : Nat
  sem : Nat
  wakeClass : Nat
  weight : Nat
  tileQuota : Nat
  groups : Nat
  hbmQuota : Nat
  spillQuota : Nat
  futQuota : Nat
  flash : Nat
  root : Nat
  noticeRing : Nat
  regionTable : Nat
  faultRing : Nat
  faultK : Nat
  ctxBase : Nat
  ctxSize : Nat
  reserved : Bool
  deriving DecidableEq, Repr

/-- One signed configuration record of module flash (R333): its type (0 firmware image, 1 preset cycle, 2 L2 home map,
3 stop attachments, 4 module id and route table), version, length, rollback counter, and signature, in its two halves; and
the parts of its body that the model reads: the preset cycles of the four dies, the number of its L2 home map, the stops of
the slices, host ports and peer ports, the module id and the route table, with whatever else the body holds. -/
structure CfgRecord where
  type : Nat
  version : Nat
  length : Nat
  rollback : Nat
  signature : Nat × Nat
  rest : List (BitVec 64)
  presets : List (List Nat)
  homeMap : Nat
  sliceStops : List Nat
  hostStops : List Nat
  peerStops : List Nat
  moduleId : BitVec 16
  routes : List (Nat × Nat)
  deriving DecidableEq, Repr

/-- One constructor for each row of spec/opcode_table.json, in the table's order, but for nine events without arguments at
the end. -/
inductive Instr where
  -- integer operations (R45, R46)
  | add (d a b : GReg)
  | addImm (d a : GReg) (i : BitVec 16)
  | sub (d a b : GReg)
  | mul (d a b : GReg)
  | mulImm (d a : GReg) (i : BitVec 16)
  | mulh (d a b : GReg)
  | mulhu (d a b : GReg)
  | div (d a b : GReg)
  | divu (d a b : GReg)
  | rem (d a b : GReg)
  | remu (d a b : GReg)
  | and (d a b : GReg)
  | andImm (d a : GReg) (i : BitVec 16)
  | or (d a b : GReg)
  | orImm (d a : GReg) (i : BitVec 16)
  | xor (d a b : GReg)
  | xorImm (d a : GReg) (i : BitVec 16)
  | shl (d a b : GReg)
  | shr (d a b : GReg)
  | sra (d a b : GReg)
  | shlImm (d a : GReg) (n : BitVec 6)
  | shrImm (d a : GReg) (n : BitVec 6)
  | sraImm (d a : GReg) (n : BitVec 6)
  | slt (d a b : GReg)
  | sltu (d a b : GReg)
  | sltImm (d a : GReg) (i : BitVec 16)
  | sltuImm (d a : GReg) (i : BitVec 16)
  | min (d a b : GReg)
  | max (d a b : GReg)
  | minu (d a b : GReg)
  | maxu (d a b : GReg)
  | minImm (d a : GReg) (i : BitVec 14)
  | maxImm (d a : GReg) (i : BitVec 14)
  | minuImm (d a : GReg) (i : BitVec 14)
  | maxuImm (d a : GReg) (i : BitVec 14)
  | clz (d a : GReg)
  | popc (d a : GReg)
  | ext (d a b : GReg)
  | extImm (d a : GReg) (signed : Bool) (w l : BitVec 6)
  | lui (d : GReg) (i : BitVec 16)
  -- control transfers (R55)
  | beq (a b : GReg) (o : BitVec 16)
  | bne (a b : GReg) (o : BitVec 16)
  | blt (a b : GReg) (o : BitVec 16)
  | bge (a b : GReg) (o : BitVec 16)
  | bltu (a b : GReg) (o : BitVec 16)
  | bgeu (a b : GReg) (o : BitVec 16)
  | bmany (k : MReg) (o : BitVec 16)
  | bmnone (k : MReg) (o : BitVec 16)
  | bmall (k : MReg) (o : BitVec 16)
  | jal (l : GReg) (o : BitVec 21)
  | jalr (d a : GReg) (i : BitVec 16)
  -- loads, stores, fences and cache operations (R48, R49)
  | ld (d b : GReg) (h : Hint) (z : Size) (o : BitVec 12)
  | ldn (d b : GReg) (h : Hint) (z : Size) (o : BitVec 12)
  | st (s b : GReg) (h : Hint) (z : Size) (o : BitVec 12)
  | lda (d b : GReg) (c : Scope) (z : Size) (o : BitVec 12)
  | stl (s b : GReg) (c : Scope) (z : Size) (o : BitVec 12)
  | fence (k : FenceKind) (c : Scope)
  | cinv (a : GReg)
  | cinvAll
  | pf (b : GReg) (h : Hint) (l : PfLevel) (o : BitVec 12)
  -- atomics, waits and events (R49)
  | amoAdd (d a b : GReg) (dw : Bool) (o : Order) (c : Scope)
  | amoAnd (d a b : GReg) (dw : Bool) (o : Order) (c : Scope)
  | amoOr (d a b : GReg) (dw : Bool) (o : Order) (c : Scope)
  | amoXor (d a b : GReg) (dw : Bool) (o : Order) (c : Scope)
  | amoMin (d a b : GReg) (dw : Bool) (o : Order) (c : Scope)
  | amoMax (d a b : GReg) (dw : Bool) (o : Order) (c : Scope)
  | amoMinn (d a b : GReg) (dw : Bool) (o : Order) (c : Scope)
  | amoMaxn (d a b : GReg) (dw : Bool) (o : Order) (c : Scope)
  | amoSwap (d a b : GReg) (dw : Bool) (o : Order) (c : Scope)
  | amocas (d a b : GReg) (dw : Bool) (o : Order) (c : Scope)
  | mwait (d a b : GReg) (dw : Bool) (c : Scope)
  | evwait (d a : GReg)
  | evsig (a b : GReg)
  -- vector (R50, R51)
  | vadd (d a b : VReg) (k : MReg) (t : VTy)
  | vsub (d a b : VReg) (k : MReg) (t : VTy)
  | vmul (d a b : VReg) (k : MReg) (t : VTy)
  | vfma (d a b : VReg) (k : MReg) (t : VTy)
  | vmin (d a b : VReg) (k : MReg) (t : VTy)
  | vmax (d a b : VReg) (k : MReg) (t : VTy)
  | vabs (d a : VReg) (k : MReg) (t : VTy)
  | vneg (d a : VReg) (k : MReg) (t : VTy)
  | vand (d a b : VReg) (k : MReg) (t : VTy)
  | vor (d a b : VReg) (k : MReg) (t : VTy)
  | vxor (d a b : VReg) (k : MReg) (t : VTy)
  | vshl (d a b : VReg) (k : MReg) (t : VTy)
  | vshr (d a b : VReg) (k : MReg) (t : VTy)
  | vsra (d a b : VReg) (k : MReg) (t : VTy)
  | vcmp (c : Cond) (m : MReg) (a b : VReg) (k : MReg) (t : VTy)
  | vsel (d a b : VReg) (s : MReg) (t : VTy)
  | vaddSat (d a b : VReg) (k : MReg) (t : VTy)
  | vsubSat (d a b : VReg) (k : MReg) (t : VTy)
  | vred (d a : VReg) (p : RedOp) (k : MReg) (t : VTy)
  | vscan (d a : VReg) (p : RedOp) (k : MReg) (t : VTy)
  | vcvt (d a : VReg) (e : VTy) (k : MReg) (t : VTy)
  | vdec (d a : VReg) (s : BitVec 2) (k : MReg) (t : VTy)
  | venc (d a : VReg) (s : BitVec 2) (k : MReg) (t : VTy)
  | vrcp (d a : VReg) (k : MReg) (t : VTy)
  | vrsq (d a : VReg) (k : MReg) (t : VTy)
  | vexp2 (d a : VReg) (k : MReg) (t : VTy)
  | vlog2 (d a : VReg) (k : MReg) (t : VTy)
  | vbcast (d : VReg) (g : GReg) (k : MReg) (t : VTy)
  | vmovs (g : GReg) (a : VReg) (l : BitVec 5) (t : VTy)
  | vperm (d a b : VReg) (k : MReg) (t : VTy)
  | vslide (d a : VReg) (g : GReg) (k : MReg) (t : VTy)
  | viota (d : VReg) (k : MReg) (t : VTy)
  | vld (d : VReg) (a b : GReg) (k : MReg) (t : VTy)
  | vst (d : VReg) (a b : GReg) (k : MReg) (t : VTy)
  | vldx (d : VReg) (a : GReg) (b : VReg) (k : MReg) (t : VTy)
  | vstx (d : VReg) (a : GReg) (b : VReg) (k : MReg) (t : VTy)
  | vrep (n : BitVec 4) (a : GReg) (s : BitVec 5)
  -- masks (R47)
  | mset (d : MReg) (a : GReg)
  | mand (d a b : MReg)
  | mor (d a b : MReg)
  | mxor (d a b : MReg)
  | mnot (d a : MReg)
  | mpopc (d : GReg) (a : MReg)
  | mfirst (d : GReg) (a : MReg)
  -- tasks and futures (R52)
  | spawn (h : HReg) (a b : GReg)
  | spawnPass (h : HReg) (a b : GReg) (p : HReg)
  | gang (h : HReg) (a : GReg)
  | fork (h : HReg) (a b : GReg)
  | fwait (h : HReg) (a b : GReg)
  | ftest (h : HReg) (a : GReg)
  | fcancel (h : HReg)
  | fref (h s : HReg)
  | fdrop (h : HReg)
  | fpin (h : HReg) (a : GReg)
  | ftake (h : HReg) (a : GReg)
  | fdone (a : GReg)
  | depdec (h : HReg)
  | depdecMem (a : GReg)
  | rpoint
  | self (h : HReg)
  | exit (a : GReg)
  | yield
  -- groups and exchange
  | gjoin (a : GReg)
  | gleave (a : GReg)
  | gbar (a b : GReg)
  | garrive (a : GReg)
  | xput (a b : GReg)
  -- queues
  | qnew (a b : GReg)
  | qfree (a : GReg)
  | qbind (p : BitVec 3) (a : GReg)
  | qpush (a b : GReg)
  | qpop (a b : GReg)
  | qenq (h : HReg) (a b : GReg)
  | qlen (a b : GReg)
  -- roles and snapshots
  | lease (a b : GReg)
  | unlease (a : GReg)
  | rack (a : GReg)
  | rlook (a b : GReg)
  | snapopen (a : GReg)
  | snapcommit (a : GReg)
  | snaproll (a b : GReg)
  -- system (R54)
  | srrd (d : GReg) (r : BitVec 12)
  | srwr (a : GReg) (r : BitVec 12)
  | trap (c : BitVec 12)
  | brk (c : BitVec 12)
  | eret
  | tinv (a : GReg)
  | tinvAll
  | sleep (a : GReg)
  -- tile commands (R56 to R60)
  | mma (hd : CmdHead) (sh : Shape) (a b : Opnd) (sc : ScaleMode)
  | mmas (hd : CmdHead) (sh : Shape) (a b : Opnd) (sc : ScaleMode)
  | accz (hd : CmdHead) (sh : Shape)
  | accld (hd : CmdHead) (sh : Shape) (a : Opnd)
  | accst (hd : CmdHead) (sh : Shape) (c : Opnd) (tsA tsB : GReg) (out : BitVec 4)
  | tabld (hd : CmdHead) (slot : BitVec 2) (a : Opnd)
  | tcopy (hd : CmdHead) (a c : Opnd) (len : GReg)
  | tfill (hd : CmdHead) (c : Opnd) (len val : GReg)
  | tgather (hd : CmdHead) (a b c : Opnd) (len : GReg)
  | tscatter (hd : CmdHead) (a b c : Opnd) (len : GReg)
  | txchg (hd : CmdHead) (sh : Shape) (grp : GReg)
  | tsub (hd : CmdHead) (a c : Opnd) (len : GReg) (pull : Bool)
  | tunsub (hd : CmdHead) (c : Opnd)
  | qfence (hd : CmdHead) (q : EngQ) (mask : BitVec 4)
  -- dispatch and scheduling events
  | dispatch (p : Place)
  | workSteal (p : Place)
  | timeSliceExpiry (p : Place)
  | preemption (w : Nat)
  | saveTransferComplete (t : Nat)
  | aging (t : Nat)
  | dispatchCountHalving (cluster : Nat)
  -- store buffer and vector unit
  | storeBufferDrain (t k : Nat)
  | vectorLaneBind (tile group : Nat)
  | vectorRetire (tile core : Nat)
  | laneCountHalving (tile : Nat)
  -- engines, gangs, reclamation, barriers
  | engineCommandStart (tile : Nat) (q : EngQ)
  | engineCommandComplete (tile core : Nat) (q : EngQ)
  | gangPlacement (vd : Nat)
  | doomedFlagDelivery (t : Nat)
  | reclaim (t : Nat)
  | barrierFire (vd group : Nat)
  | xputLanding (k : Nat)
  -- census, network and moves
  | censusSample
  | censusEpoch
  | notice (vd : Nat)
  | tideDrain
  | tideDrainEnd
  | roleMoveComplete (vd lid : Nat)
  | forward (k : Nat)
  | tileFailingMark (tile : Nat)
  | tileFailure (tile : Nat)
  | injectionStarvation (stop dir : Nat)
  -- berths
  | berthFillStart (tile core : Nat)
  | berthFillComplete (tile core : Nat)
  | berthDrain (tile core berth : Nat)
  -- queues, peers, messages
  | heldPushAccept (vd lid slot : Nat)
  | remoteEnqueueArrival (src : BitVec 16) (vd : Nat) (handle : BitVec 32) (value : BitVec 64)
  | enqueueReply (k : Nat) (delivered : Bool)
  | eventArrival (k : Nat)
  | txchgMessageArrival (k : Nat)
  | faultRecordDeferred (t : Nat)
  -- idle collapse and wake
  | idleCollapse (vd : Nat)
  | collapseComplete (vd : Nat)
  | wake (vd : Nat) (value : BitVec 64)
  | wakeComplete (vd : Nat)
  | waketime (vd : Nat) (value : BitVec 64)
  | waketimeExpiry (vd : Nat)
  | idlectl (vd : Nat) (value : BitVec 64)
  | sleepExpiry (t : Nat)
  -- power
  | powerInterval (rs : List SensorReading)
  | currentSample (die amps : Nat)
  | budget (cluster : Nat) (value : BitVec 64)
  | pctl (cluster : Nat) (value : BitVec 64)
  | dieCtl (die : Nat) (value : BitVec 64)
  | throttle (cluster : Nat) (value : BitVec 64)
  | teleper (cluster : Nat) (value : BitVec 64)
  | sensorRecalibration (cluster sensor : Nat)
  -- host, control plane, boot
  | semClaim (port sem : Nat)
  | semFree (port sem : Nat)
  | hostLinkDown (port : Nat)
  | create (port addr : Nat) (rec : CmdRecord)
  | destroy (port addr : Nat) (rec : CmdRecord)
  | hostRegionWrite (port offset bytes : Nat) (value : BitVec 64)
  | cxlMemAccess (a : MemAccess)
  | peerLinkTimeout (port : Nat)
  | pseudoChannelRetirement (channel : Nat)
  | boot (slotA slotB : List CfgRecord)
  | liveUpdate (recs : List CfgRecord) (die : Nat)
  | peerAccessArrival (a : MemAccess)
  | hdmDecoderCommit (base : Nat)
  | noticeRecordDeferred (vd : Nat)
  | apertureTableWrite (vd i : Nat) (value : BitVec 128)
  -- events without arguments
  | freeze
  | unfreeze
  | getVersion
  | getCapabilities
  | negotiateAlgorithms
  | getDigests
  | getCertificate
  | getMeasurements
  | commandDone
  deriving DecidableEq, Repr

end Sys2Proof
end

