-- ==== Sys2Proof/WellFormed.lean ====
section
/-! DEFINITION. Which instruction terms the encodings of spec/02_assembly.md admit: every condition on a word alone
that makes the device trap with cause 0x01 (R37 to R60, R451, and the operand rules of the entries), each under a name. -/

namespace Sys2Proof

/-- Why a word is illegal. Every one of these is cause 0x01 with the word as TVAL (R62, R341). -/
inductive Reject where
  /-- the all-zero word (R34) -/
  | zeroWord
  /-- a reserved major, or a word 1 to 7 of a tile command met as an instruction (R44, R56) -/
  | reservedMajor
  /-- a reserved function, code or operation number (R45 to R60) -/
  | reservedFunction
  /-- a field that must be zero is not, or a field holds a reserved code (R37) -/
  | reservedField
  /-- one queue port in two source fields (R39) -/
  | samePort
  /-- a queue port where none is accepted (R39) -/
  | portField
  /-- the pair of SPAWN or FORK is odd or outside 2 to 22 (R53) -/
  | badPair
  /-- a type that the instruction does not accept (R51, R291, R438, R451) -/
  | badType
  /-- EXT beyond bit 63, or VMOVS beyond the last lane (R46, R461) -/
  | badRange
  /-- a reserved system register number, or a write to a read-only one (R43) -/
  | systemRegister
  /-- an operand descriptor of a kind or stride that the command refuses (R59, R60) -/
  | badOperand
  /-- fewer than eight words, or one of words 1 to 7 without major 0x3E (R56) -/
  | badTail
  /-- the term is an event of the module, which has no encoding -/
  | noEncoding
  deriving DecidableEq, Repr

/-- A general-register field that names a queue port (R39). -/
def GReg.isPort (r : GReg) : Bool := 24 ≤ r.toNat

/-- The type of a code; 14 and 15 are reserved (R41). -/
def VTy.ofCode (n : Nat) : Option VTy :=
  [VTy.s8, .s16, .s32, .s64, .n8, .n16, .n32, .n64, .f16, .bf16, .f32, .x19, .c8, .c4][n]?

/-- The 4-bit code of a type (R41). -/
def VTy.code : VTy → Nat
  | .s8 => 0 | .s16 => 1 | .s32 => 2 | .s64 => 3 | .n8 => 4 | .n16 => 5 | .n32 => 6 | .n64 => 7
  | .f16 => 8 | .bf16 => 9 | .f32 => 10 | .x19 => 11 | .c8 => 12 | .c4 => 13

/-- Lane width in bits (R41): x19 uses a 32-bit container. -/
def VTy.width : VTy → Nat
  | .s8 | .n8 | .c8 => 8
  | .s16 | .n16 | .f16 | .bf16 => 16
  | .s32 | .n32 | .f32 | .x19 => 32
  | .s64 | .n64 => 64
  | .c4 => 4

/-- Number of lanes of a vector register (R41). -/
def VTy.lanes (t : VTy) : Nat := 256 / t.width

def VTy.isInt (t : VTy) : Bool := t.code ≤ 7
def VTy.isSigned (t : VTy) : Bool := t.code ≤ 3
def VTy.isFloat (t : VTy) : Bool := 8 ≤ t.code && t.code ≤ 10

/-- The general registers an instruction reads, in field order: the fields R39 calls source fields. The d field of
AMOCAS and the second register of a pair are read too, but never name a port. -/
def Opnd.regs : Opnd → List GReg
  | .mem _ base _ stride _ => [base, stride]
  | .berth base _ _ => [base]

def ScaleMode.srcs : ScaleMode → List GReg
  | .regs ra rb => [ra, rb]
  | _ => []

def Instr.sources : Instr → List GReg
  | .add _ a b | .sub _ a b | .mul _ a b | .mulh _ a b | .mulhu _ a b | .div _ a b | .divu _ a b | .rem _ a b
  | .remu _ a b | .and _ a b | .or _ a b | .xor _ a b | .shl _ a b | .shr _ a b | .sra _ a b | .slt _ a b
  | .sltu _ a b | .min _ a b | .max _ a b | .minu _ a b | .maxu _ a b | .ext _ a b => [a, b]
  | .addImm _ a _ | .mulImm _ a _ | .andImm _ a _ | .orImm _ a _ | .xorImm _ a _ | .shlImm _ a _ | .shrImm _ a _
  | .sraImm _ a _ | .sltImm _ a _ | .sltuImm _ a _ | .minImm _ a _ | .maxImm _ a _ | .minuImm _ a _
  | .maxuImm _ a _ | .clz _ a | .popc _ a | .extImm _ a _ _ _ => [a]
  | .beq a b _ | .bne a b _ | .blt a b _ | .bge a b _ | .bltu a b _ | .bgeu a b _ => [a, b]
  | .jalr _ a _ => [a]
  | .ld _ b _ _ _ | .ldn _ b _ _ _ | .lda _ b _ _ _ | .pf b _ _ _ => [b]
  | .st s b _ _ _ | .stl s b _ _ _ => [s, b]
  | .cinv a => [a]
  | .amoAdd _ a b _ _ _ | .amoAnd _ a b _ _ _ | .amoOr _ a b _ _ _ | .amoXor _ a b _ _ _ | .amoMin _ a b _ _ _
  | .amoMax _ a b _ _ _ | .amoMinn _ a b _ _ _ | .amoMaxn _ a b _ _ _ | .amoSwap _ a b _ _ _
  | .amocas _ a b _ _ _ => [a, b]
  | .mwait _ a b _ _ => [a, b]
  | .evwait _ a => [a]
  | .evsig a b => [a, b]
  | .vbcast _ g _ _ | .vslide _ _ g _ _ => [g]
  | .vld _ a b _ _ | .vst _ a b _ _ => [a, b]
  | .vldx _ a _ _ _ | .vstx _ a _ _ _ => [a]
  | .vrep _ a _ => [a]
  | .mset _ a => [a]
  | .spawn _ a _ | .spawnPass _ a _ _ | .gang _ a | .fork _ a _ => [a]
  | .fpin _ a | .ftake _ a | .fdone a | .depdecMem a | .exit a => [a]
  | .gjoin a | .gleave a | .gbar a _ | .garrive a => [a]
  | .xput a b => [a, b]
  | .qnew _ b => [b]
  | .qfree a => [a]
  | .qbind _ a => [a]
  | .qpush a b => [a, b]
  | .qpop _ b => [b]
  | .qenq _ a b => [a, b]
  | .qlen _ b => [b]
  | .lease a b => [a, b]
  | .unlease a | .rack a => [a]
  | .rlook _ b => [b]
  | .snapopen a | .snapcommit a => [a]
  | .snaproll a b => [a, b]
  | .srwr a _ | .tinv a | .sleep a => [a]
  | .mma _ _ a b sc | .mmas _ _ a b sc => a.regs ++ b.regs ++ sc.srcs
  | .accld _ _ a => a.regs
  | .accst _ _ c ta tb _ => c.regs ++ [ta, tb]
  | .tabld _ _ a => a.regs
  | .tcopy _ a c l => a.regs ++ c.regs ++ [l]
  | .tfill _ c l v => c.regs ++ [l, v]
  | .tgather _ a b c l | .tscatter _ a b c l => a.regs ++ b.regs ++ c.regs ++ [l]
  | .txchg _ _ g => [g]
  | .tsub _ a c l _ => a.regs ++ c.regs ++ [l]
  | .tunsub _ c => c.regs
  | _ => []

/-- The general registers an instruction writes, in the order written. -/
def Instr.dests : Instr → List GReg
  | .add d _ _ | .sub d _ _ | .mul d _ _ | .mulh d _ _ | .mulhu d _ _ | .div d _ _ | .divu d _ _ | .rem d _ _
  | .remu d _ _ | .and d _ _ | .or d _ _ | .xor d _ _ | .shl d _ _ | .shr d _ _ | .sra d _ _ | .slt d _ _
  | .sltu d _ _ | .min d _ _ | .max d _ _ | .minu d _ _ | .maxu d _ _ | .ext d _ _ => [d]
  | .addImm d _ _ | .mulImm d _ _ | .andImm d _ _ | .orImm d _ _ | .xorImm d _ _ | .shlImm d _ _ | .shrImm d _ _
  | .sraImm d _ _ | .sltImm d _ _ | .sltuImm d _ _ | .minImm d _ _ | .maxImm d _ _ | .minuImm d _ _
  | .maxuImm d _ _ | .clz d _ | .popc d _ | .extImm d _ _ _ _ | .lui d _ => [d]
  | .jal d _ | .jalr d _ _ => [d]
  | .ld d _ _ _ _ | .ldn d _ _ _ _ | .lda d _ _ _ _ => [d]
  | .amoAdd d _ _ _ _ _ | .amoAnd d _ _ _ _ _ | .amoOr d _ _ _ _ _ | .amoXor d _ _ _ _ _ | .amoMin d _ _ _ _ _
  | .amoMax d _ _ _ _ _ | .amoMinn d _ _ _ _ _ | .amoMaxn d _ _ _ _ _ | .amoSwap d _ _ _ _ _
  | .amocas d _ _ _ _ _ => [d]
  | .mwait d _ _ _ _ | .evwait d _ => [d]
  | .vmovs g _ _ _ => [g]
  | .mpopc d _ | .mfirst d _ => [d]
  | .fwait _ a b => [a, b]
  | .ftest _ a => [a]
  | .gbar _ b => [b]
  | .qnew a _ | .qpop a _ | .qlen a _ | .rlook a _ => [a]
  | .srrd d _ => [d]
  | _ => []

/-- The ports among a list of register fields. -/
def portsOf (l : List GReg) : List GReg := l.filter GReg.isPort

/-- The type classes of R451. -/
def VTy.inArith (t : VTy) : Bool := t.code ≤ 10
def VTy.inMem (t : VTy) : Bool := t != .x19
def VTy.inIndexed (t : VTy) : Bool := t == .s32 || t == .s64 || t == .n32 || t == .n64 || t == .f32
def VTy.isCode (t : VTy) : Bool := t == .c8 || t == .c4
def RedOp.bitwise : RedOp → Bool
  | .and | .or | .xor => true
  | _ => false

/-- Width class of a matrix operand's elements (R291): none where the type may not be an operand. -/
def matrixWidth (code : Nat) : Option Nat :=
  match code with
  | 13 => some 4
  | 12 | 0 | 4 => some 8
  | 8 | 9 => some 16
  | 10 => some 32
  | _ => none

/-- K of a matrix operand's width (R291). -/
def matrixK (width : Nat) : Nat := 3072 / width

/-- Is `code` a type that TCOPY and TFILL accept (R438)? -/
def copyType (code : Nat) : Bool := code ≤ 10 || code == 12 || code == 13
/-- Is `code` an element type of TGATHER and TSCATTER (R438)? -/
def gatherType (code : Nat) : Bool := code ≤ 10 || code == 12
/-- ACCST's output types (R295): f32, f16, bf16, s32, s16, s8, n32, n16, n8. -/
def accstType (code : Nat) : Bool := code != 3 && code != 7 && code ≤ 10

def Opnd.ty : Opnd → Nat
  | .mem _ _ ty _ _ => ty.toNat
  | .berth _ ty _ => ty.toNat
def Opnd.isBerth : Opnd → Bool
  | .berth .. => true
  | _ => false
/-- Kind 00 (memory). -/
def Opnd.isMem : Opnd → Bool
  | .mem l2 .. => !l2
  | _ => false
/-- The stride field of a memory or L2 operand; zero for a berth. -/
def Opnd.stride : Opnd → GReg
  | .mem _ _ _ s _ => s
  | .berth .. => 0
def Opnd.base : Opnd → GReg
  | .mem _ b _ _ _ => b
  | .berth b _ _ => b
/-- Byte offset of a memory or L2 operand (R59: units of 64 bytes). -/
def Opnd.offset : Opnd → Nat
  | .mem _ _ _ _ o => 64 * o.toNat
  | .berth .. => 0

/-- Operand rules common to MMA and MMAS beyond their A operand (R397). -/
def matrixOperands (sh : Shape) (a b : Opnd) (sc : ScaleMode) (sparse : Bool) : Bool :=
  !(a.isBerth && (sparse || 16 < sh.rows)) && !(b.isBerth && 16 < sh.cols) &&
  (match sc with
   | .side => !sparse && a.stride == 0 && b.stride == 0
   | _ => true)

/-- What makes a term's word illegal beyond its format: none for a well-formed instruction. -/
def Instr.reject (i : Instr) : Option Reject :=
  let regs := i.sources
  if !(portsOf regs).Nodup then some .samePort else
  match i with
  | .extImm _ _ _ w l => if l.toNat + w.toNat + 1 ≤ 64 then none else some .badRange
  | .ldn _ _ _ z _ => if z = .d then some .reservedField else none
  | .pf _ h _ _ => if h = .bypass then some .reservedField else none
  | .amocas d _ _ _ _ _ => if d.isPort then some .portField else none
  | .spawn _ _ b | .spawnPass _ _ b _ | .fork _ _ b =>
    if b.toNat % 2 = 0 ∧ 2 ≤ b.toNat ∧ b.toNat ≤ 22 then none
    else if b.isPort then some .portField else some .badPair
  | .qbind _ a => if a.isPort then some .portField else none
  | .vadd _ _ _ _ t | .vsub _ _ _ _ t | .vmul _ _ _ _ t | .vfma _ _ _ _ t | .vmin _ _ _ _ t | .vmax _ _ _ _ t
  | .vabs _ _ _ t | .vneg _ _ _ t | .vcmp _ _ _ _ _ t | .viota _ _ t =>
    if t.inArith then none else some .badType
  | .vaddSat _ _ _ _ t | .vsubSat _ _ _ _ t | .vand _ _ _ _ t | .vor _ _ _ _ t | .vxor _ _ _ _ t
  | .vshl _ _ _ _ t | .vshr _ _ _ _ t | .vsra _ _ _ _ t => if t.isInt then none else some .badType
  | .vred _ _ p _ t | .vscan _ _ p _ t =>
    if t.isInt || (t.isFloat && !p.bitwise) then none else some .badType
  | .vrcp _ _ _ t | .vrsq _ _ _ t | .vexp2 _ _ _ t | .vlog2 _ _ _ t => if t.isFloat then none else some .badType
  | .vcvt _ _ e _ t => if t.code ≤ 11 && e.code ≤ 11 then none else some .badType
  | .vdec _ _ _ _ t | .venc _ _ _ _ t => if t.isCode then none else some .badType
  | .vmovs _ _ l t => if l.toNat < t.lanes then none else some .badRange
  | .vperm _ _ _ _ t => if t = .c4 then some .badType else none
  | .vld _ _ _ _ t | .vst _ _ _ _ t => if t.inMem then none else some .badType
  | .vldx _ _ _ _ t | .vstx _ _ _ _ t => if t.inIndexed then none else some .badType
  | .srrd _ r =>
    if r.toNat ≤ 4 || (0x100 ≤ r.toNat && r.toNat ≤ 0x104) || r.toNat == 0x200 then none else some .systemRegister
  | .srwr _ r =>
    if r.toNat ≤ 2 || (0x100 ≤ r.toNat && r.toNat ≤ 0x104) then none else some .systemRegister
  | .mma _ sh a b sc =>
    if !(regs.all fun r => !r.isPort) then some .portField
    else if matrixWidth a.ty = none ∨ matrixWidth a.ty ≠ matrixWidth b.ty then some .badType
    else if matrixOperands sh a b sc false then none else some .badOperand
  | .mmas _ sh a b sc =>
    if !(regs.all fun r => !r.isPort) then some .portField
    else if matrixWidth a.ty ≠ some 8 ∨ matrixWidth b.ty ≠ some 8 then some .badType
    else if matrixOperands sh a b sc true then none else some .badOperand
  | .accld _ _ a =>
    if !(regs.all fun r => !r.isPort) then some .portField
    else if a.ty ≠ 10 then some .badType
    else if a.isBerth then some .badOperand else none
  | .accst _ _ c _ _ out =>
    if !(regs.all fun r => !r.isPort) then some .portField
    else if c.ty ≠ out.toNat ∨ accstType c.ty = false then some .badType
    else if c.isMem then none else some .badOperand
  | .tabld _ _ a =>
    if !(regs.all fun r => !r.isPort) then some .portField
    else if a.isMem && a.stride == 0 && a.ty == 0 then none else some .badOperand
  | .tcopy _ a c _ =>
    if !(regs.all fun r => !r.isPort) then some .portField
    else if a.ty ≠ c.ty ∨ copyType a.ty = false then some .badType
    else if !a.isBerth && c.isMem && a.stride == 0 && c.stride == 0 then none else some .badOperand
  | .tfill _ c _ _ =>
    if !(regs.all fun r => !r.isPort) then some .portField
    else if copyType c.ty = false then some .badType
    else if c.isMem && c.stride == 0 then none else some .badOperand
  | .tgather _ a b c _ =>
    if !(regs.all fun r => !r.isPort) then some .portField
    else if a.ty ≠ c.ty ∨ gatherType a.ty = false ∨ (b.ty ≠ 6 ∧ b.ty ≠ 7) then some .badType
    else if !a.isBerth && b.isMem && c.isMem && a.stride != 0 && b.stride == 0 && c.stride == 0 then none
    else some .badOperand
  | .tscatter _ a b c _ =>
    if !(regs.all fun r => !r.isPort) then some .portField
    else if a.ty ≠ c.ty ∨ gatherType a.ty = false ∨ (b.ty ≠ 6 ∧ b.ty ≠ 7) then some .badType
    else if !a.isBerth && b.isMem && c.isMem && a.stride == 0 && b.stride == 0 && c.stride != 0 then none
    else some .badOperand
  | .txchg _ _ g => if g.isPort then some .portField else none
  | .tsub _ a c _ _ =>
    if !(regs.all fun r => !r.isPort) then some .portField
    else if a.isMem && a.stride == 0 && c.isBerth then none else some .badOperand
  | .tunsub hd c =>
    if !(regs.all fun r => !r.isPort) then some .portField
    else if c.isBerth && hd.chain == none then none else some .badOperand
  | .accz .. | .qfence .. => none
  | .add .. | .addImm .. | .sub .. | .mul .. | .mulImm .. | .mulh .. | .mulhu .. | .div .. | .divu .. | .rem ..
  | .remu .. | .and .. | .andImm .. | .or .. | .orImm .. | .xor .. | .xorImm .. | .shl .. | .shr .. | .sra ..
  | .shlImm .. | .shrImm .. | .sraImm .. | .slt .. | .sltu .. | .sltImm .. | .sltuImm .. | .min .. | .max ..
  | .minu .. | .maxu .. | .minImm .. | .maxImm .. | .minuImm .. | .maxuImm .. | .clz .. | .popc .. | .ext ..
  | .lui .. | .beq .. | .bne .. | .blt .. | .bge .. | .bltu .. | .bgeu .. | .bmany .. | .bmnone .. | .bmall ..
  | .jal .. | .jalr .. | .ld .. | .st .. | .lda .. | .stl .. | .fence .. | .cinv .. | .cinvAll | .amoAdd ..
  | .amoAnd .. | .amoOr .. | .amoXor .. | .amoMin .. | .amoMax .. | .amoMinn .. | .amoMaxn .. | .amoSwap ..
  | .mwait .. | .evwait .. | .evsig .. | .vsel .. | .vbcast .. | .vslide .. | .vrep .. | .mset .. | .mand ..
  | .mor .. | .mxor .. | .mnot .. | .mpopc .. | .mfirst .. | .gang .. | .fwait .. | .ftest .. | .fcancel ..
  | .fref .. | .fdrop .. | .fpin .. | .ftake .. | .fdone .. | .depdec .. | .depdecMem .. | .rpoint | .self ..
  | .exit .. | .yield | .gjoin .. | .gleave .. | .gbar .. | .garrive .. | .xput .. | .qnew .. | .qfree ..
  | .qpush .. | .qpop .. | .qenq .. | .qlen .. | .lease .. | .unlease .. | .rack .. | .rlook .. | .snapopen ..
  | .snapcommit .. | .snaproll .. | .trap .. | .brk .. | .eret | .tinv .. | .tinvAll | .sleep .. => none
  | .dispatch .. | .workSteal .. | .timeSliceExpiry .. | .preemption .. | .saveTransferComplete .. | .aging ..
  | .dispatchCountHalving .. | .storeBufferDrain .. | .vectorLaneBind .. | .vectorRetire .. | .laneCountHalving ..
  | .engineCommandStart .. | .engineCommandComplete .. | .gangPlacement .. | .doomedFlagDelivery .. | .reclaim ..
  | .barrierFire .. | .xputLanding .. | .censusSample | .censusEpoch | .notice .. | .tideDrain | .tideDrainEnd
  | .roleMoveComplete .. | .forward .. | .tileFailingMark .. | .tileFailure .. | .injectionStarvation ..
  | .berthFillStart .. | .berthFillComplete .. | .berthDrain .. | .heldPushAccept .. | .remoteEnqueueArrival ..
  | .enqueueReply .. | .eventArrival .. | .txchgMessageArrival .. | .faultRecordDeferred .. | .idleCollapse ..
  | .collapseComplete .. | .wake .. | .wakeComplete .. | .waketime .. | .waketimeExpiry .. | .idlectl ..
  | .sleepExpiry .. | .powerInterval .. | .currentSample .. | .budget .. | .pctl .. | .dieCtl .. | .throttle ..
  | .teleper .. | .sensorRecalibration .. | .freeze | .unfreeze | .semClaim .. | .semFree .. | .hostLinkDown ..
  | .create .. | .destroy .. | .hostRegionWrite .. | .cxlMemAccess .. | .peerLinkTimeout ..
  | .pseudoChannelRetirement .. | .boot .. | .liveUpdate .. | .getVersion | .getCapabilities
  | .negotiateAlgorithms | .getDigests | .getCertificate | .getMeasurements | .peerAccessArrival ..
  | .hdmDecoderCommit .. | .noticeRecordDeferred .. | .commandDone | .apertureTableWrite .. => some .noEncoding

/-- An instruction that some word of the spec encodes. -/
abbrev Instr.WellFormed (i : Instr) : Prop := i.reject = none

/-- Is the instruction a tile command word, eight words long (R56)? -/
def Instr.isCommand : Instr → Bool
  | .mma .. | .mmas .. | .accz .. | .accld .. | .accst .. | .tabld .. | .tcopy .. | .tfill .. | .tgather ..
  | .tscatter .. | .txchg .. | .tsub .. | .tunsub .. | .qfence .. => true
  | _ => false

end Sys2Proof
end

