-- ==== Sys2Proof/Decode.lean ====
section
/-! DEFINITION. Decoding and encoding (spec/02_assembly.md R34 to R60). `decode` is total on any words and answers
either a well-formed instruction or the name of what makes the word illegal; `encode` writes an instruction's words
from the same tables. -/

namespace Sys2Proof

/-! ### Fields of a scalar word (R35) -/

def fMaj (w : Word32) : BitVec 6 := w.extractLsb' 26 6
def fD (w : Word32) : BitVec 5 := w.extractLsb' 21 5
def fA (w : Word32) : BitVec 5 := w.extractLsb' 16 5
def fB (w : Word32) : BitVec 5 := w.extractLsb' 11 5
def fX (w : Word32) : BitVec 5 := w.extractLsb' 6 5
def fFn (w : Word32) : BitVec 6 := w.extractLsb' 0 6
def fImm (w : Word32) : BitVec 16 := w.extractLsb' 0 16
def fHint (w : Word32) : BitVec 2 := w.extractLsb' 14 2
def fSize (w : Word32) : BitVec 2 := w.extractLsb' 12 2
def fOff (w : Word32) : BitVec 12 := w.extractLsb' 0 12
def fJ (w : Word32) : BitVec 21 := w.extractLsb' 0 21
def fMask (w : Word32) : BitVec 3 := w.extractLsb' 8 3
def fType (w : Word32) : BitVec 4 := w.extractLsb' 4 4
def fFn4 (w : Word32) : BitVec 4 := w.extractLsb' 0 4
def fH (w : Word32) : BitVec 4 := w.extractLsb' 22 4
def fHA (w : Word32) : BitVec 5 := w.extractLsb' 17 5
def fHB (w : Word32) : BitVec 5 := w.extractLsb' 12 5
def fH2 (w : Word32) : BitVec 4 := w.extractLsb' 8 4
def fFn8 (w : Word32) : BitVec 8 := w.extractLsb' 0 8
def fNum (w : Word32) : BitVec 12 := w.extractLsb' 4 12

/-! ### The formats of R35, written -/

def encA (m : BitVec 6) (d a b x : BitVec 5) (fn : BitVec 6) : Word32 := m ++ d ++ a ++ b ++ x ++ fn
def encI (m : BitVec 6) (d a : BitVec 5) (i : BitVec 16) : Word32 := m ++ d ++ a ++ i
def encL (m : BitVec 6) (d b : BitVec 5) (h z : BitVec 2) (o : BitVec 12) : Word32 := m ++ d ++ b ++ h ++ z ++ o
def encJ (m : BitVec 6) (l : BitVec 5) (o : BitVec 21) : Word32 := m ++ l ++ o
def encV (m : BitVec 6) (d a b : BitVec 5) (k : BitVec 3) (t fn : BitVec 4) : Word32 := m ++ d ++ a ++ b ++ k ++ t ++ fn
def encH (m : BitVec 6) (h : BitVec 4) (a b : BitVec 5) (h2 : BitVec 4) (fn : BitVec 8) : Word32 :=
  m ++ h ++ a ++ b ++ h2 ++ fn
def encS (m : BitVec 6) (d a : BitVec 5) (n : BitVec 12) (fn : BitVec 4) : Word32 := m ++ d ++ a ++ n ++ fn

/-! ### Codes of small fields -/

def Size.code : Size → BitVec 2
  | .b => 0 | .h => 1 | .w => 2 | .d => 3
def Size.ofCode (c : BitVec 2) : Size :=
  match c.toNat with
  | 0 => .b | 1 => .h | 2 => .w | _ => .d
def Hint.code : Hint → BitVec 2
  | .dflt => 0 | .short => 1 | .long => 2 | .bypass => 3
def Hint.ofCode (c : BitVec 2) : Hint :=
  match c.toNat with
  | 0 => .dflt | 1 => .short | 2 => .long | _ => .bypass
def Scope.code : Scope → BitVec 2
  | .tile => 0 | .module => 1 | .system => 2
def Scope.ofCode (c : BitVec 2) : Option Scope :=
  match c.toNat with
  | 0 => some .tile | 1 => some .module | 2 => some .system | _ => none
def Order.code : Order → BitVec 2
  | .relaxed => 0 | .acq => 1 | .rel => 2 | .ar => 3
def Order.ofCode (c : BitVec 2) : Order :=
  match c.toNat with
  | 0 => .relaxed | 1 => .acq | 2 => .rel | _ => .ar
def FenceKind.code : FenceKind → BitVec 2
  | .acq => 1 | .rel => 2 | .ar => 3
def FenceKind.ofCode (c : BitVec 2) : Option FenceKind :=
  match c.toNat with
  | 1 => some .acq | 2 => some .rel | 3 => some .ar | _ => none
def PfLevel.code : PfLevel → BitVec 2
  | .l1 => 0 | .l2 => 1
def PfLevel.ofCode (c : BitVec 2) : Option PfLevel :=
  match c.toNat with
  | 0 => some .l1 | 1 => some .l2 | _ => none
def Cond.code : Cond → BitVec 2
  | .eq => 0 | .ne => 1 | .lt => 2 | .le => 3
def Cond.ofCode (c : BitVec 2) : Cond :=
  match c.toNat with
  | 0 => .eq | 1 => .ne | 2 => .lt | _ => .le
def RedOp.code : RedOp → BitVec 5
  | .add => 0 | .min => 1 | .max => 2 | .and => 3 | .or => 4 | .xor => 5
def RedOp.ofCode (c : BitVec 5) : Option RedOp :=
  [RedOp.add, .min, .max, .and, .or, .xor][c.toNat]?
def EngQ.code : EngQ → BitVec 2
  | .matrix => 0 | .copy => 1 | .collective => 2 | .stream => 3
def EngQ.ofCode (c : BitVec 2) : EngQ :=
  match c.toNat with
  | 0 => .matrix | 1 => .copy | 2 => .collective | _ => .stream
def MCode.code : MCode → BitVec 2
  | .m16 => 0 | .m32 => 1 | .m64 => 2
def MCode.ofCode (c : BitVec 2) : Option MCode :=
  match c.toNat with
  | 0 => some .m16 | 1 => some .m32 | 2 => some .m64 | _ => none
def VTy.bits4 (t : VTy) : BitVec 4 := BitVec.ofNat 4 t.code
def bitOf (b : Bool) : BitVec 1 := if b then 1 else 0

/-! ### Reading a scalar word -/

/-- `i`, if every reserved field is zero. -/
def whenZero (ok : Bool) (i : Instr) : Except Reject Instr := if ok then .ok i else .error .reservedField

/-- A mask-naming A-format field (R38). -/
def fieldM (x : BitVec 5) (k : MReg → Except Reject Instr) : Except Reject Instr :=
  if x.toNat < 8 then k (x.setWidth 3) else .error .reservedField

/-- Major 0x01: register operations (R45). -/
def parseAlu (w : Word32) : Except Reject Instr :=
  let d := fD w; let a := fA w; let b := fB w
  if fX w ≠ 0 then .error .reservedField else
  match (fFn w).toNat with
  | 0x00 => .ok (.add d a b) | 0x01 => .ok (.sub d a b) | 0x02 => .ok (.mul d a b) | 0x03 => .ok (.mulh d a b)
  | 0x04 => .ok (.mulhu d a b) | 0x05 => .ok (.div d a b) | 0x06 => .ok (.divu d a b) | 0x07 => .ok (.rem d a b)
  | 0x08 => .ok (.remu d a b) | 0x09 => .ok (.and d a b) | 0x0A => .ok (.or d a b) | 0x0B => .ok (.xor d a b)
  | 0x0C => .ok (.shl d a b) | 0x0D => .ok (.shr d a b) | 0x0E => .ok (.sra d a b) | 0x0F => .ok (.slt d a b)
  | 0x10 => .ok (.sltu d a b) | 0x11 => .ok (.min d a b) | 0x12 => .ok (.max d a b) | 0x13 => .ok (.minu d a b)
  | 0x14 => .ok (.maxu d a b) | 0x15 => whenZero (b == 0) (.clz d a) | 0x16 => whenZero (b == 0) (.popc d a)
  | 0x17 => .ok (.ext d a b) | _ => .error .reservedFunction

/-- Major 0x07: shifts by an immediate (R44). -/
def parseShiftImm (w : Word32) : Except Reject Instr :=
  let n : BitVec 6 := w.extractLsb' 0 6
  if w.extractLsb' 8 8 ≠ 0 then .error .reservedField else
  match (w.extractLsb' 6 2).toNat with
  | 0 => .ok (.shlImm (fD w) (fA w) n) | 1 => .ok (.shrImm (fD w) (fA w) n) | 2 => .ok (.sraImm (fD w) (fA w) n)
  | _ => .error .reservedField

/-- Major 0x0A: minima and maxima with an immediate (R44). -/
def parseMinMaxImm (w : Word32) : Except Reject Instr :=
  let i : BitVec 14 := w.extractLsb' 0 14
  match (fHint w).toNat with
  | 0 => .ok (.minImm (fD w) (fA w) i) | 1 => .ok (.maxImm (fD w) (fA w) i) | 2 => .ok (.minuImm (fD w) (fA w) i)
  | _ => .ok (.maxuImm (fD w) (fA w) i)

/-- Major 0x0B: EXT immediate, bits 5:0 lowest bit, 11:6 width − 1, 12 signed (R44). -/
def parseExtImm (w : Word32) : Except Reject Instr :=
  whenZero (w.extractLsb' 13 3 == 0)
    (.extImm (fD w) (fA w) (w.extractLsb' 12 1 == 1) (w.extractLsb' 6 6) (w.extractLsb' 0 6))

/-- Major 0x16: mask branches (R44). -/
def parseMaskBranch (w : Word32) : Except Reject Instr :=
  fieldM (fA w) fun k =>
    match (fD w).toNat with
    | 0 => .ok (.bmany k (fImm w)) | 1 => .ok (.bmnone k (fImm w)) | 2 => .ok (.bmall k (fImm w))
    | _ => .error .reservedFunction

def withScope (c : BitVec 2) (k : Scope → Except Reject Instr) : Except Reject Instr :=
  match Scope.ofCode c with
  | some s => k s
  | none => .error .reservedField

/-- Major 0x25: FENCE and CINV (R49). -/
def parseFence (w : Word32) : Except Reject Instr :=
  let x := fX w
  match (fFn w).toNat with
  | 0 =>
    withScope (x.extractLsb' 0 2) fun c =>
      match FenceKind.ofCode (x.extractLsb' 2 2) with
      | some k => whenZero (fD w == 0 && fA w == 0 && fB w == 0 && x.extractLsb' 4 1 == 0) (.fence k c)
      | none => .error .reservedField
  | 1 =>
    if fD w ≠ 0 ∨ fB w ≠ 0 then .error .reservedField
    else match x.toNat with
      | 0 => .ok (.cinv (fA w))
      | 1 => whenZero (fA w == 0) .cinvAll
      | _ => .error .reservedField
  | _ => .error .reservedFunction

/-- Major 0x26: PF; the d field is zero, the size field the level (R48). -/
def parsePf (w : Word32) : Except Reject Instr :=
  match PfLevel.ofCode (fSize w) with
  | some l => whenZero (fD w == 0) (.pf (fA w) (Hint.ofCode (fHint w)) l (fOff w))
  | none => .error .reservedField

/-- Major 0x28: atomics (R49). -/
def parseAmo (w : Word32) : Except Reject Instr :=
  let x := fX w; let d := fD w; let a := fA w; let b := fB w
  let dw := x.extractLsb' 4 1 == 1
  let o := Order.ofCode (x.extractLsb' 2 2)
  withScope (x.extractLsb' 0 2) fun c =>
    match (fFn w).toNat with
    | 0 => .ok (.amoAdd d a b dw o c) | 1 => .ok (.amoAnd d a b dw o c) | 2 => .ok (.amoOr d a b dw o c)
    | 3 => .ok (.amoXor d a b dw o c) | 4 => .ok (.amoMin d a b dw o c) | 5 => .ok (.amoMax d a b dw o c)
    | 6 => .ok (.amoMinn d a b dw o c) | 7 => .ok (.amoMaxn d a b dw o c) | 8 => .ok (.amoSwap d a b dw o c)
    | 9 => .ok (.amocas d a b dw o c)
    | _ => .error .reservedFunction

/-- Major 0x29: MWAIT, EVWAIT, EVSIG (R49). -/
def parseWait (w : Word32) : Except Reject Instr :=
  let x := fX w
  match (fFn w).toNat with
  | 0 => withScope (x.extractLsb' 0 2) fun c =>
      whenZero (x.extractLsb' 2 2 == 0) (.mwait (fD w) (fA w) (fB w) (x.extractLsb' 4 1 == 1) c)
  | 1 => whenZero (x == 0 && fB w == 0) (.evwait (fD w) (fA w))
  | 2 => whenZero (x == 0 && fD w == 0) (.evsig (fA w) (fB w))
  | _ => .error .reservedFunction

/-- Majors 0x30 and 0x31 with a decoded type (R50, R51). -/
def parseVec0 (w : Word32) (t : VTy) : Except Reject Instr :=
  let d := fD w; let a := fA w; let b := fB w; let k := fMask w
  match (fFn4 w).toNat with
  | 0 => .ok (.vadd d a b k t) | 1 => .ok (.vsub d a b k t) | 2 => .ok (.vmul d a b k t) | 3 => .ok (.vfma d a b k t)
  | 4 => .ok (.vmin d a b k t) | 5 => .ok (.vmax d a b k t)
  | 6 => whenZero (b == 0) (.vabs d a k t) | 7 => whenZero (b == 0) (.vneg d a k t)
  | 8 => .ok (.vand d a b k t) | 9 => .ok (.vor d a b k t) | 10 => .ok (.vxor d a b k t)
  | 11 => .ok (.vshl d a b k t) | 12 => .ok (.vshr d a b k t) | 13 => .ok (.vsra d a b k t)
  | 14 => .ok (.vcmp (Cond.ofCode (d.extractLsb' 3 2)) (d.extractLsb' 0 3) a b k t)
  | _ => .ok (.vsel d a b k t)

def withRed (w : Word32) (f : RedOp → Instr) : Except Reject Instr :=
  match RedOp.ofCode (fB w) with
  | some p => .ok (f p)
  | none => .error .reservedField

def parseVec1 (w : Word32) (t : VTy) : Except Reject Instr :=
  let d := fD w; let a := fA w; let b := fB w; let k := fMask w
  let s : BitVec 2 := b.extractLsb' 0 2
  match (fFn4 w).toNat with
  | 0 => .ok (.vaddSat d a b k t) | 1 => .ok (.vsubSat d a b k t)
  | 2 => withRed w fun p => .vred d a p k t
  | 3 => withRed w fun p => .vscan d a p k t
  | 4 =>
    match VTy.ofCode b.toNat with
    | some e => .ok (.vcvt d a e k t)
    | none => .error .badType
  | 5 => whenZero (b.extractLsb' 2 3 == 0) (.vdec d a s k t) | 6 => whenZero (b.extractLsb' 2 3 == 0) (.venc d a s k t)
  | 7 => whenZero (b == 0) (.vrcp d a k t) | 8 => whenZero (b == 0) (.vrsq d a k t)
  | 9 => whenZero (b == 0) (.vexp2 d a k t) | 10 => whenZero (b == 0) (.vlog2 d a k t)
  | 11 => whenZero (b == 0) (.vbcast d a k t)
  | 12 => whenZero (k == 0) (.vmovs d a b t)
  | 13 => .ok (.vperm d a b k t) | 14 => .ok (.vslide d a b k t)
  | _ => whenZero (a == 0 && b == 0) (.viota d k t)

def parseVec2 (w : Word32) (t : VTy) : Except Reject Instr :=
  let d := fD w; let a := fA w; let b := fB w; let k := fMask w
  match (fFn4 w).toNat with
  | 0 => .ok (.vld d a b k t) | 1 => .ok (.vst d a b k t) | 2 => .ok (.vldx d a b k t) | 3 => .ok (.vstx d a b k t)
  | _ => .error .reservedFunction

def withType (w : Word32) (f : Word32 → VTy → Except Reject Instr) : Except Reject Instr :=
  match VTy.ofCode (fType w).toNat with
  | some t => f w t
  | none => .error .badType

/-- Major 0x33: VREP (R51). -/
def parseVrep (w : Word32) : Except Reject Instr :=
  let d := fD w
  if fFn4 w ≠ 0 then .error .reservedFunction
  else whenZero (d.extractLsb' 4 1 == 0 && fMask w == 0 && fType w == 0)
    (.vrep (d.extractLsb' 0 4) (fA w) (fB w))

/-- Major 0x34: mask operations (R47). -/
def parseMask (w : Word32) : Except Reject Instr :=
  if fX w ≠ 0 then .error .reservedField else
  match (fFn w).toNat with
  | 0 => fieldM (fD w) fun d => whenZero (fB w == 0) (.mset d (fA w))
  | 1 => fieldM (fD w) fun d => fieldM (fA w) fun a => fieldM (fB w) fun b => .ok (.mand d a b)
  | 2 => fieldM (fD w) fun d => fieldM (fA w) fun a => fieldM (fB w) fun b => .ok (.mor d a b)
  | 3 => fieldM (fD w) fun d => fieldM (fA w) fun a => fieldM (fB w) fun b => .ok (.mxor d a b)
  | 4 => fieldM (fD w) fun d => fieldM (fA w) fun a => whenZero (fB w == 0) (.mnot d a)
  | 5 => fieldM (fA w) fun a => whenZero (fB w == 0) (.mpopc (fD w) a)
  | 6 => fieldM (fA w) fun a => whenZero (fB w == 0) (.mfirst (fD w) a)
  | _ => .error .reservedFunction

/-- Major 0x38: tasks and futures (R52). -/
def parseTask (w : Word32) : Except Reject Instr :=
  let h := fH w; let a := fHA w; let b := fHB w; let p := fH2 w
  let z (hz az bz pz : Bool) : Bool := (!hz || h == 0) && (!az || a == 0) && (!bz || b == 0) && (!pz || p == 0)
  match (fFn8 w).toNat with
  | 0x00 => whenZero (z false false false true) (.spawn h a b)
  | 0x01 => .ok (.spawnPass h a b p)
  | 0x02 => whenZero (z false false true true) (.gang h a)
  | 0x03 => whenZero (z false false false true) (.fork h a b)
  | 0x04 => whenZero (z false false false true) (.fwait h a b)
  | 0x05 => whenZero (z false false true true) (.ftest h a)
  | 0x06 => whenZero (z false true true true) (.fcancel h)
  | 0x07 => whenZero (z false true true false) (.fref h p)
  | 0x08 => whenZero (z false true true true) (.fdrop h)
  | 0x09 => whenZero (z false false true true) (.fpin h a)
  | 0x0A => whenZero (z false false true true) (.ftake h a)
  | 0x0B => whenZero (z true false true true) (.fdone a)
  | 0x0C => whenZero (z false true true true) (.depdec h)
  | 0x0D => whenZero (z true false true true) (.depdecMem a)
  | 0x0E => whenZero (z true true true true) .rpoint
  | 0x0F => whenZero (z false true true true) (.self h)
  | 0x10 => whenZero (z true false true true) (.exit a)
  | 0x11 => whenZero (z true true true true) .yield
  | _ => .error .reservedFunction

/-- Major 0x39: groups and exchange (R52). -/
def parseGroup (w : Word32) : Except Reject Instr :=
  let a := fHA w; let b := fHB w
  let ok := fH w == 0 && fH2 w == 0
  match (fFn8 w).toNat with
  | 0 => whenZero (ok && b == 0) (.gjoin a)
  | 1 => whenZero (ok && b == 0) (.gleave a)
  | 2 => whenZero ok (.gbar a b)
  | 3 => whenZero (ok && b == 0) (.garrive a)
  | 4 => whenZero ok (.xput a b)
  | _ => .error .reservedFunction

/-- Major 0x3A: queues (R52). -/
def parseQueue (w : Word32) : Except Reject Instr :=
  let h := fH w; let a := fHA w; let b := fHB w
  let ok := h == 0 && fH2 w == 0
  match (fFn8 w).toNat with
  | 0 => whenZero ok (.qnew a b)
  | 1 => whenZero (ok && b == 0) (.qfree a)
  | 2 => whenZero (h.extractLsb' 3 1 == 0 && fH2 w == 0 && b == 0) (.qbind (h.extractLsb' 0 3) a)
  | 3 => whenZero ok (.qpush a b)
  | 4 => whenZero ok (.qpop a b)
  | 5 => whenZero (fH2 w == 0) (.qenq h a b)
  | 6 => whenZero ok (.qlen a b)
  | _ => .error .reservedFunction

/-- Major 0x3B: roles and snapshots (R52). -/
def parseRole (w : Word32) : Except Reject Instr :=
  let a := fHA w; let b := fHB w
  let ok := fH w == 0 && fH2 w == 0
  match (fFn8 w).toNat with
  | 0 => whenZero ok (.lease a b)
  | 1 => whenZero (ok && b == 0) (.unlease a)
  | 2 => whenZero (ok && b == 0) (.rack a)
  | 3 => whenZero ok (.rlook a b)
  | 4 => whenZero (ok && b == 0) (.snapopen a)
  | 5 => whenZero (ok && b == 0) (.snapcommit a)
  | 6 => whenZero ok (.snaproll a b)
  | _ => .error .reservedFunction

/-- Major 0x3C: system (R54). -/
def parseSystem (w : Word32) : Except Reject Instr :=
  let d := fD w; let a := fA w; let n := fNum w
  match (fFn4 w).toNat with
  | 0 => whenZero (a == 0) (.srrd d n)
  | 1 => whenZero (d == 0) (.srwr a n)
  | 2 => whenZero (d == 0 && a == 0) (.trap n)
  | 3 => whenZero (d == 0 && a == 0) (.brk n)
  | 4 => whenZero (d == 0 && a == 0 && n == 0) .eret
  | 5 =>
    if d ≠ 0 then .error .reservedField
    else match n.toNat with
      | 0 => .ok (.tinv a)
      | 1 => whenZero (a == 0) .tinvAll
      | _ => .error .reservedField
  | 6 => whenZero (d == 0 && n == 0) (.sleep a)
  | _ => .error .reservedFunction

/-- A scalar word's instruction, before the checks of `Instr.reject` (R44). -/
def parseScalar (w : Word32) : Except Reject Instr :=
  if w = 0 then .error .zeroWord else
  let d := fD w; let a := fA w
  match (fMaj w).toNat with
  | 0x01 => parseAlu w
  | 0x02 => .ok (.addImm d a (fImm w))
  | 0x03 => .ok (.mulImm d a (fImm w))
  | 0x04 => .ok (.andImm d a (fImm w))
  | 0x05 => .ok (.orImm d a (fImm w))
  | 0x06 => .ok (.xorImm d a (fImm w))
  | 0x07 => parseShiftImm w
  | 0x08 => .ok (.sltImm d a (fImm w))
  | 0x09 => .ok (.sltuImm d a (fImm w))
  | 0x0A => parseMinMaxImm w
  | 0x0B => parseExtImm w
  | 0x0C => whenZero (a == 0) (.lui d (fImm w))
  | 0x10 => .ok (.beq d a (fImm w))
  | 0x11 => .ok (.bne d a (fImm w))
  | 0x12 => .ok (.blt d a (fImm w))
  | 0x13 => .ok (.bge d a (fImm w))
  | 0x14 => .ok (.bltu d a (fImm w))
  | 0x15 => .ok (.bgeu d a (fImm w))
  | 0x16 => parseMaskBranch w
  | 0x17 => .ok (.jal d (fJ w))
  | 0x18 => .ok (.jalr d a (fImm w))
  | 0x20 => .ok (.ld d a (Hint.ofCode (fHint w)) (Size.ofCode (fSize w)) (fOff w))
  | 0x21 => .ok (.ldn d a (Hint.ofCode (fHint w)) (Size.ofCode (fSize w)) (fOff w))
  | 0x22 => .ok (.st d a (Hint.ofCode (fHint w)) (Size.ofCode (fSize w)) (fOff w))
  | 0x23 => withScope (fHint w) fun c => .ok (.lda d a c (Size.ofCode (fSize w)) (fOff w))
  | 0x24 => withScope (fHint w) fun c => .ok (.stl d a c (Size.ofCode (fSize w)) (fOff w))
  | 0x25 => parseFence w
  | 0x26 => parsePf w
  | 0x28 => parseAmo w
  | 0x29 => parseWait w
  | 0x30 => withType w parseVec0
  | 0x31 => withType w parseVec1
  | 0x32 => if 4 ≤ (fFn4 w).toNat then .error .reservedFunction else withType w parseVec2
  | 0x33 => parseVrep w
  | 0x34 => parseMask w
  | 0x38 => parseTask w
  | 0x39 => parseGroup w
  | 0x3A => parseQueue w
  | 0x3B => parseRole w
  | 0x3C => parseSystem w
  | _ => .error .reservedMajor

/-! ### Reading a tile command word -/

/-- The 26 bits of content of one of words 1 to 7 (R56). -/
def cont (w : Word32) : BitVec 26 := w.extractLsb' 0 26

/-- An operand descriptor (R59). -/
def parseOpnd (c : BitVec 26) : Except Reject Opnd :=
  let base : GReg := c.extractLsb' 19 5
  let ty : BitVec 4 := c.extractLsb' 15 4
  let s : GReg := c.extractLsb' 10 5
  let o : BitVec 10 := c.extractLsb' 0 10
  match (c.extractLsb' 24 2).toNat with
  | 0 => .ok (.mem false base ty s o)
  | 1 => .ok (.mem true base ty s o)
  | 2 => if o = 0 then .ok (.berth base ty s) else .error .reservedField
  | _ => .error .badOperand

/-- Tag, future and successor of words 0 and 1 (R57, R58). -/
def parseHead (w0 : Word32) (c1 : BitVec 26) : Except Reject CmdHead :=
  let fut : HReg := w0.extractLsb' 6 4
  let futen := w0.extractLsb' 5 1 == 1
  let chainen := w0.extractLsb' 4 1 == 1
  let cq : BitVec 2 := w0.extractLsb' 2 2
  let ct : BitVec 8 := c1.extractLsb' 18 8
  if w0.extractLsb' 0 2 ≠ 0 then .error .reservedField
  else if !futen && fut != 0 then .error .reservedField
  else if !chainen && (cq != 0 || ct != 0) then .error .reservedField
  else .ok { tag := w0.extractLsb' 10 8, fut := if futen then some fut else none,
             chain := if chainen then some (EngQ.ofCode cq, ct) else none }

/-- Accumulator block, M and N of word 1 (R58). -/
def parseShape (c1 : BitVec 26) : Except Reject Shape :=
  if c1.extractLsb' 0 4 ≠ 0 then .error .reservedField else
  match MCode.ofCode (c1.extractLsb' 10 2) with
  | some m => .ok { acc := c1.extractLsb' 12 6, m := m, n := c1.extractLsb' 4 6 }
  | none => .error .reservedField

/-- Scale mode and its registers, in a word 5 whose other bits are zero (R58, R397). -/
def parseScale (c5 : BitVec 26) : Except Reject ScaleMode :=
  if c5.extractLsb' 2 14 ≠ 0 then .error .reservedField else
  match (c5.extractLsb' 0 2).toNat with
  | 0 => if c5.extractLsb' 16 10 = 0 then .ok .none else .error .reservedField
  | 1 => if c5.extractLsb' 16 10 = 0 then .ok .side else .error .reservedField
  | 2 => .ok (.regs (c5.extractLsb' 21 5) (c5.extractLsb' 16 5))
  | _ => .error .reservedField

def opBody (c1 : BitVec 26) : BitVec 18 := c1.extractLsb' 0 18

/-- The contents of words 1 to 7 of a command. -/
structure Tail where
  c1 : BitVec 26
  c2 : BitVec 26
  c3 : BitVec 26
  c4 : BitVec 26
  c5 : BitVec 26
  c6 : BitVec 26
  c7 : BitVec 26

/-- Word 6 with a length register only, or with a length and a value register (R58). -/
def lenReg (c6 : BitVec 26) : GReg := c6.extractLsb' 21 5
def valReg (c6 : BitVec 26) : GReg := c6.extractLsb' 16 5

/-- A tile command's instruction, before the checks of `Instr.reject` (R60). -/
def parseCommand (w0 : Word32) (t : Tail) : Except Reject Instr := do
  let hd ← parseHead w0 t.c1
  let q : BitVec 2 := w0.extractLsb' 18 2
  let inQ (n : Nat) (z : Bool) (k : Except Reject Instr) : Except Reject Instr :=
    if q.toNat ≠ n then .error .reservedField else if z then k else .error .reservedField
  match (w0.extractLsb' 20 6).toNat with
  | 0x00 => inQ 0 (t.c4 == 0 && t.c6 == 0 && t.c7 == 0) do
      return .mma hd (← parseShape t.c1) (← parseOpnd t.c2) (← parseOpnd t.c3) (← parseScale t.c5)
  | 0x01 => inQ 0 (t.c4 == 0 && t.c6 == 0 && t.c7 == 0) do
      return .mmas hd (← parseShape t.c1) (← parseOpnd t.c2) (← parseOpnd t.c3) (← parseScale t.c5)
  | 0x02 => inQ 0 (t.c2 == 0 && t.c3 == 0 && t.c4 == 0 && t.c5 == 0 && t.c6 == 0 && t.c7 == 0) do
      return .accz hd (← parseShape t.c1)
  | 0x03 => inQ 0 (t.c3 == 0 && t.c4 == 0 && t.c5 == 0 && t.c6 == 0 && t.c7 == 0) do
      return .accld hd (← parseShape t.c1) (← parseOpnd t.c2)
  | 0x04 => inQ 0 (t.c2 == 0 && t.c3 == 0 && t.c6 == 0 && t.c7 == 0 && t.c5.extractLsb' 16 10 == 0 &&
        t.c5.extractLsb' 0 2 == 0) do
      return .accst hd (← parseShape t.c1) (← parseOpnd t.c4) (t.c5.extractLsb' 11 5) (t.c5.extractLsb' 6 5)
        (t.c5.extractLsb' 2 4)
  | 0x05 => inQ 0 (t.c3 == 0 && t.c4 == 0 && t.c5 == 0 && t.c6 == 0 && t.c7 == 0 && t.c1.extractLsb' 2 16 == 0) do
      return .tabld hd (t.c1.extractLsb' 0 2) (← parseOpnd t.c2)
  | 0x08 => inQ 1 (opBody t.c1 == 0 && t.c3 == 0 && t.c5 == 0 && t.c7 == 0 && t.c6.extractLsb' 0 21 == 0) do
      return .tcopy hd (← parseOpnd t.c2) (← parseOpnd t.c4) (lenReg t.c6)
  | 0x09 => inQ 1 (opBody t.c1 == 0 && t.c2 == 0 && t.c3 == 0 && t.c5 == 0 && t.c7 == 0 &&
        t.c6.extractLsb' 0 16 == 0) do
      return .tfill hd (← parseOpnd t.c4) (lenReg t.c6) (valReg t.c6)
  | 0x0A => inQ 1 (opBody t.c1 == 0 && t.c5 == 0 && t.c7 == 0 && t.c6.extractLsb' 0 21 == 0) do
      return .tgather hd (← parseOpnd t.c2) (← parseOpnd t.c3) (← parseOpnd t.c4) (lenReg t.c6)
  | 0x0B => inQ 1 (opBody t.c1 == 0 && t.c5 == 0 && t.c7 == 0 && t.c6.extractLsb' 0 21 == 0) do
      return .tscatter hd (← parseOpnd t.c2) (← parseOpnd t.c3) (← parseOpnd t.c4) (lenReg t.c6)
  | 0x10 => inQ 2 (t.c2 == 0 && t.c3 == 0 && t.c4 == 0 && t.c5 == 0 && t.c6 == 0 && t.c7.extractLsb' 0 21 == 0) do
      return .txchg hd (← parseShape t.c1) (t.c7.extractLsb' 21 5)
  | 0x18 => inQ 3 (opBody t.c1 == 0 && t.c3 == 0 && t.c5 == 0 && t.c6.extractLsb' 0 21 == 0 &&
        t.c7.extractLsb' 1 25 == 0) do
      return .tsub hd (← parseOpnd t.c2) (← parseOpnd t.c4) (lenReg t.c6) (t.c7.extractLsb' 0 1 == 1)
  | 0x19 => inQ 3 (opBody t.c1 == 0 && t.c2 == 0 && t.c3 == 0 && t.c5 == 0 && t.c6 == 0 && t.c7 == 0) do
      return .tunsub hd (← parseOpnd t.c4)
  | 0x3F =>
    if t.c2 == 0 && t.c3 == 0 && t.c4 == 0 && t.c5 == 0 && t.c6 == 0 && t.c7 == 0 && t.c1.extractLsb' 4 14 == 0 then
      .ok (.qfence hd (EngQ.ofCode q) (t.c1.extractLsb' 0 4))
    else .error .reservedField
  | _ => .error .reservedFunction

/-- The content of words 1 to 7, when there are seven and each carries major 0x3E (R56). -/
def tailOf : List Word32 → Option Tail
  | [a, b, c, d, e, f, g] =>
    if [a, b, c, d, e, f, g].all fun w => fMaj w == 0x3E then
      some ⟨cont a, cont b, cont c, cont d, cont e, cont f, cont g⟩
    else none
  | _ => none

/-- Is this word 0 of a tile command (R44)? -/
def isCommandWord (w : Word32) : Bool := fMaj w == 0x3F

/-- The instruction that stands at the start of the words, unchecked. -/
def parse (w0 : Word32) (rest : List Word32) : Except Reject Instr :=
  if isCommandWord w0 then
    match tailOf rest with
    | some t => parseCommand w0 t
    | none => .error .badTail
  else parseScalar w0

/-- The decoder: word 0 and, for a tile command, the seven words after it. -/
def decode (w0 : Word32) (rest : List Word32) : Except Reject Instr :=
  match parse w0 rest with
  | .error r => .error r
  | .ok i =>
    match i.reject with
    | none => .ok i
    | some r => .error r

/-! ### Writing an instruction -/

def wide (x : BitVec 3) : BitVec 5 := 0#2 ++ x

def encOpnd : Opnd → BitVec 26
  | .mem l2 base ty s o => (if l2 then 1#2 else 0#2) ++ base ++ ty ++ s ++ o
  | .berth base ty n => 2#2 ++ base ++ ty ++ n ++ 0#10

def encTailWord (c : BitVec 26) : Word32 := 0x3E#6 ++ c

/-- Words 0 to 7 of a command from its operation, queue, head and the contents of its tail words. -/
def encCommand (op : BitVec 6) (q : EngQ) (hd : CmdHead) (b1 : BitVec 18) (c2 c3 c4 c5 c6 c7 : BitVec 26) :
    List Word32 :=
  let ct : BitVec 8 := match hd.chain with
    | some (_, t) => t
    | none => 0
  let cq : BitVec 2 := match hd.chain with
    | some (s, _) => s.code
    | none => 0
  let w0 : Word32 := 0x3F#6 ++ op ++ q.code ++ hd.tag ++ hd.fut.getD 0 ++ bitOf hd.fut.isSome ++
    bitOf hd.chain.isSome ++ cq ++ 0#2
  [w0, encTailWord (ct ++ b1), encTailWord c2, encTailWord c3, encTailWord c4, encTailWord c5, encTailWord c6,
    encTailWord c7]

def encShape (s : Shape) : BitVec 18 := s.acc ++ s.m.code ++ s.n ++ 0#4
def encScale : ScaleMode → BitVec 26
  | .none => 0
  | .side => 1
  | .regs a b => a ++ b ++ 0#14 ++ 2#2
def encLen (l : GReg) : BitVec 26 := l ++ 0#21

/-- The words of an instruction; none for an event. -/
def encode : Instr → List Word32
  | .add d a b => [encA 0x01 d a b 0 0x00]
  | .addImm d a i => [encI 0x02 d a i]
  | .sub d a b => [encA 0x01 d a b 0 0x01]
  | .mul d a b => [encA 0x01 d a b 0 0x02]
  | .mulImm d a i => [encI 0x03 d a i]
  | .mulh d a b => [encA 0x01 d a b 0 0x03]
  | .mulhu d a b => [encA 0x01 d a b 0 0x04]
  | .div d a b => [encA 0x01 d a b 0 0x05]
  | .divu d a b => [encA 0x01 d a b 0 0x06]
  | .rem d a b => [encA 0x01 d a b 0 0x07]
  | .remu d a b => [encA 0x01 d a b 0 0x08]
  | .and d a b => [encA 0x01 d a b 0 0x09]
  | .andImm d a i => [encI 0x04 d a i]
  | .or d a b => [encA 0x01 d a b 0 0x0A]
  | .orImm d a i => [encI 0x05 d a i]
  | .xor d a b => [encA 0x01 d a b 0 0x0B]
  | .xorImm d a i => [encI 0x06 d a i]
  | .shl d a b => [encA 0x01 d a b 0 0x0C]
  | .shr d a b => [encA 0x01 d a b 0 0x0D]
  | .sra d a b => [encA 0x01 d a b 0 0x0E]
  | .shlImm d a n => [encI 0x07 d a (0#8 ++ 0#2 ++ n)]
  | .shrImm d a n => [encI 0x07 d a (0#8 ++ 1#2 ++ n)]
  | .sraImm d a n => [encI 0x07 d a (0#8 ++ 2#2 ++ n)]
  | .slt d a b => [encA 0x01 d a b 0 0x0F]
  | .sltu d a b => [encA 0x01 d a b 0 0x10]
  | .sltImm d a i => [encI 0x08 d a i]
  | .sltuImm d a i => [encI 0x09 d a i]
  | .min d a b => [encA 0x01 d a b 0 0x11]
  | .max d a b => [encA 0x01 d a b 0 0x12]
  | .minu d a b => [encA 0x01 d a b 0 0x13]
  | .maxu d a b => [encA 0x01 d a b 0 0x14]
  | .minImm d a i => [encI 0x0A d a (0#2 ++ i)]
  | .maxImm d a i => [encI 0x0A d a (1#2 ++ i)]
  | .minuImm d a i => [encI 0x0A d a (2#2 ++ i)]
  | .maxuImm d a i => [encI 0x0A d a (3#2 ++ i)]
  | .clz d a => [encA 0x01 d a 0 0 0x15]
  | .popc d a => [encA 0x01 d a 0 0 0x16]
  | .ext d a b => [encA 0x01 d a b 0 0x17]
  | .extImm d a s w l => [encI 0x0B d a (0#3 ++ bitOf s ++ w ++ l)]
  | .lui d i => [encI 0x0C d 0 i]
  | .beq a b o => [encI 0x10 a b o]
  | .bne a b o => [encI 0x11 a b o]
  | .blt a b o => [encI 0x12 a b o]
  | .bge a b o => [encI 0x13 a b o]
  | .bltu a b o => [encI 0x14 a b o]
  | .bgeu a b o => [encI 0x15 a b o]
  | .bmany k o => [encI 0x16 0 (wide k) o]
  | .bmnone k o => [encI 0x16 1 (wide k) o]
  | .bmall k o => [encI 0x16 2 (wide k) o]
  | .jal l o => [encJ 0x17 l o]
  | .jalr d a i => [encI 0x18 d a i]
  | .ld d b h z o => [encL 0x20 d b h.code z.code o]
  | .ldn d b h z o => [encL 0x21 d b h.code z.code o]
  | .st s b h z o => [encL 0x22 s b h.code z.code o]
  | .lda d b c z o => [encL 0x23 d b c.code z.code o]
  | .stl s b c z o => [encL 0x24 s b c.code z.code o]
  | .fence k c => [encA 0x25 0 0 0 (0#1 ++ k.code ++ c.code) 0x00]
  | .cinv a => [encA 0x25 0 a 0 0 0x01]
  | .cinvAll => [encA 0x25 0 0 0 1 0x01]
  | .pf b h l o => [encL 0x26 0 b h.code l.code o]
  | .amoAdd d a b dw o c => [encA 0x28 d a b (bitOf dw ++ o.code ++ c.code) 0x00]
  | .amoAnd d a b dw o c => [encA 0x28 d a b (bitOf dw ++ o.code ++ c.code) 0x01]
  | .amoOr d a b dw o c => [encA 0x28 d a b (bitOf dw ++ o.code ++ c.code) 0x02]
  | .amoXor d a b dw o c => [encA 0x28 d a b (bitOf dw ++ o.code ++ c.code) 0x03]
  | .amoMin d a b dw o c => [encA 0x28 d a b (bitOf dw ++ o.code ++ c.code) 0x04]
  | .amoMax d a b dw o c => [encA 0x28 d a b (bitOf dw ++ o.code ++ c.code) 0x05]
  | .amoMinn d a b dw o c => [encA 0x28 d a b (bitOf dw ++ o.code ++ c.code) 0x06]
  | .amoMaxn d a b dw o c => [encA 0x28 d a b (bitOf dw ++ o.code ++ c.code) 0x07]
  | .amoSwap d a b dw o c => [encA 0x28 d a b (bitOf dw ++ o.code ++ c.code) 0x08]
  | .amocas d a b dw o c => [encA 0x28 d a b (bitOf dw ++ o.code ++ c.code) 0x09]
  | .mwait d a b dw c => [encA 0x29 d a b (bitOf dw ++ 0#2 ++ c.code) 0x00]
  | .evwait d a => [encA 0x29 d a 0 0 0x01]
  | .evsig a b => [encA 0x29 0 a b 0 0x02]
  | .vadd d a b k t => [encV 0x30 d a b k t.bits4 0]
  | .vsub d a b k t => [encV 0x30 d a b k t.bits4 1]
  | .vmul d a b k t => [encV 0x30 d a b k t.bits4 2]
  | .vfma d a b k t => [encV 0x30 d a b k t.bits4 3]
  | .vmin d a b k t => [encV 0x30 d a b k t.bits4 4]
  | .vmax d a b k t => [encV 0x30 d a b k t.bits4 5]
  | .vabs d a k t => [encV 0x30 d a 0 k t.bits4 6]
  | .vneg d a k t => [encV 0x30 d a 0 k t.bits4 7]
  | .vand d a b k t => [encV 0x30 d a b k t.bits4 8]
  | .vor d a b k t => [encV 0x30 d a b k t.bits4 9]
  | .vxor d a b k t => [encV 0x30 d a b k t.bits4 10]
  | .vshl d a b k t => [encV 0x30 d a b k t.bits4 11]
  | .vshr d a b k t => [encV 0x30 d a b k t.bits4 12]
  | .vsra d a b k t => [encV 0x30 d a b k t.bits4 13]
  | .vcmp c m a b k t => [encV 0x30 (c.code ++ m) a b k t.bits4 14]
  | .vsel d a b s t => [encV 0x30 d a b s t.bits4 15]
  | .vaddSat d a b k t => [encV 0x31 d a b k t.bits4 0]
  | .vsubSat d a b k t => [encV 0x31 d a b k t.bits4 1]
  | .vred d a p k t => [encV 0x31 d a p.code k t.bits4 2]
  | .vscan d a p k t => [encV 0x31 d a p.code k t.bits4 3]
  | .vcvt d a e k t => [encV 0x31 d a (0#1 ++ e.bits4) k t.bits4 4]
  | .vdec d a s k t => [encV 0x31 d a (0#3 ++ s) k t.bits4 5]
  | .venc d a s k t => [encV 0x31 d a (0#3 ++ s) k t.bits4 6]
  | .vrcp d a k t => [encV 0x31 d a 0 k t.bits4 7]
  | .vrsq d a k t => [encV 0x31 d a 0 k t.bits4 8]
  | .vexp2 d a k t => [encV 0x31 d a 0 k t.bits4 9]
  | .vlog2 d a k t => [encV 0x31 d a 0 k t.bits4 10]
  | .vbcast d g k t => [encV 0x31 d g 0 k t.bits4 11]
  | .vmovs g a l t => [encV 0x31 g a l 0 t.bits4 12]
  | .vperm d a b k t => [encV 0x31 d a b k t.bits4 13]
  | .vslide d a g k t => [encV 0x31 d a g k t.bits4 14]
  | .viota d k t => [encV 0x31 d 0 0 k t.bits4 15]
  | .vld d a b k t => [encV 0x32 d a b k t.bits4 0]
  | .vst d a b k t => [encV 0x32 d a b k t.bits4 1]
  | .vldx d a b k t => [encV 0x32 d a b k t.bits4 2]
  | .vstx d a b k t => [encV 0x32 d a b k t.bits4 3]
  | .vrep n a s => [encV 0x33 (0#1 ++ n) a s 0 0 0]
  | .mset d a => [encA 0x34 (wide d) a 0 0 0x00]
  | .mand d a b => [encA 0x34 (wide d) (wide a) (wide b) 0 0x01]
  | .mor d a b => [encA 0x34 (wide d) (wide a) (wide b) 0 0x02]
  | .mxor d a b => [encA 0x34 (wide d) (wide a) (wide b) 0 0x03]
  | .mnot d a => [encA 0x34 (wide d) (wide a) 0 0 0x04]
  | .mpopc d a => [encA 0x34 d (wide a) 0 0 0x05]
  | .mfirst d a => [encA 0x34 d (wide a) 0 0 0x06]
  | .spawn h a b => [encH 0x38 h a b 0 0x00]
  | .spawnPass h a b p => [encH 0x38 h a b p 0x01]
  | .gang h a => [encH 0x38 h a 0 0 0x02]
  | .fork h a b => [encH 0x38 h a b 0 0x03]
  | .fwait h a b => [encH 0x38 h a b 0 0x04]
  | .ftest h a => [encH 0x38 h a 0 0 0x05]
  | .fcancel h => [encH 0x38 h 0 0 0 0x06]
  | .fref h s => [encH 0x38 h 0 0 s 0x07]
  | .fdrop h => [encH 0x38 h 0 0 0 0x08]
  | .fpin h a => [encH 0x38 h a 0 0 0x09]
  | .ftake h a => [encH 0x38 h a 0 0 0x0A]
  | .fdone a => [encH 0x38 0 a 0 0 0x0B]
  | .depdec h => [encH 0x38 h 0 0 0 0x0C]
  | .depdecMem a => [encH 0x38 0 a 0 0 0x0D]
  | .rpoint => [encH 0x38 0 0 0 0 0x0E]
  | .self h => [encH 0x38 h 0 0 0 0x0F]
  | .exit a => [encH 0x38 0 a 0 0 0x10]
  | .yield => [encH 0x38 0 0 0 0 0x11]
  | .gjoin a => [encH 0x39 0 a 0 0 0x00]
  | .gleave a => [encH 0x39 0 a 0 0 0x01]
  | .gbar a b => [encH 0x39 0 a b 0 0x02]
  | .garrive a => [encH 0x39 0 a 0 0 0x03]
  | .xput a b => [encH 0x39 0 a b 0 0x04]
  | .qnew a b => [encH 0x3A 0 a b 0 0x00]
  | .qfree a => [encH 0x3A 0 a 0 0 0x01]
  | .qbind p a => [encH 0x3A (0#1 ++ p) a 0 0 0x02]
  | .qpush a b => [encH 0x3A 0 a b 0 0x03]
  | .qpop a b => [encH 0x3A 0 a b 0 0x04]
  | .qenq h a b => [encH 0x3A h a b 0 0x05]
  | .qlen a b => [encH 0x3A 0 a b 0 0x06]
  | .lease a b => [encH 0x3B 0 a b 0 0x00]
  | .unlease a => [encH 0x3B 0 a 0 0 0x01]
  | .rack a => [encH 0x3B 0 a 0 0 0x02]
  | .rlook a b => [encH 0x3B 0 a b 0 0x03]
  | .snapopen a => [encH 0x3B 0 a 0 0 0x04]
  | .snapcommit a => [encH 0x3B 0 a 0 0 0x05]
  | .snaproll a b => [encH 0x3B 0 a b 0 0x06]
  | .srrd d r => [encS 0x3C d 0 r 0x0]
  | .srwr a r => [encS 0x3C 0 a r 0x1]
  | .trap c => [encS 0x3C 0 0 c 0x2]
  | .brk c => [encS 0x3C 0 0 c 0x3]
  | .eret => [encS 0x3C 0 0 0 0x4]
  | .tinv a => [encS 0x3C 0 a 0 0x5]
  | .tinvAll => [encS 0x3C 0 0 1 0x5]
  | .sleep a => [encS 0x3C 0 a 0 0x6]
  | .mma hd sh a b sc => encCommand 0x00 .matrix hd (encShape sh) (encOpnd a) (encOpnd b) 0 (encScale sc) 0 0
  | .mmas hd sh a b sc => encCommand 0x01 .matrix hd (encShape sh) (encOpnd a) (encOpnd b) 0 (encScale sc) 0 0
  | .accz hd sh => encCommand 0x02 .matrix hd (encShape sh) 0 0 0 0 0 0
  | .accld hd sh a => encCommand 0x03 .matrix hd (encShape sh) (encOpnd a) 0 0 0 0 0
  | .accst hd sh c ta tb out =>
    encCommand 0x04 .matrix hd (encShape sh) 0 0 (encOpnd c) (0#10 ++ ta ++ tb ++ out ++ 0#2) 0 0
  | .tabld hd slot a => encCommand 0x05 .matrix hd (0#16 ++ slot) (encOpnd a) 0 0 0 0 0
  | .tcopy hd a c l => encCommand 0x08 .copy hd 0 (encOpnd a) 0 (encOpnd c) 0 (encLen l) 0
  | .tfill hd c l v => encCommand 0x09 .copy hd 0 0 0 (encOpnd c) 0 (l ++ v ++ 0#16) 0
  | .tgather hd a b c l => encCommand 0x0A .copy hd 0 (encOpnd a) (encOpnd b) (encOpnd c) 0 (encLen l) 0
  | .tscatter hd a b c l => encCommand 0x0B .copy hd 0 (encOpnd a) (encOpnd b) (encOpnd c) 0 (encLen l) 0
  | .txchg hd sh g => encCommand 0x10 .collective hd (encShape sh) 0 0 0 0 0 (encLen g)
  | .tsub hd a c l p => encCommand 0x18 .stream hd 0 (encOpnd a) 0 (encOpnd c) 0 (encLen l) (0#25 ++ bitOf p)
  | .tunsub hd c => encCommand 0x19 .stream hd 0 0 0 (encOpnd c) 0 0 0
  | .qfence hd q m => encCommand 0x3F q hd (0#14 ++ m) 0 0 0 0 0 0
  | .dispatch .. | .workSteal .. | .timeSliceExpiry .. | .preemption .. | .saveTransferComplete .. | .aging ..
  | .dispatchCountHalving .. | .storeBufferDrain .. | .vectorLaneBind .. | .vectorRetire .. | .laneCountHalving ..
  | .engineCommandStart .. | .engineCommandComplete .. | .gangPlacement .. | .doomedFlagDelivery .. | .reclaim ..
  | .barrierFire .. | .xputLanding .. | .censusSample | .censusEpoch | .notice .. | .tideDrain | .tideDrainEnd
  | .roleMoveComplete .. | .forward .. | .tileFailingMark .. | .tileFailure .. | .injectionStarvation ..
  | .berthFillStart .. | .berthFillComplete .. | .berthDrain .. | .heldPushAccept .. | .remoteEnqueueArrival ..
  | .enqueueReply .. | .eventArrival .. | .txchgMessageArrival .. | .faultRecordDeferred .. | .idleCollapse ..
  | .collapseComplete .. | .wake .. | .wakeComplete .. | .waketime .. | .waketimeExpiry .. | .idlectl ..
  | .sleepExpiry .. | .powerInterval .. | .currentSample .. | .budget .. | .pctl .. | .dieCtl .. | .throttle ..
  | .teleper .. | .sensorRecalibration .. | .freeze | .unfreeze | .semClaim .. | .semFree .. | .hostLinkDown ..
  | .create .. | .destroy .. | .hostRegionWrite .. | .cxlMemAccess .. | .peerLinkTimeout ..
  | .pseudoChannelRetirement .. | .boot .. | .liveUpdate .. | .getVersion | .getCapabilities
  | .negotiateAlgorithms | .getDigests | .getCertificate | .getMeasurements | .peerAccessArrival ..
  | .hdmDecoderCommit .. | .noticeRecordDeferred .. | .commandDone | .apertureTableWrite .. => []

/-- Word 0 of an instruction, the TVAL of a trap that reports the word (R269); 0 for an event. -/
def Instr.word (i : Instr) : Word := ((encode i).headD 0).setWidth 64

/-- The words of an instruction that occupies `nbits` bits whose value is `w` (bit 0 the least significant bit of the
first word); the words above are zero. -/
def tableWords (w : Nat) : Nat → List Word32
  | 0 => []
  | n + 1 => BitVec.ofNat 32 w :: tableWords (w / 2 ^ 32) n

/-- The instruction the decoder reads from the word that spec/opcode_table.json numbers from bit 0 of its first word. -/
def decodeTableWord (nbits w : Nat) : Option Instr :=
  match tableWords (w % 2 ^ nbits) 8 with
  | w0 :: rest =>
    match decode w0 rest with
    | .ok i => some i
    | .error _ => none
  | [] => none

end Sys2Proof
end

