-- ==== Sys2Proof/Config.lean ====
section
/-! DEFINITION. What one implementation of the DX-4 fixes, and the values that the spec leaves open. A constant with a
body is a number of the spec or a choice named in notes/assumptions; an opaque one is a free value: nothing can be
proved of it but what its type says. -/

namespace Sys2Proof.Config

/-! ### Free choices

Each takes the draw counter of the state (State.draws), which every use advances, so that no two uses are tied to one
another (notes/assumptions/4.md). -/

/-- Which of the turns that can be taken is taken when the agenda is empty. -/
opaque pick : Nat → Nat
/-- How many cycles beyond one pass in a step. -/
opaque stall : Nat → Nat
/-- One of two choices. -/
opaque keeps : Nat → Bool
/-- Which of the eight ways of a TLB set a fill replaces (R254). -/
opaque victim : Nat → Nat
/-- Which member of a set of allowed values is taken (R8): an index, used modulo the size of the set. -/
opaque choose : Nat → Nat
/-- A value that nothing constrains. -/
opaque free : Nat → BitVec 64

/-! ### What an implementation fixes -/

/-- Which of the 36 slices of its die is home of a 256-byte line, modulo 36, under a home map of boot firmware (R16). -/
opaque slice : Nat → Nat → Nat
/-- The slice that caches a line of host memory (R331), modulo 144. -/
opaque hostSlice : Nat → Nat
/-- The set of its slice that a line belongs to, modulo 2,048 (R174). -/
opaque l2set : Nat → Nat
/-- In which 64 KiB page of HBM a page of a backed entry lies, by its key (R226), modulo the pages of the HBM. -/
opaque backing : Nat → Nat
/-- The op field of a header (R233) for a kind, a size, a byte mask, a scope, an order, an atomic function and a queue handle:
its layout is not given. -/
opaque op : Nat → Nat → Nat → Nat → Nat → Nat → Nat → BitVec 50
/-- Through which slice of its die a quay streamer reaches the network (R232), modulo 36. -/
opaque streamerSlice : Nat → Nat
/-- Room of a tile's message receive buffer and of a stop's injection queue, less one (R239, R240). -/
opaque messageRoom : Nat
opaque injectionRoom : Nat
/-- Which of the two host ports an access to host memory goes through, modulo 2. -/
opaque hostPort : Nat → Nat
/-- The stop that holds a group of a device, to which the packets of its barriers go, modulo 1,024 (R234). -/
opaque groupStop : Nat → Nat → Nat
/-- The stop at which the census injects its notices. -/
opaque censusStop : Nat
/-- Where in which of its groups the control plane puts the future table of a device it creates (R79, R328). -/
opaque tableBase : Nat → Nat
/-- Where in each of its groups a device's collapse area begins (R309), as far as it fits. -/
opaque collapseBase : Nat → Nat
/-- In which 64 KiB frame the part of the flash begins that takes the copies of powered-off groups (R310). -/
opaque flashCopy : Nat
/-- The module's certificate chain (R335), and SHA-512 of doublewords (R335): its algorithm stands in another document. -/
opaque certificate : List (BitVec 64)
opaque sha512 : List (BitVec 64) → BitVec 512
/-- The second half of an ECDSA signature of a digest by the vendor key in fuses, with a first half (R333): that algorithm
stands in another document too. -/
opaque vendorSign : BitVec 512 → Nat → Nat
/-- What the CXL.io status registers show once both slots have failed (R333): their layout is not given. -/
opaque bootFailure : BitVec 64
/-- The base and the exponent k of the telemetry ring (R323), set by boot firmware. -/
opaque telemetryBase : Nat
opaque telemetryExponent : Nat
/-- The fused rollback counter before the first update (R333). -/
opaque fusedRollback : Nat

/-! ### Numbers of the spec -/

/-- Census epoch, tide, power interval (R150, R242, R317), in cycles. -/
def epoch : Nat := 2 ^ 20
def tide : Nat := 65536
def interval : Nat := 4096
/-- A time slice (R93) and the aging period (R96). -/
def slice20 : Nat := 2 ^ 20
/-- HBM bytes and the flash range (R171). -/
def hbmBytes : Nat := 1536 * 10 ^ 9
def flashBase : Nat := 2 ^ 47
def flashBytes : Nat := 96 * 10 ^ 12
/-- The tile window, the event window and the aperture block (R168). -/
def windowBase : Nat := 0x01F0000000000000
def eventBase : Nat := 0x01F8000000000000
def apertureBase : Nat := 0x01FC000000000000
/-- One logical tile's part of the tile window (R143). -/
def tileSpan : Nat := 2 ^ 24
/-- Bytes of one HBM stack, and of the stacks beside one die; of one flash channel (R16, R23). -/
def stackBytes : Nat := 96 * 10 ^ 9
def dieBytes : Nat := 384 * 10 ^ 9
def channelBytes : Nat := 3 * 10 ^ 12
/-- Bytes of a pseudo-channel group, and of a pseudo-channel (R309). -/
def groupBytes : Nat := 12 * 10 ^ 9
/-- L2 slices of a die and of the module, ways and sets of a slice: 8 MiB of 256-byte lines (R10, R174). -/
def slicesPerDie : Nat := 36
def slices : Nat := 4 * slicesPerDie
def ways : Nat := 16
def sets : Nat := 8 * 2 ^ 20 / (256 * ways)
/-- L2 capacity (R32): 1,152 MiB. -/
def l2Bytes : Nat := slices * sets * ways * 256
/-- Lines of 64 bytes of an L1 partition (R172) and of an instruction cache (R18). -/
def l1Lines : Nat := 2 * 2 ^ 20 / 64
def icacheLines : Nat := 64 * 2 ^ 10 / 64
/-- A scratch bank, and the storage words of a storage tile (R143). -/
def bankBytes : Nat := 2 ^ 20
def storageBytes : Nat := 10 * 2 ^ 20

end Sys2Proof.Config
end

