-- ==== Sys2Proof/Machine/State.lean ====
section
/-! DEFINITION. The state of the module: everything the spec gives the machine, as plain data, and its value at reset.
A list keyed by a number lists only what differs from the value its accessor gives an absent key. -/

namespace Sys2Proof.Machine

/-! ### Memory -/

/-- Bytes by key, keys strictly rising, no entry zero: an unlisted key reads as zero (notes/assumptions/1.md). The key
of a byte names its storage: an HBM or flash byte has its physical address (R171), a byte of a tile's SRAM
`sramKey`, a byte of a backed entry's pages `backedKey`, a byte of host or peer memory `hostKey` or `peerKey`. -/
abbrev Memory := List Host.Cell

/-- The canonical form of a memory. -/
abbrev Memory.wf (m : Memory) : Prop := m.Pairwise (fun a b => a.1 < b.1) ∧ ∀ c ∈ m, c.2 ≠ 0

/-- A byte of a compute tile's bank (`bank * 2^20 + offset`) or of a storage tile's words. -/
def sramKey (tile off : Nat) : Nat := 2 ^ 52 + tile * 2 ^ 24 + off
/-- A byte of the HBM backing pages of a backed entry (R226): they lie outside every address space. -/
def backedKey (vd lid off : Nat) : Nat := 2 ^ 53 + (vd * 4096 + lid) * 2 ^ 24 + off
/-- The place of a byte of a saved window, for the marks that go with it: bank 0 from 0, bank 1 from 2^20. -/
def savedKey (task off : Nat) : Nat := 2 ^ 54 + task * 2 ^ 22 + off
/-- A byte of host memory (R331). -/
def hostKey (a : Nat) : Nat := 2 ^ 70 + a
/-- A byte of a peer module's memory. -/
def peerKey (id a : Nat) : Nat := 2 ^ 80 + id * 2 ^ 64 + a

/-! ### A thread's registers -/

/-- A queue port (R39, R40): the bound handle, 0 when unbound, and the pending latch. -/
structure Port where
  bound : Word32 := 0
  latch : Option Word := none
  deriving DecidableEq, Repr

inductive Mode where | task | supervisor
  deriving DecidableEq, Repr

/-- A VREP that is being issued (R113, R114): its address, repetition count and body, read once at issue, and the
repetition and body word that come next. `loaded`: the count and the body have been read. `active`: it is the
instruction that the thread is executing. -/
structure Vrep where
  pc : Word
  active : Bool
  loaded : Bool
  count : Nat
  body : List Word32
  stride : Nat
  rep : Nat
  idx : Nat
  deriving DecidableEq, Repr

/-- The architected registers of a thread (R38, R42, R267); index 0 of `g` and of `m` is never read. -/
structure Ctx where
  g : Vector Word 24 := Vector.replicate 24 0
  v : Vector VWord 32 := Vector.replicate 32 0
  m : Vector Word32 8 := Vector.replicate 8 0
  h : Vector Word 16 := Vector.replicate 16 0
  q : Vector Port 8 := Vector.replicate 8 {}
  pc : Word := 0
  mode : Mode := .task
  fctl : Word := 0
  fstat : Word := 0
  tcause : Word := 0
  tval : Word := 0
  tepc : Word := 0
  tstatus : Word := 0
  vrep : Option Vrep := none
  /-- the VREP that a trap has interrupted, until the ERET that resumes it -/
  outer : Option Vrep := none
  deriving DecidableEq, Repr

/-! ### Stores on their way -/

/-- Where an access goes once it is translated. -/
inductive Target where
  /-- a frame byte; `ms`: memory-side page -/
  | phys (a : Nat) (ms : Bool)
  /-- an offset of a logical tile, resolved through the role map when the packet leaves (R146); `own`: the issuing
  task's own window, by its original address (R159) -/
  | window (lid off : Nat) (own : Bool)
  | host (a : Nat)
  | peer (id a : Nat)
  deriving DecidableEq, Repr

/-- A store within one 256-byte line: its virtual address, its target, its bytes by offset, the effective retention and
the tier of its page (R175), and the level of the leaf that translated it (R257). `rel`: made by an STL of module or system
scope (R205 note 5). `joined`: of one entry of the store buffer with the store before it (R459). -/
structure Store where
  va : Nat
  target : Target
  bytes : List (Nat × Byte)
  rel : Bool := false
  ret : Nat := 0
  tier : Nat := 0
  level : Nat := 0
  joined : Bool := false
  deriving DecidableEq, Repr

/-! ### Translations -/

/-- A cached leaf (R254): tag, level of the leaf (0: 64 KiB, 1: 2 MiB, 2: 1 GiB), the entry's value and its address. -/
structure TlbEntry where
  vd : Nat
  vpn : Nat
  level : Nat
  leaf : Word
  pte : Nat
  deriving DecidableEq, Repr

/-! ### Engine commands -/

/-- A decode table (R286): kind c8 or c4, and its header and entries as loaded. -/
structure Table where
  c4 : Bool
  inf : Bool
  nan : Option Nat
  entries : List Word32
  /-- the header as it stood in the image -/
  head : Word := 0
  deriving DecidableEq, Repr

/-- A tile command in a queue (R61, R115, R117): its task, FCTL and register values captured at the push, the
translations pinned, its future, the commands it waits for, its open link, and how far it has come. -/
structure Cmd where
  id : Nat
  task : Nat
  vd : Nat
  /-- the tile and the core that pushed it, or to which it was restored (R273) -/
  core : Nat × Nat := (0, 0)
  instr : Instr
  fctl : Word
  vals : List Word
  pins : List TlbEntry
  fut : Option Nat
  preds : List Nat := []
  link : Option (EngQ × BitVec 8) := none
  /-- commands pushed earlier to the named queues that have not completed (QFENCE) -/
  awaits : List Nat := []
  started : Bool := false
  /-- it had started when a save took it away un-started (R271) -/
  paused : Bool := false
  /-- the engine packets (R234) that have been performed, by number -/
  done : List Nat := []
  /-- what a copy command's overlapping bytes held when it started, by key (R439, R441) -/
  before : List (Nat × Byte) := []
  detail : Nat := 0
  table : Option Table := none
  /-- journal entries reserved: region and number (R194) -/
  reserved : List (Nat × Nat) := []
  deriving DecidableEq, Repr

/-- The running subscription of a core (R190): the quay streamer that serves it, by number (R10, R22), the ring's place in
its task's window, next panel, panels left. -/
structure Sub where
  cmd : Cmd
  streamer : Nat := 0
  /-- offset of the ring within the task's window -/
  ring : Nat
  berths : Nat
  src : Nat
  pull : Bool
  total : Nat
  /-- next panel to fill and, with pull, the next to drain -/
  next : Nat := 0
  drained : Nat := 0
  /-- the panel whose fill is in progress -/
  filling : Option Nat := none
  detail : Nat := 0
  /-- TUNSUB has ended it; the futures of the TUNSUBs that wait for the end -/
  ending : Bool := false
  waiters : List Nat := []
  deriving DecidableEq, Repr

/-- A vector instruction in a core's queue (R110): the task that issued it. -/
structure VqEntry where
  task : Nat
  instr : Instr
  bound : Option Nat := none
  deriving DecidableEq, Repr

/-- A TXCHG message (R297, R449): its shape and sum. -/
structure Message where
  rows : Nat
  cols : Nat
  sum : List Word32
  deriving DecidableEq, Repr

/-! ### Tiles -/

/-- One of the four cores of a tile. -/
structure Core where
  vq : List VqEntry := []
  /-- lane-group cycles counted against VSHARE (R111) -/
  laneCount : Nat := 0
  matrix : List Cmd := []
  copy : List Cmd := []
  collective : List Cmd := []
  stream : List Cmd := []
  /-- the elements of the partition that are not +0, by 256 × block + 16 × row + column (R292) -/
  acc : List (Nat × Word32) := []
  /-- the elements that hold an uncorrectable error (R197, R347) -/
  accErr : List Nat := []
  /-- rings that commands of the core have named: the task, the place in its window, the berths (R188) -/
  rings : List (Nat × Nat × Nat) := []
  /-- the task that owns the partition (R270) -/
  owner : Option Nat := none
  slots : Vector (Option Table) 4 := Vector.replicate 4 none
  sub : Option Sub := none
  /-- restored subscriptions that wait for the core's running one to end (R273) -/
  paused : List Sub := []
  /-- the thread that issued last (R71) -/
  lastThread : Nat := 3
  /-- for each thread, the master cycle of its last SPAWN, and whether the last turn of the round-robin passed it over
  (R105) -/
  lastSpawn : Vector (Option Nat) 4 := Vector.replicate 4 none
  passed : Vector Bool 4 := Vector.replicate 4 false
  deriving DecidableEq, Repr

/-- A tile (R18, R19, R143): whose it is, its caches, its cores. A tile that no device owns is dark; its role then is
that of its last work, at reset compute (notes/assumptions/68.md). -/
structure Tile where
  owner : Option (Nat × Nat) := none
  role : Nat := 1
  dark : Bool := true
  failing : Bool := false
  retired : Bool := false
  /-- L1 lines (R172) by the core in whose partition they stand and line address / 64 -/
  l1 : List ((Nat × Nat) × BitVec 512) := []
  /-- the L1 lines that hold an uncorrectable error (R197), by line address / 64 -/
  l1Err : List Nat := []
  /-- the 64-byte lines that the instruction cache holds (R18), newest first -/
  icache : List Nat := []
  tlb : List TlbEntry := []
  vshare : Word := 0x01010101
  /-- for each of the four lane groups, the core it serves -/
  lanes : Vector (Option Nat) 4 := Vector.replicate 4 none
  cores : Vector Core 4 := Vector.replicate 4 {}
  /-- the core each engine served last (R115): matrix, copy, collective -/
  served : Vector Nat 3 := Vector.replicate 3 3
  /-- halvings of its lane counts (R111) -/
  halved : Nat := 0
  /-- live 256-byte lines of a storage tile (R144) -/
  live : List Nat := []
  deriving DecidableEq, Repr

/-! ### Tasks -/

/-- Which future a task works for (R79, R91, R87). -/
inductive Ident where
  | ordinary (fut : Nat)
  | recruit (fork i : Nat)
  | gangThread (gang group thread : Nat)
  deriving DecidableEq, Repr

/-- What the instruction at a pc has done in a mode before it could complete, and does not do again
(notes/assumptions/33.md): the values of its destinations, and which ports it still has to push to, all where none are
listed. `instr`: the instruction, none of a value that a wake has given to a QPOP or GBAR. -/
structure Kept where
  pc : Word
  mode : Mode
  instr : Option Instr := none
  vals : List Word
  todo : Option (List Nat) := none
  deriving DecidableEq, Repr

/-- What a BLOCKED task waits for (R72, R82, R115, R259, R270). -/
inductive Wait where
  /-- FWAIT on a future -/
  | future (idx : Nat)
  /-- MWAIT: a 256-byte block, by key / 256, with the location and what it was compared with -/
  | monitor (block : Nat)
  /-- EVWAIT in a cluster -/
  | lines (cluster : Nat) (mask : Word32)
  | barrier (group : Nat)
  /-- a pop of an empty queue, by handle; through a port or not -/
  | pop (q : Word32) (port : Option Nat)
  /-- pushes held at their queues' homes (R407), each with the port it goes through, what the instruction has done, and the
  context to which a refusal returns (R413) -/
  | push (left : List (Word32 × Option Nat)) (done : Option Kept) (before : Ctx)
  | record
  | engine (q : EngQ)
  | partition
  /-- a page fault: the entry's block and the record's block -/
  | fault (entry record : Nat)
  /-- a full fault ring, with the record to be written: access, cause, address, level and entry (R259) -/
  | ring (record : Nat × Nat × Nat × Nat × Nat)
  | sleep (till : Nat)
  | yield
  deriving DecidableEq, Repr

/-- Where a task stands (R131). -/
inductive Status where
  | pending
  | ready
  | running (p : Place)
  | blocked (w : Wait)
  /-- quiesced by a pre-emption or a role move, its save transfer in progress (R271) -/
  | saving (p : Place)
  /-- stopped at a reclamation point, or while parked or waiting, and not yet torn down (R136) -/
  | stopping (p : Option Place)
  deriving DecidableEq, Repr

/-- A scratch window (R76, R159, R182): its size, its present tile and offset, its live bank, and its original logical
tile and offset; `tile = none` while it is saved. -/
structure Window where
  size : Nat
  tile : Option Nat
  off : Nat
  bank : Nat
  lid : Nat
  origOff : Nat
  deriving DecidableEq, Repr

/-- What a save puts beside the registers (R272, R310). -/
structure Saved where
  acc : Option (List (Nat × Word32)) := none
  accErr : List Nat := []
  slots : Vector (Option Table) 4 := Vector.replicate 4 none
  cmds : List (EngQ × Cmd) := []
  sub : Option Sub := none
  /-- the rings of its window that commands of the core have named: the place in the window, the berths -/
  rings : List (Nat × Nat) := []
  /-- window bytes, bank 0 from 0 and bank 1 from the window's size -/
  window : List (Nat × Byte) := []
  deriving DecidableEq, Repr

/-- The fault record a task has written (R258 to R261): ring index, key of the record and address, and whether a dispatch
has read its status. -/
structure FaultRef where
  n : Nat
  record : Nat
  va : Nat
  read : Bool := false
  deriving DecidableEq, Repr

/-- What a wake hands to a parked task: the news that its monitor fired, or the trap of a held push that was refused
(R413). -/
inductive Woke where
  | done
  | trap (cause : Nat) (tval : Word)
  deriving DecidableEq, Repr

structure Extent where
  base : Nat
  len : Nat
  deriving DecidableEq, Repr

structure Task where
  vd : Nat
  ident : Ident
  status : Status := .ready
  ctx : Ctx := {}
  scratch : Nat := 0
  descPrio : Nat := 0
  prio : Nat := 0
  readytime : Nat := 0
  ran : Bool := false
  /-- it was pre-empted, and has not run since (R92, R94) -/
  preempted : Bool := false
  home : Nat := 0
  /-- the core it is bound to (R72), and the place it last ran on -/
  bound : Option (Nat × Nat) := none
  last : Place := ⟨0, 0, 0⟩
  /-- the logical tile it last ran on -/
  lid : Nat := 0
  extents : List Extent := []
  extTable : List TlbEntry := []
  window : Option Window := none
  saved : Option Saved := none
  /-- doomed at its home; the flag has reached the core (R134); FCANCEL marked it (R131) -/
  doomed : Bool := false
  delivered : Bool := false
  cancel : Bool := false
  /-- torn down as far as its started commands allow (R136 step 8) -/
  torn : Bool := false
  fdone : Bool := false
  /-- the cycle in which it took its thread (R93) -/
  since : Nat := 0
  /-- the master cycle of its die until which a short SLEEP holds the thread (R424); without a thread, the master cycles
  that are left of it -/
  heldTill : Nat := 0
  /-- due for pre-emption (R93); the thread that a completion or a pre-emption keeps for it (R92, R93) -/
  due : Bool := false
  direct : Option Place := none
  /-- stores that wait in the store buffer, oldest first (R201) -/
  sbuf : List Store := []
  waitReacher : Option Word := none
  /-- what its wake handed it: a monitor that fired, a refusal -/
  woke : Option Woke := none
  /-- what its wake gave the instruction that waits, a popped entry or the status of a barrier, or what an instruction had
  done whose push was refused; at most one for each mode -/
  kept : List Kept := []
  /-- the TINV that it executes has dropped its translations (R257): the commands that pinned one of them -/
  tinv : Option (List Nat) := none
  fault : Option FaultRef := none
  /-- its context area (R79, R272) -/
  context : Option Nat := none
  deriving DecidableEq, Repr

/-! ### Virtual devices -/

/-- A future record (R79 to R81), with the children its completion feeds (R123) and the detail of R127. `ended`: the
work is over, so that the record is freed when its count reaches zero. -/
structure Fut where
  kind : Nat := 0
  gen : Nat := 0
  state : Nat := 0
  reach : Nat := 0
  dep : Nat := 0
  source : Nat := 0
  arg : Word := 0
  result : Word := 0
  cause : Nat := 0
  detail : Nat := 0
  prio : Nat := 0
  detach : Bool := false
  ran : Bool := false
  doomed : Bool := false
  cancel : Bool := false
  context : Nat := 0
  readytime : Nat := 0
  /-- join cell of a fork (R92): recruits made, recruits running; for a gang, its threads and those not ended -/
  made : Nat := 0
  left : Nat := 0
  feeds : List Nat := []
  ended : Bool := false
  /-- the cause of the first failed recruit or gang thread -/
  failed : Option Nat := none
  deriving DecidableEq, Repr

/-- A gang that waits for its placement (R85). -/
structure GangWait where
  fut : Nat
  groups : Nat
  threads : Nat
  entry : Word
  arg : Word
  scratch : Nat
  prio : Nat
  extents : List Extent
  deriving DecidableEq, Repr

/-- A pending notice on a role map entry (R153, R155). -/
structure Notice where
  kind : Nat
  noticed : Nat
  tide : Nat
  acked : Bool := false
  /-- the record that will end it is reserved in the ring (R156) -/
  reserved : Bool := true
  deriving DecidableEq, Repr

/-- A role map entry (R145): roles 0 none, 1 compute, 2 storage, 3 routing; states 0 stable, 1 noticed, 2 moving,
3 dark. -/
structure Entry where
  gen : BitVec 8 := 0
  lease : Nat := 0
  backed : Bool := false
  role : Nat := 0
  state : Nat := 0
  newrole : Nat := 0
  phys : Nat := 0
  owner : Option Nat := none
  notice : Option Notice := none
  /-- the tile a move has chosen for the entry, with the role it will have -/
  target : Option Nat := none
  /-- the live lines of a backed entry (R144) -/
  live : List Nat := []
  deriving DecidableEq, Repr

/-- A round of a group's TXCHGs (R447, R448). -/
structure Round where
  n : Nat
  /-- the members in the order of R297, those that have departed unsent, those that have sent, and the messages that
  have reached a member -/
  order : List Nat
  gone : List Nat := []
  sent : List Nat := []
  msgs : List (Nat × Message) := []
  deriving DecidableEq, Repr

/-- A group (R88, R89): its members with the number of rounds that had begun when they joined, those that have arrived
in the episode, the episode's status, and its rounds. -/
structure Group where
  members : List (Nat × Nat) := []
  /-- with the number of XPUTs the device had issued then (R184) -/
  arrived : List (Nat × Nat) := []
  /-- members that departed without arriving, and how: exit, fault, reclaimed -/
  ndep : Nat := 0
  exit : Bool := false
  fault : Bool := false
  reclaimed : Bool := false
  /-- members that have been reclaimed since the last firing, with the number of XPUTs the device had issued (R137) -/
  gone : List (Nat × Nat) := []
  rounds : List Round := []
  begun : Nat := 0
  deriving DecidableEq, Repr

/-- Who waits for a held push (R407): a parked task, or an enqueue's future of a device or of a peer; none whose task is
gone. -/
inductive Pusher where
  | task (t : Nat)
  | enqueue (fut : Nat)
  | peer (src : BitVec 16)
  | gone
  deriving DecidableEq, Repr

/-- A hardware queue (R405 to R407): entries in order of arrival, parked poppers and held pushes in order. -/
structure Queue where
  prio : Bool
  entries : List Word := []
  poppers : List Nat := []
  held : List (Word × Pusher) := []
  deriving DecidableEq, Repr

/-- A snapshot region that is open (R192 to R195). -/
structure Region where
  base : Nat
  size : Nat
  undo : Nat
  undosize : Nat
  /-- the frames of the undo area, page by page -/
  pins : List TlbEntry
  /-- lines journalled, by virtual line number, in entry order; lines reserved by issued stores and commands -/
  lines : List Nat := []
  reserved : List Nat := []
  /-- the entries whose old bytes held an uncorrectable error when they were journalled (R428) -/
  bad : List Nat := []
  deriving DecidableEq, Repr

/-- A held access of a device that is not ACTIVE (R307, R308). -/
inductive HeldItem where
  | mailbox (value : Word)
  | access (a : MemAccess)
  | enqueue (handle : Word32) (value : Word) (fut : Option Nat)
  | event (cluster : Nat) (mask : Word32)
  deriving DecidableEq, Repr

/-- The decision of a census epoch that has not been noticed yet (R151, R153): the logical tile, its new role, the
physical tile taken from the pool, and the kind of the notice. -/
structure Decision where
  lid : Nat
  newrole : Nat
  pool : Option Nat
  kind : Nat
  deriving DecidableEq, Repr

/-- The pressures a census epoch accumulates (R150). -/
structure Pressure where
  samples : Nat := 0
  readySum : Nat := 0
  computeSum : Nat := 0
  anyReady : Bool := false
  /-- live lines and storage tiles at the samples, L2 miss lines to storage-eligible pages -/
  liveSum : Nat := 0
  storageSum : Nat := 0
  misses : Nat := 0
  /-- occupied and total data-class slots at the samples -/
  occupied : Nat := 0
  slots : Nat := 0
  deriving DecidableEq, Repr

structure Vd where
  -- the parameters of R83, R328
  root : Nat := 0
  tileQuota : Nat := 0
  hbmQuota : Nat := 0
  spillQuota : Nat := 0
  futQuota : Nat := 0
  weight : Nat := 1
  wakeClass : Nat := 1
  /-- the exclusive pseudo-channel groups, by number (R309) -/
  exclusive : List Nat := []
  flash : Nat := 0
  noticeRing : Nat := 0
  faultRing : Nat := 0
  faultK : Nat := 8
  regionTable : Nat := 0
  ctxBase : Nat := 0
  ctxSize : Nat := 0
  futBase : Nat := 0
  /-- translations pinned at creation (R471) -/
  noticePins : List TlbEntry := []
  faultPins : List TlbEntry := []
  -- what it holds
  rolemap : List (Nat × Entry) := []
  futs : List (Nat × Fut) := []
  tvec : Word := 0
  l2bypass : Word := 0
  depthFirst : Bool := false
  /-- the master cycles of the four dies at the last change of the mode bit, and of TVEC with the value before it; none
  before the first -/
  modeChanged : List Nat := []
  tvecChanged : List Nat := []
  tvecOld : Word := 0
  gangs : List GangWait := []
  groups : List (Nat × Group) := []
  queues : List ((Nat × Nat) × Queue) := []
  /-- queue slot generations other than 1 -/
  slotGens : List ((Nat × Nat) × BitVec 12) := []
  /-- pending words of the event units, by cluster -/
  pending : List (Nat × Word32) := []
  regions : List (Nat × Region) := []
  apertures : List (Nat × BitVec 128) := []
  -- the census
  pressure : Pressure := {}
  decisions : List Decision := []
  /-- records of the notice ring reserved by pending notices (R156) and records that wait for room -/
  noticeReserved : Nat := 0
  deferred : List (Word × Word × Word × Word) := []
  -- the control block (R306)
  wake : Word := 0
  waketime : Word := 0
  idleEn : Bool := true
  idleDelay : Nat := 0x1000
  mailbox : Word := 0
  ncoll : BitVec 16 := 0
  degraded : Bool := false
  /-- 0 ACTIVE, 1 COLLAPSING, 2 COLLAPSED, 3 WAKING; 4 while the collapse itself writes, within a step (R401) -/
  pwr : Nat := 0
  /-- the cycle since which it has been idle -/
  idleSince : Option Nat := none
  /-- the steps of R310 that an abort found done (R312) -/
  collapseStep : Nat := 0
  /-- the role map at collapse -/
  frozen : List (Nat × Entry) := []
  /-- the dark tiles that wait for it (R315) -/
  reserve : List Nat := []
  heldItems : List HeldItem := []
  /-- thread-cycles used, by cluster, by which a dispatcher chooses among the devices of a tile (R101) -/
  used : List (Nat × Nat) := []
  /-- creation order (R316) -/
  serial : Nat := 0
  destroying : Bool := false
  deriving DecidableEq, Repr

/-! ### Packets (R233, R234) -/

/-- What a packet does at its destination. -/
inductive Packet where
  /-- a store of a task, on its way to its home -/
  | store (vd task : Nat) (st : Store)
  /-- an engine write of a command -/
  | engine (vd cmd : Nat) (st : Store)
  /-- a request that its source has already had answered (notes/assumptions/69.md), with the doublewords of its payload: its
  home sends this answer, of a kind, a number of payload flits and an inline value -/
  | request (kind len : Nat) (value : Word) (data : List Word)
  /-- nothing: an answer, an acknowledgement, or a message whose effect its sender's step has had -/
  | plain
  /-- lines for the event unit of the cluster that its destination stop belongs to -/
  | event (vd task : Nat) (mask : Word32)
  /-- `n`: its place among all XPUTs issued -/
  | xput (n vd task lid off : Nat) (value : Word)
  /-- a QENQ's entry on its way to its queue, here or on another module (R411, R332) -/
  | enqueue (vd fut task : Nat) (module : BitVec 16) (handle : Word32) (value : Word) (sent : Nat)
  | txchg (vd group round dest : Nat) (m : Message)
  deriving DecidableEq, Repr

/-- What the op field of a header says (R233): size, byte mask, scope, order, atomic function, queue handle. -/
structure OpField where
  size : Nat := 0
  mask : Nat := 0
  scope : Nat := 0
  order : Nat := 0
  function : Nat := 0
  handle : Nat := 0
  deriving DecidableEq, Repr

/-- The fields of a header flit (R233). `dst`, `time` and `gen` are set when the packet leaves its source router. -/
structure Header where
  kind : BitVec 6
  dst : Nat := 0
  src : Nat
  len : Nat := 0
  time : Nat := 0
  addr : Word := 0
  value : Word := 0
  gen : BitVec 8 := 0
  vd : Nat := 0
  op : OpField := {}
  deriving DecidableEq, Repr

/-- Where a packet stands (R236 to R244): in its source stop's injection queue, in a slot of a stop's direction, in the
receive buffer of a bridge at a stop, in the drain store of its destination stop or, come there at a stop, of the bridge to
the die's side (`vert`: above or below), or in the ejection or message receive buffer of its destination stop. -/
inductive Loc where
  | queue
  | slot (stop dir : Nat)
  | bridge (stop : Nat)
  | drained
  | bridgeDrained (stop : Nat) (vert : Bool)
  | arrived
  deriving DecidableEq, Repr

/-- What a packet is addressed to, which is resolved when it leaves its source router (R146): a location, for a task of
a device; a logical tile; the stop of a unit; or a task, at the tile that it last ran on (R449). -/
inductive Goal where
  | place (vd task : Nat) (g : Target)
  | tile (vd lid : Nat)
  | stop (n : Nat)
  | member (task : Nat)
  deriving DecidableEq, Repr

/-- A packet of the network. `unit`: which of its stop's sources sends it (R237). `origin`: the stop of its writer, of one
that an old home has sent on (R162). `since`: the cycle in which the entry it now waits for was first refused. `starved`: it
has been refused for 1,024 cycles (R237). -/
structure Pkt where
  hdr : Header
  body : Packet
  goal : Goal
  loc : Loc := .queue
  unit : Nat := 0
  origin : Option Nat := none
  since : Option Nat := none
  starved : Bool := false
  deriving DecidableEq, Repr

/-! ### The L2 (R174 to R177) -/

/-- A line of an L2 slice: its 256-byte line address, its retention (0 default, 1 short-lived, 2 long-lived), the valid
and dirty bits of its four sectors, and the fetches of started matrix commands that pin it. Its data is the memory's: no
access sees HBM behind a line (notes/assumptions/70.md). -/
structure L2Line where
  line : Nat
  ret : Nat := 0
  valid : BitVec 4 := 0
  dirty : BitVec 4 := 0
  pins : List Nat := []
  deriving DecidableEq, Repr

/-! ### The network -/

/-- A stop (R236 to R246): the source of its tile that injected last, and the management plane's counters by class and
direction (4 × class + direction), with the largest occupancy of its drain store in the last drain. -/
structure NetStop where
  last : Nat := 0
  forwarded : List (Nat × Nat) := []
  refused : List (Nat × Nat) := []
  full : List (Nat × Nat) := []
  peak : Nat := 0
  deriving DecidableEq, Repr

/-! ### Power (R317 to R322) -/

structure Sensors where
  /-- suspect, and intervals passed since the re-calibration, for the two temperature and two current sensors -/
  suspect : Vector Bool 4 := Vector.replicate 4 false
  passed : Vector Nat 4 := Vector.replicate 4 0
  recal : Vector Bool 4 := Vector.replicate 4 false
  /-- the last raw code and for how many samples it has stood -/
  raw : Vector Nat 4 := Vector.replicate 4 0
  same : Vector Nat 4 := Vector.replicate 4 0
  usedT : Int := 0
  usedI : Nat := 0
  substT : Bool := false
  substI : Bool := false
  /-- the power when the code last changed, and whether it has moved by more than a tenth since -/
  base : Vector Nat 4 := Vector.replicate 4 0
  moved : Vector Bool 4 := Vector.replicate 4 false
  deriving DecidableEq, Repr

structure Cluster where
  budget : BitVec 24 := 0xFFFFFF
  pctl : BitVec 4 := 0xF
  throttle : BitVec 13 := 0
  teleper : BitVec 5 := 0
  reqBudget : Option (BitVec 24) := none
  reqPctl : Option (BitVec 4) := none
  current : Nat := 16
  thermal : Nat := 16
  slew : Nat := 16
  cap : Nat := 16
  reliability : Nat := 16
  applied : Nat := 16
  /-- bytes granted in the interval that runs, and the cycle of the turn whose request was the first (R317) -/
  granted : Nat := 0
  first : Option Nat := none
  /-- the bytes to which a control has lowered the budget of the interval that runs (R26) -/
  limit : Option Nat := none
  sensors : Sensors := {}
  /-- halvings of its counts of thread-cycles (R101) -/
  halved : Nat := 0
  deriving DecidableEq, Repr

structure Die where
  /-- master cycles (R4), and the ninths of one beyond them -/
  master : Nat := 0
  ninths : Nat := 0
  /-- it drains its message packets (R242); shifts of the last drain, and the largest occupancy in it of the drain stores of
  its bridges to the side and above or below (R246) -/
  draining : Bool := false
  shifts : Nat := 0
  sidePeak : Nat := 0
  vertPeak : Nat := 0
  /-- the core that each of its eight quay streamers served last (R10, R115), by 4 × tile of the die + core -/
  streamers : Vector Nat 8 := Vector.replicate 8 1023
  boostReq : Bool := false
  reqDiectl : Option Bool := none
  boosted : Bool := false
  /-- the largest current sample of the interval, and the cycle of the last lowering (R318) -/
  peak : Nat := 0
  lowered : Option Nat := none
  /-- samples of the core rail taken, and samples that the sensors of its clusters had taken at the last boundary (R321) -/
  sampled : Nat := 0
  sensed : Nat := 0
  /-- a live update has reached the die: it runs the records of the inactive slot (R334) -/
  updated : Bool := false
  deriving DecidableEq, Repr

/-! ### The module -/

/-- A turn (notes/assumptions/3.md): a thread's next instruction, an event row of the table, the next packet of a
started copy command (R249), a move of the network, an access from outside that the table has no row for, or no turn
but the passing of time to a cycle. -/
inductive Turn where
  | thread (p : Place)
  | event (i : Instr)
  | packet (tile core : Nat)
  /-- the next move of the k-th packet, and what the k-th packet does at its destination stop -/
  | hop (k : Nat)
  | arrive (k : Nat)
  /-- a shift of a die's message packets in a drain (R242) -/
  | shift (die : Nat)
  /-- a read of the host region: through host port 0 or 1, or of a control block by a peer (2) -/
  | hostRead (port offset bytes : Nat)
  /-- a write of a control block by a peer -/
  | peerWrite (offset bytes : Nat) (value : Word)
  /-- writes of both host ports that arrive in one cycle -/
  | hostWrites (offset0 : Nat) (value0 : Word) (offset1 : Nat) (value1 : Word)
  /-- a host's read of the CXL.io status registers (R333) -/
  | statusRead
  /-- the read-out path gives what it holds of a stop and its die's bridges (R246, R336) -/
  | readOut (stop : Nat)
  /-- an error of a word of memory, by key / 256, or of an element of a core's partition (R197): corrected, or not -/
  | memoryError (line : Nat) (corrected : Bool)
  /-- an uncorrectable error of a word that a tile's L1 holds, by line address / 64 -/
  | l1Error (tile line : Nat)
  | accError (tile core element : Nat) (corrected : Bool)
  | wait (till : Nat)
  deriving DecidableEq, Repr

/-- Boot state (R333). -/
inductive Boot where | inReset | running | failed
  deriving DecidableEq, Repr

/-- How many census epochs, tides, power intervals and census samples have been served: an event of a boundary is due
while CYCLES has passed more of them. -/
structure Clock where
  epoch : Nat := 0
  tide : Nat := 0
  interval : Nat := 0
  sample : Nat := 0
  deriving DecidableEq, Repr

/-- What the read-out path has shifted out (R336): a stop with what stands at it and the words that the management window and
the path alone give of it (R246); its tile, with the contexts of its tasks and the bytes of its banks; and the slice that
attaches to it, if one does: its lines with their data. -/
structure ReadOut where
  stop : NetStop
  packets : List Pkt
  words : List Word
  tile : Tile
  tasks : List (Nat × Task)
  banks : List (Nat × Byte)
  lines : List L2Line
  data : List (Nat × Byte)
  deriving DecidableEq, Repr

structure State where
  mem : Memory := []
  /-- 256-byte lines that hold an uncorrectable error, by key / 256 (R160, R197) -/
  errored : List Nat := []
  /-- tiles, tasks and devices by number; a number that is not listed has the reset value, or does not exist -/
  tiles : List (Nat × Tile) := []
  tasks : List (Nat × Task) := []
  nextTask : Nat := 0
  nextCmd : Nat := 0
  nextXput : Nat := 0
  vds : List (Nat × Vd) := []
  packets : List Pkt := []
  l2 : List L2Line := []
  cycles : Nat := 0
  clock : Clock := {}
  -- the network; a tide drain has begun, and the moves of its tide have not
  draining : Bool := false
  stops : List (Nat × NetStop) := []
  /-- what the configuration records of boot fix: the home map (R16), the stops of the 144 slices, the two host ports and
  the eight peer ports (R232), and the preset cycle of each die, by 4 × stop + direction within the die (R243) -/
  homeMap : Nat := 0
  sliceStops : List Nat := []
  hostStops : List Nat := []
  peerStops : List Nat := []
  presets : List (List Nat) := []
  /-- the pseudo-channel groups that are not simply on (R310, R315): 1 in fast self-refresh, 2 in deep, 3 powered off -/
  groupPower : List (Nat × Nat) := []
  /-- errors corrected (R197) -/
  corrections : Nat := 0
  -- the host region
  sems : Vector (BitVec 2) 32 := Vector.replicate 32 0
  cmdaddr : Word := 0
  cmdstat : BitVec 4 := 0
  /-- the value that CMDSTAT takes when the command that runs is done, and the device that it destroys -/
  cmdresult : BitVec 4 := 0
  dying : Option Nat := none
  freeze : Bool := false
  clusters : List (Nat × Cluster) := []
  dies : Vector Die 4 := Vector.replicate 4 {}
  -- telemetry ring
  telemetryBase : Nat := 0
  telemetryK : Nat := 0
  -- CXL.mem and peers
  hdmBase : Nat := 0
  hdmCommitted : Bool := false
  moduleId : BitVec 16 := 0
  routes : List (Nat × Nat) := []
  retired : List Nat := []
  -- boot, update, attestation
  boot : Boot := .inReset
  /-- the CXL.io status registers -/
  cxlStatus : Word := 0
  activeSlot : Nat := 0
  active : List CfgRecord := []
  inactive : List CfgRecord := []
  rollback : Nat := 0
  spdm : Nat := 0
  serial : Nat := 0
  /-- the answer given to the outside by the last host, peer or attestation request -/
  response : List Word := []
  /-- what the read-out path gave last -/
  readout : Option ReadOut := none
  -- the model's own
  agenda : List Turn := []
  cur : Place := ⟨0, 0, 0⟩
  draws : Nat := 0
  deriving DecidableEq, Repr

/-- The module right after reset (R19, R333): in reset, no device, every tile dark in the pool. -/
def State.reset : State := {}

/-- Why a run stops. -/
inductive Fault where
  /-- raised by `exec` for a thread instruction whose turn names a thread that holds no task; no machine does this,
  because such a thread issues nothing (R70). Safe. -/
  | noTask
  deriving DecidableEq, Repr

/-- Why an instruction has no meaning. -/
inductive Refusal where
  /-- raised by an arm of `exec` that has no meaning yet. Safe. -/
  | notModelled (mnemonic : String)
  deriving DecidableEq, Repr

end Sys2Proof.Machine
end

