-- ==== Sys2Proof/Machine/Store.lean ====
section
/-! DEFINITION. Lists keyed by a number, memory in its canonical form, little-endian doublewords (R1), and the accessors
of the state's parts. -/

namespace Sys2Proof.Machine

/-! ### Keyed lists -/

def look {κ α : Type} [DecidableEq κ] : List (κ × α) → κ → Option α
  | [], _ => none
  | (k, v) :: r, q => if k = q then some v else look r q

/-- Replace the entry of a key, or add one at the end. -/
def put {κ α : Type} [DecidableEq κ] : List (κ × α) → κ → α → List (κ × α)
  | [], q, x => [(q, x)]
  | (k, v) :: r, q, x => if k = q then (k, x) :: r else (k, v) :: put r q x

def cut {κ α : Type} [DecidableEq κ] (l : List (κ × α)) (q : κ) : List (κ × α) := l.filter fun p => p.1 ≠ q

/-- Replace element `i` of a list. -/
def setAt {α : Type} (l : List α) (i : Nat) (x : α) : List α := l.set i x

/-! ### Memory -/

/-- What a key reads as: 0 when it is not listed (notes/assumptions/1.md). -/
def Memory.byte : Memory → Nat → Byte
  | [], _ => 0
  | (k, b) :: r, q => if k = q then b else Memory.byte r q

/-- Store one byte, keeping the canonical form. -/
def Memory.set : Memory → Nat → Byte → Memory
  | [], q, x => if x = 0 then [] else [(q, x)]
  | (k, b) :: r, q, x =>
    if k < q then (k, b) :: Memory.set r q x
    else if k = q then (if x = 0 then r else (q, x) :: r)
    else if x = 0 then (k, b) :: r else (q, x) :: (k, b) :: r

/-- Store bytes at keys, in the order of the list. -/
def Memory.setAll (m : Memory) : List (Nat × Byte) → Memory
  | [] => m
  | (k, b) :: r => Memory.setAll (m.set k b) r

/-- `n` bytes from a key up. -/
def Memory.read (m : Memory) (k : Nat) : Nat → List Byte
  | 0 => []
  | n + 1 => m.byte k :: Memory.read m (k + 1) n

/-- The listed bytes of a range, moved so that the range starts at `dst`. -/
def Memory.slice (m : Memory) (base len dst : Nat) : List (Nat × Byte) :=
  (m.filter fun c => base ≤ c.1 && c.1 < base + len).map fun c => (dst + (c.1 - base), c.2)

/-- Make a range read zero. -/
def Memory.clear (m : Memory) (base len : Nat) : Memory := m.filter fun c => !(base ≤ c.1 && c.1 < base + len)

/-- Replace a range by the given cells of it; every other byte of the range becomes zero. -/
def Memory.replace (m : Memory) (base len : Nat) (cells : List (Nat × Byte)) : Memory :=
  (m.clear base len).setAll cells

/-! ### Little-endian numbers (R1) -/

def ofBytes : List Byte → Nat
  | [] => 0
  | b :: r => b.toNat + 256 * ofBytes r

def toBytes : Nat → Nat → List Byte
  | 0, _ => []
  | n + 1, x => BitVec.ofNat 8 x :: toBytes n (x / 256)

/-- Bytes at rising keys from `k`. -/
def cellsAt (k : Nat) : List Byte → List (Nat × Byte)
  | [] => []
  | b :: r => (k, b) :: cellsAt (k + 1) r

/-- The doubleword at a key. -/
def Memory.dword (m : Memory) (k : Nat) : Word := BitVec.ofNat 64 (ofBytes (m.read k 8))

/-! ### Parts of the state -/

def State.tile (s : State) (n : Nat) : Tile := (look s.tiles n).getD {}
def State.setTile (s : State) (n : Nat) (t : Tile) : State := { s with tiles := put s.tiles n t }
def State.modTile (s : State) (n : Nat) (f : Tile → Tile) : State := s.setTile n (f (s.tile n))

def Tile.core (t : Tile) (c : Nat) : Core := t.cores.toList.getD c {}
def Tile.setCore (t : Tile) (c : Nat) (x : Core) : Tile := { t with cores := t.cores.setIfInBounds c x }
def State.core (s : State) (n c : Nat) : Core := (s.tile n).core c
def State.modCore (s : State) (n c : Nat) (f : Core → Core) : State :=
  s.modTile n fun t => t.setCore c (f (t.core c))

/-- A core's queue for one engine. -/
def Core.queue (c : Core) : EngQ → List Cmd
  | .matrix => c.matrix | .copy => c.copy | .collective => c.collective | .stream => c.stream
def Core.setQueue (c : Core) (q : EngQ) (l : List Cmd) : Core :=
  match q with
  | .matrix => { c with matrix := l }
  | .copy => { c with copy := l }
  | .collective => { c with collective := l }
  | .stream => { c with stream := l }
/-- Every command in the queues of a core. -/
def Core.cmds (c : Core) : List Cmd := c.matrix ++ c.copy ++ c.collective ++ c.stream

def State.task? (s : State) (t : Nat) : Option Task := look s.tasks t
def State.setTask (s : State) (t : Nat) (x : Task) : State := { s with tasks := put s.tasks t x }
def State.modTask (s : State) (t : Nat) (f : Task → Task) : State :=
  match s.task? t with
  | some x => s.setTask t (f x)
  | none => s

/-- A device that does not exist reads as one with no quota. -/
def State.vd (s : State) (n : Nat) : Vd := (look s.vds n).getD {}
def State.setVd (s : State) (n : Nat) (v : Vd) : State := { s with vds := put s.vds n v }
def State.modVd (s : State) (n : Nat) (f : Vd → Vd) : State :=
  match look s.vds n with
  | some v => s.setVd n (f v)
  | none => s

def Vd.entry (v : Vd) (lid : Nat) : Entry := (look v.rolemap lid).getD {}
def Vd.setEntry (v : Vd) (lid : Nat) (e : Entry) : Vd := { v with rolemap := put v.rolemap lid e }
def State.entry (s : State) (vd lid : Nat) : Entry := (s.vd vd).entry lid
def State.modEntry (s : State) (vd lid : Nat) (f : Entry → Entry) : State :=
  s.modVd vd fun v => v.setEntry lid (f (v.entry lid))

def Vd.fut (v : Vd) (i : Nat) : Fut := (look v.futs i).getD {}
def State.fut (s : State) (vd i : Nat) : Fut := (s.vd vd).fut i
/-- The record as its table holds it; `setFut` and `modFut` are the changes at its home. -/
def State.putFut (s : State) (vd i : Nat) (f : Fut) : State := s.modVd vd fun v => { v with futs := put v.futs i f }

/-- The eight doublewords of a future record (R79 to R81). -/
def Fut.dwords (f : Fut) : List Nat :=
  [ f.kind * 2 ^ 60 + f.gen * 2 ^ 44 + f.state * 2 ^ 40 + f.reach * 2 ^ 16 + f.dep,
    f.source, f.arg.toNat, f.result.toNat,
    f.cause * 2 ^ 56 + f.prio * 2 ^ 29 + (if f.detach then 2 ^ 28 else 0) + (if f.ran then 2 ^ 27 else 0) +
      (if f.doomed then 2 ^ 26 else 0),
    f.context, f.readytime, if f.kind = 4 then f.made * 2 ^ 16 + f.left else 0 ]

def Vd.group (v : Vd) (g : Nat) : Group := (look v.groups g).getD {}
def State.group (s : State) (vd g : Nat) : Group := (s.vd vd).group g
def State.setGroup (s : State) (vd g : Nat) (x : Group) : State :=
  s.modVd vd fun v => { v with groups := if x.members.isEmpty then cut v.groups g else put v.groups g x }

def State.cluster (s : State) (c : Nat) : Cluster := (look s.clusters c).getD {}
def State.modCluster (s : State) (c : Nat) (f : Cluster → Cluster) : State :=
  { s with clusters := put s.clusters c (f (s.cluster c)) }
def State.stop (s : State) (n : Nat) : NetStop := (look s.stops n).getD {}
def State.modStop (s : State) (n : Nat) (f : NetStop → NetStop) : State := { s with stops := put s.stops n (f (s.stop n)) }

/-! ### Places (R10 to R14) -/

/-- The die of a tile, its row and column, and its cluster of 2 × 2 tiles. -/
def dieOf (tile : Nat) : Nat := tile / 256
def rowOf (tile : Nat) : Nat := tile / 16 % 16
def colOf (tile : Nat) : Nat := tile % 16
def clusterOf (tile : Nat) : Nat := 64 * dieOf tile + 8 * (rowOf tile / 2) + colOf tile / 2

/-- The task that runs on a thread, with its number. -/
def State.taskAt (s : State) (p : Place) : Option (Nat × Task) := s.tasks.find? fun x => x.2.status = .running p

/-- The next number of the draw counter, and the state that has drawn it. -/
def State.draw (s : State) : Nat × State := (s.draws, { s with draws := s.draws + 1 })

/-! ### Registers of a context -/

/-- A general register, g0 reading as zero (R38); 24 and above are ports, which `Operands` reads. -/
def Ctx.getG (c : Ctx) (r : GReg) : Word := if r.toNat = 0 then 0 else c.g.toList.getD r.toNat 0
/-- Write a general register; a write to g0 is discarded (R38). -/
def Ctx.setG (c : Ctx) (r : GReg) (x : Word) : Ctx :=
  if r.toNat = 0 then c else { c with g := c.g.setIfInBounds r.toNat x }
def Ctx.getV (c : Ctx) (r : VReg) : VWord := c.v[r.toNat]
def Ctx.setV (c : Ctx) (r : VReg) (x : VWord) : Ctx := { c with v := c.v.set r.toNat x }
/-- A mask register, m0 reading as all ones (R38). -/
def Ctx.getM (c : Ctx) (r : MReg) : Word32 := if r.toNat = 0 then 0xFFFFFFFF else c.m[r.toNat]
def Ctx.setM (c : Ctx) (r : MReg) (x : Word32) : Ctx := if r.toNat = 0 then c else { c with m := c.m.set r.toNat x }
def Ctx.getH (c : Ctx) (r : HReg) : Word := c.h[r.toNat]
def Ctx.setH (c : Ctx) (r : HReg) (x : Word) : Ctx := { c with h := c.h.set r.toNat x }
def Ctx.port (c : Ctx) (n : Nat) : Port := c.q.toList.getD n {}
def Ctx.setPort (c : Ctx) (n : Nat) (p : Port) : Ctx := { c with q := c.q.setIfInBounds n p }

end Sys2Proof.Machine
end

