-- ==== Sys2Proof/Machine/Network.lean ====
section
/-! DEFINITION. The on-module network (spec/11_network.md): stops, links and bridges, packets and their routes, slots and
their arbitration, buffers, the tide drain, the counters of the management plane. A packet moves whole, one move in a
turn; how many cycles a move takes is open (notes/assumptions/3.md). -/

namespace Sys2Proof.Machine

/-! ### Stops, links and bridges (R229, R231) -/

/-- The stop at the far end of a link: directions 0 east, 1 west, 2 south, 3 north; position 15 joins position 0. -/
def neighbour (stop dir : Nat) : Nat :=
  let r := rowOf stop
  let c := colOf stop
  256 * dieOf stop + (match dir with
    | 0 => 16 * r + (c + 1) % 16
    | 1 => 16 * r + (c + 15) % 16
    | 2 => 16 * ((r + 1) % 16) + c
    | _ => 16 * ((r + 15) % 16) + c)

/-- The place of a die in the 2 × 2 arrangement (R11). -/
def dieCol (stop : Nat) : Nat := dieOf stop % 2
def dieRow (stop : Nat) : Nat := dieOf stop / 2

/-- The column, and the row, of a die's gateway stops. -/
def gateCol (stop : Nat) : Nat := if dieCol stop = 0 then 15 else 0
def gateRow (stop : Nat) : Nat := if dieRow stop = 0 then 15 else 0

/-- The far end of a gateway stop's bridge link: the same row, or the same column, of the neighbouring die. -/
def acrossRow (stop : Nat) : Nat := if dieCol stop = 0 then stop + 256 - 15 else stop + 15 - 256
def acrossCol (stop : Nat) : Nat := if dieRow stop = 0 then stop + 512 - 240 else stop + 240 - 512

/-! ### Routes (R235) -/

/-- What a packet does next at a stop. -/
inductive Move where
  /-- it is at its destination -/
  | here
  | ring (dir : Nat)
  /-- it crosses a bridge to this stop -/
  | bridge (far : Nat)
  deriving DecidableEq, Repr

/-- The direction of a ring with fewer hops from one position to another: `up` is clockwise, and takes a tie. -/
def toward (pos goal up down : Nat) : Nat := if (goal + 16 - pos) % 16 ≤ 8 then up else down

/-- The horizontal leg first, then the vertical one, each across at most one bridge. -/
def nextMove (stop dst : Nat) : Move :=
  if stop = dst then .here
  else if dieCol stop ≠ dieCol dst then
    if colOf stop = gateCol stop then .bridge (acrossRow stop) else .ring (toward (colOf stop) (gateCol stop) 0 1)
  else if colOf stop ≠ colOf dst then .ring (toward (colOf stop) (colOf dst) 0 1)
  else if dieRow stop ≠ dieRow dst then
    if rowOf stop = gateRow stop then .bridge (acrossCol stop) else .ring (toward (rowOf stop) (gateRow stop) 2 3)
  else .ring (toward (rowOf stop) (rowOf dst) 2 3)

/-- The stop that a move leads to. -/
def Move.next (stop : Nat) : Move → Nat
  | .here => stop
  | .ring d => neighbour stop d
  | .bridge far => far

/-- The stops of a route after `stop`, as far as `n` moves lead. -/
def routeFrom (stop dst : Nat) : Nat → List Nat
  | 0 => []
  | n + 1 =>
    match nextMove stop dst with
    | .here => []
    | m => m.next stop :: routeFrom (m.next stop) dst n

/-! ### Attachments and homes (R16, R178, R232) -/

/-- The slice that is home of a physical address: on the die beside the stack that holds it; of a flash address, one of
the die that its channel attaches to (R23). A line of host memory, by its key, is cached in one of them (R331). -/
def State.sliceOf (s : State) (a : Nat) : Nat :=
  if 2 ^ 70 ≤ a then Config.hostSlice (a / 256) % Config.slices else
  let die := if Config.flashBase ≤ a then (a - Config.flashBase) / (8 * Config.channelBytes) else a / Config.dieBytes
  Config.slicesPerDie * die + Config.slice s.homeMap (a / 256) % Config.slicesPerDie

/-- The stops of a die that boot firmware has chosen for its slices, by number within the die: no two the same (R232). Where
it has chosen none that are, slice n is at stop n (notes/assumptions/84.md). -/
def State.dieSlices (s : State) (die : Nat) : List Nat :=
  let l := ((s.sliceStops.drop (Config.slicesPerDie * die)).take Config.slicesPerDie).map (· % 256)
  if l.length = Config.slicesPerDie ∧ l.Nodup then l else List.range Config.slicesPerDie

/-- The stop that a slice attaches to, one of its die; host port 0 one of die 0, port 1 of die 3 (R24); the port of a route,
one of the eight: ports 2d and 2d + 1 attach to die d (R25). -/
def State.sliceStop (s : State) (n : Nat) : Nat :=
  256 * (n / Config.slicesPerDie) + (s.dieSlices (n / Config.slicesPerDie)).getD (n % Config.slicesPerDie) 0
def State.hostStop (s : State) (port : Nat) : Nat := 256 * (3 * (port % 2)) + s.hostStops.getD (port % 2) 0 % 256
def State.peerPort (s : State) (module : Nat) : Nat := ((s.routes.find? fun r => r.1 = module).map (·.2)).getD 0 % 8
def State.peerStop (s : State) (module : Nat) : Nat :=
  256 * (s.peerPort module / 2) + s.peerStops.getD (s.peerPort module) 0 % 256

/-- The stop of a quay streamer, of 32, eight to a die and two to a stack: that of a slice of its die (R10, R22, R232). -/
def State.streamerStop (s : State) (n : Nat) : Nat :=
  s.sliceStop (Config.slicesPerDie * (n / 8) + Config.streamerSlice n % Config.slicesPerDie)

/-- The unit that performs the accesses to a location and orders its writes (R178): an L2 slice; the base-die atomic unit of
a stack, reached through a slice's stop; a tile; a host port; the port toward a peer. -/
inductive Home where
  | slice (n : Nat)
  | atomic (stack slice : Nat)
  | tile (n : Nat)
  | host (port : Nat)
  | peer (module : Nat)
  deriving DecidableEq, Repr

/-- The base-die atomic unit of the stack that holds an address: a memory-side access passes the frame's slice on its
way (R179), whose stop the unit uses (R232). -/
def State.atomicUnit (s : State) (a : Nat) : Home := .atomic (a / Config.stackBytes) (s.sliceOf a)

/-- Where a byte of a backed entry lies in HBM: in one of the pages of 64 KiB that the control plane has allocated (R226). -/
def backingByte (vd lid off : Nat) : Nat :=
  Config.backing (backedKey vd lid off / 65536) % (Config.hbmBytes / 65536) * 65536 + off % 65536

/-- The home of a logical tile's byte, as the role map has it now; of a backed entry, the atomic unit of the page that holds
the line (R226). -/
def State.windowHome (s : State) (vd lid off : Nat) : Home :=
  let e := s.entry vd lid
  if e.backed then s.atomicUnit (backingByte vd lid off) else .tile e.phys

/-- The home of a location (R178); a task's own window, by its original address, is where it now lies (R159). -/
def State.homeOf (s : State) (vd task : Nat) : Target → Home
  | .phys a false => .slice (s.sliceOf a)
  | .phys a true => s.atomicUnit a
  | .host a => .host (Config.hostPort a % 2)
  | .peer i _ => .peer i
  | .window lid off own =>
    match if own then (s.task? task).bind fun t => t.window.bind fun w => w.tile else none with
    | some n => .tile n
    | none => s.windowHome vd lid off

/-- The stop that a unit reaches the network at. -/
def State.stopOf (s : State) : Home → Nat
  | .slice n | .atomic _ n => s.sliceStop n
  | .tile n => n
  | .host p => s.hostStop p
  | .peer i => s.peerStop i

/-- The stop that an address resolves to now (R146). -/
def State.goalStop (s : State) : Goal → Nat
  | .stop n => n
  | .member id => ((s.task? id).map fun t => t.last.tile).getD 0
  | .tile vd lid => s.stopOf (s.windowHome vd lid 0)
  | .place vd task g => s.stopOf (s.homeOf vd task g)

/-! ### Headers (R233, R234) -/

/-- Kinds 0x20 and above are message class. -/
def Header.message (h : Header) : Bool := 0x20 ≤ h.kind.toNat
/-- The requests that are answered (R239), and their answers. -/
def Header.request (h : Header) : Bool := h.kind.toNat ∈ [0x00, 0x02, 0x04, 0x06, 0x07, 0x08]
def Header.reply (h : Header) : Bool := h.kind.toNat ∈ [0x01, 0x03, 0x05]
/-- The kind that answers a request. -/
def replyKind (kind : Nat) : Nat := if kind = 0x00 then 0x01 else if kind = 0x04 then 0x05 else 0x03

/-- The 256 bits of the header flit. -/
def Header.bits (h : Header) : BitVec 256 :=
  (if h.message then 1#2 else 0#2) ++ h.kind ++ BitVec.ofNat 10 h.dst ++ BitVec.ofNat 10 h.src ++ BitVec.ofNat 4 h.len ++
    BitVec.ofNat 32 h.time ++ (BitVec.ofNat 64 (h.addr.toNat % 2 ^ 57)) ++ h.value ++ h.gen ++ BitVec.ofNat 6 h.vd ++
    Config.op h.kind.toNat h.op.size h.op.mask h.op.scope h.op.order h.op.function h.op.handle

/-- Payload flits of a number of bytes. -/
def flits (bytes : Nat) : Nat := (bytes + 31) / 32

/-- A packet enters the injection queue of a stop. -/
def State.send (s : State) (kind len src unit vd : Nat) (addr value : Word) (goal : Goal) (body : Packet)
    (op : OpField := {}) : State :=
  { s with packets := s.packets ++ [{
      hdr := { kind := BitVec.ofNat 6 kind, src := src, len := len, addr := addr, value := value, vd := vd, op := op },
      body := body, goal := goal, unit := unit }] }

/-- A single header flit whose effect its sender's step has had. -/
def State.message (s : State) (kind src vd : Nat) (value : Word) (goal : Goal) (handle : Nat := 0) (addr : Word := 0) :
    State :=
  s.send kind 0 src 0 vd addr value goal .plain { handle := handle }

/-! ### Where packets stand -/

/-- The stop at which a packet is, or has come to by the link it waits for. -/
def Pkt.stop (p : Pkt) : Nat :=
  match p.loc with
  | .queue => p.hdr.src
  | .slot stop dir => neighbour stop dir
  | .bridge stop | .bridgeDrained stop _ => stop
  | .drained | .arrived => p.hdr.dst

/-- Its destination stop: resolved in the source router. -/
def State.dstOf (s : State) (p : Pkt) : Nat := if p.loc = .queue then s.goalStop p.goal else p.hdr.dst

/-- One class, one source stop and one destination stop: delivery keeps the order of injection (R241). -/
def State.samePath (s : State) (p q : Pkt) : Bool :=
  p.hdr.message == q.hdr.message && p.hdr.src == q.hdr.src && s.dstOf p == s.dstOf q

/-- Has an old home sent the packet on (R162)? The stop of the source that it comes from. -/
def Pkt.forwards (p : Pkt) : Bool := p.origin.isSome
def Pkt.writer (p : Pkt) : Nat := p.origin.getD p.hdr.src

/-- The logical tile that a packet is for, by which a move holds it; none for the issuing task's own window (R159). -/
def Pkt.logical (p : Pkt) : Option (Nat × Nat) :=
  match p.goal with
  | .tile vd lid => some (vd, lid)
  | .place vd _ (.window lid _ own) => if own then none else some (vd, lid)
  | _ => none

/-- The logical tile whose home applies it: that of an access, and none of an event, whose home is a cluster's unit. -/
def Pkt.homed (p : Pkt) : Option (Nat × Nat) :=
  match p.body with
  | .event .. => none
  | _ => p.logical

/-- Does an entry move, for packets from a stop? Those of a moving compute tile's own stop are not held (R158, R159, R162). -/
def State.moving (s : State) (vd lid tile : Nat) : Bool :=
  let e := s.entry vd lid
  e.state = 2 && !(e.role = 1 && e.phys = tile)

/-- Has a packet left for a home that its logical tile has left since (R162)? Where the entry has no home now, there is none
to which it could go on. -/
def State.astray (s : State) (p : Pkt) : Bool :=
  p.loc != .queue && p.homed.any fun x =>
    let e := s.entry x.1 x.2
    e.role ≠ 0 && e.state ≠ 3 && p.hdr.dst != s.goalStop p.goal

/-- What an old home sends on, or has sent on. -/
def State.sentOn (s : State) (p : Pkt) : Bool := p.forwards || s.astray p

/-- A packet that a source has sent to a logical tile's old home, and that has not been applied (R162). -/
def State.outrun (s : State) (vd lid src : Nat) (q : Pkt) : Bool :=
  q.homed == some (vd, lid) && q.writer == src && s.sentOn q

/-- Is a packet for a logical tile still to come to its new home from the old one? -/
def State.awaited (s : State) (vd lid : Nat) : Bool := s.packets.any fun q => q.homed == some (vd, lid) && s.sentOn q

/-- Has an access of a step to a logical tile to wait, for its move, or for what the old home forwards, which comes before
every packet that was held (R162)? -/
def State.held (s : State) (vd lid tile : Nat) : Bool := s.moving vd lid tile || s.awaited vd lid

/-- Does a move hold a packet at its stop (R162)? What an old home forwards goes once the move has completed. -/
def State.moveHeld (s : State) (p : Pkt) : Bool :=
  p.loc == .queue && p.logical.any fun x =>
    if p.forwards then (s.entry x.1 x.2).state = 2 else s.moving x.1 x.2 p.hdr.src

/-- Is a packet of an injection queue held there: until the move completes, and after that until what the same source sent
before has been applied (R162, R227)? -/
def State.goalHeld (s : State) (p : Pkt) : Bool :=
  s.moveHeld p || (!p.forwards && p.logical.any fun x => s.packets.any (s.outrun x.1 x.2 p.hdr.src))

/-- May a packet not be applied yet: held at its source, or come to a new home before what the old one forwards (R162)? -/
def State.blocked (s : State) (p : Pkt) : Bool :=
  if p.loc = .queue then s.goalHeld p
  else !s.sentOn p && p.homed.any fun x => s.awaited x.1 x.2

/-! ### Slots and buffers (R236, R238 to R240) -/

/-- Does a stop have the 42 extra slots of a routing tile? From the tide at which its tile enters the role to the one
at which it leaves it (R161, R238). -/
def State.routing (s : State) (stop : Nat) : Bool :=
  let enters (e : Entry) : Bool := e.state = 2 && e.newrole = 3 && e.role ≠ 3
  match (s.tile stop).owner with
  | some (vd, lid) =>
    let e := s.entry vd lid
    (e.role = 3 && e.state ≠ 2) || enters e
  | none => s.vds.any fun v => v.2.rolemap.any fun x => enters x.2 && x.2.target = some stop

/-- Slots of a class in one direction of a stop: 6 and 42 more, or one. -/
def State.slots (s : State) (stop : Nat) (msg : Bool) : Nat := if msg then 1 else if s.routing stop then 48 else 6
def State.taken (s : State) (stop dir : Nat) (msg : Bool) : Nat :=
  s.packets.countP fun p => p.loc == .slot stop dir && p.hdr.message == msg
def State.freeSlots (s : State) (stop dir : Nat) (msg : Bool) : Nat := s.slots stop msg - s.taken stop dir msg

/-- Packets in the ejection buffer, or the message receive buffer, of a stop. -/
def State.buffered (s : State) (stop : Nat) (msg : Bool) : Nat :=
  s.packets.countP fun p => p.loc == .arrived && p.hdr.dst == stop && p.hdr.message == msg

/-- Has a packet an answer of the data class? A message that an old home forwards has none. -/
def Pkt.answered (p : Pkt) : Bool :=
  p.hdr.request && match p.body with
    | .plain | .enqueue .. => false
    | _ => true

/-- Room of a stop's ejection buffer that is reserved for the answers of its requests; the answer to a request that an old
home forwards goes to its writer. -/
def State.reserved (s : State) (stop : Nat) : Nat :=
  s.packets.countP fun p => (p.answered && p.writer == stop && (p.loc != .queue || p.forwards)) ||
    (p.hdr.reply && p.goal == .stop stop && p.loc != .arrived)

/-- May a request leave its source: is there room for its answer (R239)? -/
def State.replyRoom (s : State) (stop : Nat) : Bool := s.buffered stop false + s.reserved stop < 16

/-- May a packet leave for the buffer of its destination stop (R239, R240, R244)? A request needs room there and, for its
answer, in the injection queue; an answer has its room; a message comes after those of the drain store. -/
def State.room (s : State) (p : Pkt) (dst : Nat) : Bool :=
  if p.hdr.message then
    s.buffered dst true < Config.messageRoom + 1 &&
      (p.loc == .drained || !(s.packets.any fun q => q.loc == .drained && q.hdr.dst == dst))
  else if p.hdr.request then
    s.buffered dst false + s.reserved dst < 16 + (if p.hdr.src = dst then 1 else 0) &&
      (s.packets.countP fun q => q.loc == .queue && q.hdr.src == dst && !q.hdr.message) +
        s.buffered dst false < Config.injectionRoom + 1
  else true

/-! ### Arbitration (R237) -/

/-- The order in which a link is given: a packet that continues on its ring, an entry refused for 1,024 cycles, a turn,
an arrival from a bridge, an injection, round-robin among the sources of the stop. Which these are, and that one pointer
serves the four directions and both classes, is the model's choice (notes/assumptions/44.md). -/
def State.rank (s : State) (p : Pkt) (dir : Nat) : Nat :=
  match p.loc with
  | .slot _ d => if d = dir then 0 else if p.starved then 16 else 32
  | .queue => if p.starved then 16 else 64 + (p.unit + 7 - (s.stop p.hdr.src).last) % 8
  | _ => if p.starved then 16 else 48

/-- Free slots that a move into a direction needs: two for a data packet that enters the ring, else one (R236, R240). -/
def Pkt.needs (p : Pkt) (dir : Nat) : Nat :=
  match p.loc with
  | .slot _ d => if d = dir ∨ p.hdr.message then 1 else 2
  | _ => if p.hdr.message then 1 else 2

/-- Does a stop's die drain its message packets? -/
def State.dieDrains (s : State) (stop : Nat) : Bool := (s.dies.toList.getD (dieOf stop) {}).draining

/-- May the k-th packet leave the place where it stands, apart from slots? Message arbitration is suspended in a drain
(R242); a packet leaves behind the earlier ones of its path (R241). One that an old home forwards has its writer's room. -/
def State.mayLeave (s : State) (k : Nat) (p : Pkt) : Bool :=
  !(p.hdr.message && s.dieDrains p.stop) &&
  !((s.packets.take k).any fun q => q.loc == p.loc && s.samePath p q && !(q.loc == .queue && s.goalHeld q)) &&
  (p.loc != .queue || (!s.goalHeld p && (!p.hdr.request || p.forwards || s.replyRoom p.hdr.src)))

/-- Is an earlier message of the k-th one's path still on its way? Drain stores may have parted them (R241, R244). -/
def State.overtakes (s : State) (k : Nat) (p : Pkt) : Bool :=
  p.hdr.message && (s.packets.take k).any fun q => q.loc != .queue && q.loc != .arrived && s.samePath p q

/-- The ring slot that the k-th packet asks for. -/
def State.wants (s : State) (k : Nat) (p : Pkt) : Option (Nat × Nat) :=
  match p.loc with
  | .arrived | .drained | .bridgeDrained .. => none
  | _ =>
    match nextMove p.stop (s.dstOf p) with
    | .ring d => if s.mayLeave k p then some (p.stop, d) else none
    | _ => none

/-- The packet that is given the link into a direction's slots. -/
def State.winner (s : State) (stop dir : Nat) (msg : Bool) : Option Nat :=
  (s.packets.zipIdx.foldl (fun best x =>
    if x.1.hdr.message == msg && s.wants x.2 x.1 == some (stop, dir) && x.1.needs dir ≤ s.freeSlots stop dir msg then
      match best with
      | some (r, _) => if s.rank x.1 dir < r then some (s.rank x.1 dir, x.2) else best
      | none => some (s.rank x.1 dir, x.2)
    else best) (none : Option (Nat × Nat))).map (·.2)

/-! ### Moves -/

/-- Class and direction as the counters are numbered. -/
def counterKey (msg : Bool) (dir : Nat) : Nat := (if msg then 4 else 0) + dir

/-- A counter of a stop rises, modulo 2^64 (R325). -/
def bump (l : List (Nat × Nat)) (key n : Nat) : List (Nat × Nat) := put l key (((look l key).getD 0 + n) % 2 ^ 64)

/-- The entry that resolved a packet's destination: its generation; a task's own window is found without one (R159,
R233). -/
def State.goalGen (s : State) : Goal → BitVec 8
  | .tile vd lid => (s.entry vd lid).gen
  | .place vd _ (.window lid _ own) => if own then 0 else (s.entry vd lid).gen
  | _ => 0

/-- The k-th packet moves to a place. Leaving a slot it has been forwarded; leaving its source router it is resolved. -/
def State.moveTo (s : State) (k : Nat) (p : Pkt) (loc : Loc) : State :=
  let s1 := match p.loc with
    | .slot stop dir => s.modStop stop fun x => { x with forwarded := bump x.forwarded (counterKey p.hdr.message dir) 1 }
    | .queue => s.modStop p.hdr.src fun x => { x with last := p.unit }
    | _ => s
  let hdr := if p.loc = .queue then
      { p.hdr with dst := s.goalStop p.goal, time := s.cycles % 2 ^ 32, gen := s.goalGen p.goal } else p.hdr
  { s1 with packets := setAt s.packets k { p with hdr := hdr, loc := loc, since := none, starved := false } }

/-- Master cycles that a stop's die has made (R4, R230). -/
def State.masterAt (s : State) (stop : Nat) : Nat := (s.dies.toList.getD (dieOf stop) {}).master

/-- The master cycles of the dies, and whether fewer than `n` of a stop's die have passed since an instant. -/
def State.masters (s : State) : List Nat := s.dies.toList.map fun d => d.master
def State.within (s : State) (since : List Nat) (stop n : Nat) : Bool :=
  since[dieOf stop]?.any fun m => s.masterAt stop < m + n

/-- A drained packet comes before another of its drain store: by injection time, then by source stop (R244). -/
def Pkt.before (p q : Pkt) : Bool :=
  p.hdr.time < q.hdr.time || (p.hdr.time == q.hdr.time && p.hdr.src < q.hdr.src)

/-- Does a packet cross the bridge to the side of its die, or the one above or below, at a gateway stop? -/
def crossesVert (stop dst : Nat) : Bool := dieCol stop == dieCol dst

/-- A packet of the drain store of a die's bridge. -/
def Pkt.ofBridge (die : Nat) (vert : Bool) (p : Pkt) : Bool := match p.loc with
  | .bridgeDrained stop v => dieOf stop = die && v = vert
  | _ => false

/-- Does an earlier packet of the same drain store come before it? That within a bridge's store the order is that of a
stop's is the model's choice (notes/assumptions/85.md). -/
def State.drainedBefore (s : State) (p : Pkt) (dst : Nat) : Bool :=
  s.packets.any fun q => q.before p && match p.loc with
    | .drained => q.loc == .drained && q.hdr.dst == dst
    | .bridgeDrained stop v => q.ofBridge (dieOf stop) v
    | _ => false

/-- The k-th packet makes its next move, if it may. -/
def State.hop (s : State) (k : Nat) : State :=
  match s.packets[k]? with
  | none => s
  | some p =>
    if !s.mayLeave k p then s else
    let dst := s.dstOf p
    let arrive := s.room p dst && !s.overtakes k p
    match p.loc with
    | .arrived => s
    | .drained => if !s.drainedBefore p dst && arrive then s.moveTo k p .arrived else s
    | .bridgeDrained stop v =>
      if s.drainedBefore p dst then s else s.moveTo k p (.bridge (if v then acrossCol stop else acrossRow stop))
    | _ =>
      match nextMove p.stop dst with
      | .here => if arrive then s.moveTo k p .arrived else s
      | .bridge far =>
        -- the drain store of a bridge sends first
        if p.hdr.message && s.packets.any (Pkt.ofBridge (dieOf p.stop) (crossesVert p.stop dst)) then s
        else s.moveTo k p (.bridge far)
      | .ring d =>
        if s.winner p.stop d p.hdr.message = some k then s.moveTo k p (.slot p.stop d)
        else if s.freeSlots p.stop d p.hdr.message < p.needs d && p.needs d = 2 then
          -- refused entry (R236)
          let s := s.modStop p.stop fun x => { x with refused := bump x.refused (counterKey p.hdr.message d) 1 }
          { s with packets := setAt s.packets k { p with since := p.since.or (some (s.masterAt p.stop)) } }
        else s

/-- The stops and links that a packet's way leads through count it (R246), as far as `n` moves lead. -/
def State.countRoute (s : State) (msg : Bool) (stop dst : Nat) : Nat → State
  | 0 => s
  | n + 1 =>
    match nextMove stop dst with
    | .here => s
    | .ring d => (s.modStop stop fun x =>
        { x with forwarded := bump x.forwarded (counterKey msg d) 1 }).countRoute msg (neighbour stop d) dst n
    | .bridge far => s.countRoute msg far dst n

/-- What is left of a packet's way to its destination stop, gone at once. -/
def State.countRest (s : State) (p : Pkt) : State :=
  let s := match p.loc with
    | .slot stop dir => s.modStop stop fun x => { x with forwarded := bump x.forwarded (counterKey p.hdr.message dir) 1 }
    | .queue => s.modStop p.hdr.src fun x => { x with last := p.unit }
    | _ => s
  match p.loc with
  | .arrived | .drained => s
  | _ => s.countRoute p.hdr.message p.stop (s.dstOf p) 64

/-! ### The drain (R242, R243) -/

/-- The bridge that a packet's route takes next has a gateway at this stop. -/
def atGateway (stop dst : Nat) : Bool :=
  if dieCol stop ≠ dieCol dst then colOf stop = gateCol stop
  else dieRow stop ≠ dieRow dst && rowOf stop = gateRow stop

/-- The slot that follows a link in a die's preset cycle. -/
def nextLink (walk : List Nat) (stop dir : Nat) : Option (Nat × Nat) :=
  (walk.idxOf? (4 * (stop % 256) + dir)).bind fun i =>
    (walk[(i + 1) % walk.length]?).map fun x => (256 * dieOf stop + x / 4 % 256, x % 4)

/-- One shift of a message packet: along the cycle, and out of the ring at its destination or at a gateway. -/
def Pkt.shifted (walk : List Nat) (p : Pkt) : Pkt :=
  match p.loc with
  | .slot stop dir =>
    let at' := neighbour stop dir
    if at' = p.hdr.dst then { p with loc := .drained }
    else if atGateway at' p.hdr.dst then { p with loc := .bridgeDrained at' (crossesVert at' p.hdr.dst) }
    else match nextLink walk stop dir with
      | some (n, d) => { p with loc := .slot n d }
      | none => p
  | _ => p

/-- Is a packet a message in a ring slot of a die? -/
def Pkt.inRing (p : Pkt) (die : Nat) : Bool :=
  p.hdr.message && match p.loc with
    | .slot stop _ => dieOf stop = die
    | _ => false

/-- Occupancy of the drain store of a stop, and of a die's bridge. -/
def State.drainedAt (s : State) (stop : Nat) : Nat := s.packets.countP fun p => p.loc == .drained && p.hdr.dst == stop
def State.bridgeDrainedAt (s : State) (die : Nat) (vert : Bool) : Nat := s.packets.countP (Pkt.ofBridge die vert)

/-- Are the message slots of a die empty? -/
def State.ringEmpty (s : State) (die : Nat) : Bool := !(s.packets.any fun p => p.inRing die)

/-- The drain of a die ends in the cycle that leaves its message slots empty (R242). -/
def State.endDrains (s : State) : State :=
  { s with dies := s.dies.mapIdx fun i d => { d with draining := d.draining && !s.ringEmpty i } }

/-- A shift: every message packet of the die moves one link in the same cycle. That a shift counts nothing as forwarded by a
stop (R246) is the model's choice (notes/assumptions/44.md). -/
def State.shift (s : State) (die : Nat) : State :=
  if !s.dieDrains (256 * die) || s.ringEmpty die then s else
  let walk := s.presets.getD die []
  let s : State := { s with packets := s.packets.map (fun p => if p.inRing die then p.shifted walk else p) }
  let s : State := { s with dies := s.dies.mapIdx (fun i d => if i = die then
    { d with shifts := d.shifts + 1, sidePeak := max d.sidePeak (s.bridgeDrainedAt die false),
             vertPeak := max d.vertPeak (s.bridgeDrainedAt die true) } else d) }
  ((s.packets.filterMap fun p => if p.loc = .drained then some p.hdr.dst else none).dedup.foldl (fun s n =>
    s.modStop n fun x => { x with peak := max x.peak (s.drainedAt n) }) s).endDrains

/-- Have the drains of every die ended? -/
def State.drained (s : State) : Bool := s.dies.toList.all fun d => !d.draining

/-- A walk that a preset cycle may be (R243): 1,024 links, each once, each starting where the one before ends, the first
after the last; each quarter passes every stop of the die. -/
def presetOk (walk : List Nat) : Bool :=
  walk.length == 1024 && walk.all (· < 1024) && decide walk.Nodup &&
  (walk.zip (walk.rotateLeft 1)).all (fun x => neighbour (x.1 / 4) (x.1 % 4) == x.2 / 4) &&
  (List.range 4).all fun i => decide (((walk.drop (256 * i)).take 256).map (· / 4)).Nodup

/-! ### Counters that time drives (R246) -/

/-- `n` timebase cycles pass on a die: a boosted one makes ten master cycles in nine (R4, R319). -/
def Die.pass (d : Die) (n : Nat) : Die :=
  if d.boosted then { d with master := d.master + (10 * n + d.ninths) / 9, ninths := (10 * n + d.ninths) % 9 }
  else { d with master := d.master + n }

/-- Slots that are all taken count the master cycles that pass, from `old` to now. -/
def State.countFull (s old : State) : State :=
  let held := (s.packets.filterMap fun p => match p.loc with
    | .slot stop dir => some (stop, dir, p.hdr.message)
    | _ => none).dedup
  held.foldl (fun s x =>
    if s.freeSlots x.1 x.2.1 x.2.2 = 0 then
      s.modStop x.1 fun y => { y with
        full := bump y.full (counterKey x.2.2 x.2.1) (s.masterAt x.1 - old.masterAt x.1) }
    else s) s

/-- Packets in the data slots of a stop, and the slots (R245). -/
def State.dataTaken (s : State) (stop : Nat) : Nat := ((List.range 4).map fun d => s.taken stop d false).sum
def State.dataSlots (s : State) (stop : Nat) : Nat := 4 * s.slots stop false

end Sys2Proof.Machine
end

