-- ==== Sys2Proof/Machine/Cache.lean ====
section
/-! DEFINITION. The caches: the L1 of a tile with its four partitions (spec/08 R172, R173), its instruction cache (spec/01
R18), and the L2 slices with their sets, retention, pins and eviction (spec/08 R174 to R177, R179). -/

namespace Sys2Proof.Machine

/-! ### The L1 (R172) -/

/-- The copy of a line that a lookup from any core of the tile finds, in whichever partition. -/
def l1Look : List ((Nat × Nat) × BitVec 512) → Nat → Option (BitVec 512)
  | [], _ => none
  | ((_, k), v) :: r, q => if k = q then some v else l1Look r q

/-- Drop every copy of a line. -/
def l1Cut (l : List ((Nat × Nat) × BitVec 512)) (line : Nat) : List ((Nat × Nat) × BitVec 512) :=
  l.filter fun x => x.1.2 ≠ line

/-- Make room in a core's partition: a full one gives up a line, another may, for how lines map to places is not stated;
which line is open. -/
def l1Room (l : List ((Nat × Nat) × BitVec 512)) (core draw : Nat) : List ((Nat × Nat) × BitVec 512) :=
  let mine := l.filter fun x => x.1.1 = core
  if mine.isEmpty then l else
  match mine[Config.choose draw % (mine.length + if Config.l1Lines ≤ mine.length then 0 else 1)]? with
  | some v => l.filter fun x => x.1 ≠ v.1
  | none => l

/-- Fill a line into a core's partition. A copy that stands in another partition stays there and is replaced. -/
def l1Fill (l : List ((Nat × Nat) × BitVec 512)) (core line draw : Nat) (data : BitVec 512) :
    List ((Nat × Nat) × BitVec 512) :=
  ((core, line), data) :: l1Room (l1Cut l line) core draw

/-! ### The instruction cache (R18) -/

/-- A fetch brings its line in; the line that has been there longest leaves a full cache. -/
def icacheFill (l : List Nat) (line : Nat) : List Nat := if line ∈ l then l else (line :: l).take Config.icacheLines

/-! ### The L2 (R174 to R177) -/

def l2Look (l : List L2Line) (line : Nat) : Option L2Line := l.find? fun x => x.line = line

/-- Two lines belong to one set of one slice. -/
def State.sameSet (s : State) (a b : Nat) : Bool :=
  s.sliceOf (256 * a) == s.sliceOf (256 * b) && Config.l2set a % Config.sets == Config.l2set b % Config.sets

/-- The lines of a line's set, the most recently used first. -/
def State.l2Set (s : State) (line : Nat) : List L2Line :=
  if s.l2.length < Config.ways then [] else s.l2.filter fun x => s.sameSet x.line line

/-- The line that a set gives up: unpinned; short-lived ones first, long-lived ones last, the least recently used of a
kind first; none where every way is pinned. -/
def l2Victim (set : List L2Line) : Option L2Line :=
  let free := set.filter fun x => x.pins.isEmpty
  let last (p : L2Line → Bool) : Option L2Line := (free.filter p).getLast?
  ((last fun x => x.ret = 1).or (last fun x => x.ret = 0)).or (last fun x => x.ret = 2)

/-- Are all sixteen ways of the line's set pinned (R177)? -/
def State.l2Pinned (s : State) (line : Nat) : Bool :=
  Config.ways ≤ (s.l2Set line).length && (l2Victim (s.l2Set line)).isNone

/-- The dirty sectors of a line. -/
def L2Line.dirtySectors (x : L2Line) : Nat := (List.range 4).countP fun i => x.dirty.getLsbD i

/-- The dirty sectors of a line are written back (R174): a write with two flits a sector from its slice to the base die of
its stack, which is reached through the same stop (R232, R234), or to the host port of a line of host memory. -/
def State.writeBack (s : State) (x : L2Line) : State :=
  if x.dirty = 0 then s else
  let stop := s.sliceStop (s.sliceOf (256 * x.line))
  let home := if 2 ^ 70 ≤ 256 * x.line then s.hostStop (Config.hostPort (256 * x.line - 2 ^ 70) % 2) else stop
  s.send 0x02 (2 * x.dirtySectors) stop 6 0 (BitVec.ofNat 64 (256 * x.line)) 0 (.stop home) (.request 0x03 0 0 [])
    { size := 64 * x.dirtySectors, mask := x.dirty.toNat }

/-- Drop a line, its dirty sectors written back (R174). -/
def State.l2Drop (s : State) (line : Nat) : State :=
  match l2Look s.l2 line with
  | some x => ({ s with l2 := s.l2.filter fun x => x.line ≠ line } : State).writeBack x
  | none => s

/-- Bring a line in, evicting one from a full set; short-lived it enters as the least recently used. -/
def State.l2Alloc (s : State) (x : L2Line) : State :=
  let s := if Config.ways ≤ (s.l2Set x.line).length then
      match l2Victim (s.l2Set x.line) with
      | some v => s.l2Drop v.line
      | none => s
    else s
  { s with l2 := if x.ret = 1 then s.l2 ++ [x] else x :: s.l2 }

/-- The sectors of a line that `n` bytes from an address touch, and those that they cover whole. -/
def sectors (a n : Nat) (whole : Bool) : BitVec 4 :=
  BitVec.ofNat 4 (((List.range 4).map fun i =>
    let lo := 64 * i
    let hi := lo + 64
    let o := a % 256
    if (if whole then o ≤ lo && hi ≤ o + n else o < hi && lo < o + n) then 2 ^ i else 0).sum)

/-- The line after a hit: the most recently used, with the retention of the access, unless that is bypass. -/
def State.l2Hit (s : State) (x : L2Line) (ret : Nat) : State :=
  if ret = 3 then { s with l2 := s.l2.map fun y => if y.line = x.line then x else y }
  else
    let y := { x with ret := ret }
    let rest := s.l2.filter fun z => z.line ≠ x.line
    { s with l2 := y :: rest }

/-- What a demand access at its slice does to the L2, and whether it missed (R174, R175): a load, or a store of `n`
bytes. A miss that meets sixteen pinned ways, and one of bypass retention, allocates nothing. A line that stands there
without a sector that the access needs counts as a miss: R150 says 'finds its line absent', and does not say what such an
access counts as, so that this is the model's choice (notes/assumptions/86.md). -/
def State.l2Access (s : State) (a n ret : Nat) (store : Bool) : State × Bool :=
  let line := a / 256
  let touched := sectors a n false
  let covers := store && sectors a n true == touched
  let dirty : BitVec 4 := if store then touched else 0
  match l2Look s.l2 line with
  | some x =>
    if covers || touched &&& ~~~x.valid == 0 then
      (s.l2Hit { x with valid := x.valid ||| touched, dirty := x.dirty ||| dirty } ret, false)
    else (s.l2Hit { x with valid := 15, dirty := x.dirty ||| dirty } ret, true)
  | none =>
    if ret = 3 ∨ s.l2Pinned line then (s, true)
    else (s.l2Alloc { line := line, ret := ret, valid := if covers then touched else 15, dirty := dirty }, true)

/-- A demand access of a device at its slice: a miss to a storage-eligible page counts for the census (R150), one that
meets only pinned ways for L2BYPASS (R177). -/
def State.l2Demand (s : State) (vd tier a n ret : Nat) (store : Bool) : State :=
  if Config.hbmBytes ≤ a ∧ a < 2 ^ 70 then s else
  let pinned := (l2Look s.l2 (a / 256)).isNone && s.l2Pinned (a / 256)
  let (s, miss) := s.l2Access a n ret store
  let s := if miss && tier = 1 then
      s.modVd vd fun v => { v with pressure := { v.pressure with misses := v.pressure.misses + 1 } } else s
  if pinned then s.modVd vd fun v => { v with l2bypass := v.l2bypass + 1 } else s

/-- The fetch unit pins a line that it reads with kind L2 for a command (R176), where its read has brought it in. -/
def State.l2Pin (s : State) (line cmd : Nat) : State :=
  { s with l2 := s.l2.map fun x => if x.line = line ∧ ¬ cmd ∈ x.pins then { x with pins := cmd :: x.pins } else x }

/-- The matrix unit has consumed the lines of a command. -/
def State.l2Unpin (s : State) (cmd : Nat) : State :=
  if s.l2.isEmpty then s else { s with l2 := s.l2.map fun x => { x with pins := x.pins.filter (· ≠ cmd) } }

/-! ### Byte budgets (R317) -/

/-- Is there room for `n` more bytes in the interval that runs? The current, thermal and slew controls lower the budget too,
from the next interval on (R26, R29): by how much is open. -/
def Cluster.fits (c : Cluster) (n : Nat) : Bool :=
  match c.limit with
  | some m => c.granted + n ≤ m
  | none => c.budget == 0xFFFFFF || c.granted + n ≤ 256 * c.budget.toNat

/-- May a turn be granted `n` more bytes at a cycle? What the turn of the first request of an interval asks for always is. -/
def Cluster.grants (c : Cluster) (cycle n : Nat) : Bool := c.first.isNone || c.first == some cycle || c.fits n

/-- Could the cluster of a tile afford a turn that takes one state to another: has the turn been granted nothing, was it the
first of its interval to ask, or is what has been granted within the budget? -/
def State.afforded (s s' : State) (tile : Nat) : Bool :=
  let c := s.cluster (clusterOf tile)
  let c' := s'.cluster (clusterOf tile)
  c'.granted = c.granted || c.first.isNone || c'.fits 0

/-- Bytes granted to the cluster of a tile. -/
def State.grant (s : State) (tile n : Nat) : State :=
  s.modCluster (clusterOf tile) fun c => { c with granted := c.granted + n, first := c.first.or (some s.cycles) }

end Sys2Proof.Machine
end

