-- ==== Sys2Proof/Machine/Access.lean ====
section
/-! DEFINITION. How an instruction can end, writes at their homes with the monitors they wake, translation, the windows of
the role map, the journals of snapshot regions (spec/08_memory.md, spec/13_traps.md R253 to R258). -/

namespace Sys2Proof.Machine

/-! ### How an instruction can end other than by completing -/

inductive Stop where
  /-- a trap: cause, TVAL and the code of TRAP and BRK (R266) -/
  | trap (cause : Nat) (tval : Word) (code : Nat)
  /-- a page fault (R258): access code, cause, address, level and address of the failing entry -/
  | page (access cause va level pte : Nat)
  /-- the task parks (R72) in this state -/
  | park (w : Wait) (s : State)
  /-- the thread is held, and the instruction is tried again with none of its effect (R70) -/
  | hold
  /-- a doomed task reaches a reclamation point (R135) -/
  | doomed
  /-- the instruction has ended its task, or moved its thread on, in this state -/
  | over (s : State)
  /-- a port write that its queue's home refuses: the release of the push stands (R417) -/
  | refused (port : Nat)
  | fault (f : Fault)

abbrev Act := StateT State (Except Stop)

def trap {α : Type} (cause : Nat) (tval : Word) : Act α := throw (.trap cause tval 0)
def parkOn {α : Type} (w : Wait) : Act α := do throw (.park w (← get))
def holdHere {α : Type} : Act α := throw .hold
def drawNat : Act Nat := do
  let s ← get
  set { s with draws := s.draws + 1 }
  return s.draws
/-- A free choice among two. -/
def drawBool (f : Nat → Bool) : Act Bool := do return f (← drawNat)

/-! ### Waking -/

/-- A task that waits for a write to this 256-byte block (R212, R258, R259). -/
def Wait.onBlock (b : Nat) : Wait → Bool
  | .monitor m => m = b
  | .fault e r => e = b || r = b
  | _ => false

/-- Write the state of an ordinary task's future record beside the task's own (R131); READY with its readytime, which a
record whose task has made FDONE takes too (notes/assumptions/87.md). -/
def State.readyRecord (s : State) (t : Task) (st : Nat) : State :=
  match t.ident with
  | .ordinary i =>
    let f := s.fut t.vd i
    s.putFut t.vd i { f with state := if f.state = 5 then 5 else st, readytime := if st = 2 then s.cycles else f.readytime }
  | _ => s

/-- Make a parked or pending task READY, unless it is doomed (R131). What a wake has handed to it, it keeps while a page
fault holds up its instruction. -/
def State.readyTask (s : State) (id : Nat) (w : Option Woke) : State :=
  match s.task? id with
  | none => s
  | some t =>
    if t.doomed then s else
    -- a write to an armed block ends the wait of an MWAIT (R212)
    let w := match t.status with
      | .blocked (.monitor _) => some .done
      | .blocked (.fault ..) | .blocked (.ring _) => t.woke
      | _ => w
    (s.setTask id { t with status := .ready, readytime := s.cycles, woke := w }).readyRecord t 2

/-- The block of a future record. -/
def State.recordBlock (s : State) (vd i : Nat) : Nat := ((s.vd vd).futBase + 64 * i) / 256

/-- A future record has changed at its home: the monitors armed on its block wake their tasks, whose own records change with
it, and so on (R212). -/
def State.noteFut (s : State) (vd i : Nat) : Nat → State
  | 0 => s
  | n + 1 =>
    let b := s.recordBlock vd i
    (s.tasks.filter fun x => x.2.status == .blocked (.monitor b) && !x.2.doomed).foldl (fun s x =>
      let s := s.readyTask x.1 none
      match x.2.ident with
      | .ordinary j => s.noteFut x.2.vd j n
      | _ => s) s

/-- A change of a future record at its home; each wakes the monitors armed there (R107, R122, R212). -/
def State.setFut (s : State) (vd i : Nat) (f : Fut) : State :=
  let s1 := s.putFut vd i f
  if f.dwords = (s.fut vd i).dwords then s1 else s1.noteFut vd i s.tasks.length
def State.modFut (s : State) (vd i : Nat) (f : Fut → Fut) : State := s.setFut vd i (f (s.fut vd i))

/-- The record of an ordinary task goes with a change of the task's state. -/
def State.setFutState (s : State) (t : Task) (st : Nat) : State :=
  match t.ident with
  | .ordinary i => s.modFut t.vd i fun f => if f.state = 5 then f else { f with state := st }
  | _ => s

/-- Make a parked or pending task READY, and wake the monitors of its record. -/
def State.makeReady (s : State) (id : Nat) (w : Option Woke) : State :=
  match s.task? id with
  | none => s
  | some t =>
    if t.doomed then s else
    let s1 := s.readyTask id w
    match t.ident with
    | .ordinary i => s1.noteFut t.vd i s.tasks.length
    | _ => s1

/-- What a task has kept for the instruction at its pc, and the task with another one kept, or without it. -/
def Task.keptHere (t : Task) : Option Kept := t.kept.find? fun k => k.pc = t.ctx.pc && k.mode = t.ctx.mode
def Task.keep (t : Task) (k : Kept) : Task := { t with kept := k :: t.kept.filter fun x => x.mode ≠ k.mode }
def Task.unkeep (t : Task) : Task := { t with kept := t.kept.filter fun x => x.mode ≠ t.ctx.mode }

/-- A wake gives a value to the instruction that waits for it: a popped entry to a QPOP, or to the latch of a port, or the
status of a barrier to a GBAR. -/
def State.give (s : State) (id : Nat) (x : Word) : State :=
  let f (t : Task) : Task := match t.status with
    | .blocked (.pop _ (some n)) => { t with ctx := t.ctx.setPort n { t.ctx.port n with latch := some x } }
    | _ => t.keep { pc := t.ctx.pc, mode := t.ctx.mode, vals := [x] }
  (s.modTask id f).makeReady id none

/-- Make READY every task of the list that is blocked on a wait of this kind. -/
def State.wakeWhere (s : State) (p : Task → Wait → Bool) (w : Option Woke) : State :=
  s.tasks.foldl (fun s x =>
    match x.2.status with
    | .blocked b => if p x.2 b then s.makeReady x.1 w else s
    | _ => s) s

/-- The block that a block goes to when a range of bytes moves to another key. Both keys and the length are multiples of
256. -/
def movedBlock (old new len b : Nat) : Nat :=
  if old / 256 ≤ b ∧ b < (old + len) / 256 then b - old / 256 + new / 256 else b

/-- Armed monitors go with the addresses of a range whose bytes are found at another key. -/
def State.moveArms (s : State) (old new len : Nat) : State :=
  let wait (t : Task) : Task := match t.status with
    | .blocked (.monitor b) => { t with status := .blocked (.monitor (movedBlock old new len b)) }
    | _ => t
  { s with tasks := s.tasks.map fun x => (x.1, wait x.2) }

/-- Errors and armed monitors go with bytes that are moved to another key. -/
def State.moveMarks (s : State) (old new len : Nat) : State :=
  { s.moveArms old new len with errored := s.errored.map (movedBlock old new len) }

/-! ### Writes performed at a home -/

/-- Mark lines of storage tiles live (R144), and whole rewritten lines free of error (R434). -/
def State.touch (s : State) (k : Nat) : State :=
  if 2 ^ 52 ≤ k ∧ k < 2 ^ 53 then
    let n := (k - 2 ^ 52) / 2 ^ 24
    let line := k % 2 ^ 24 / 256
    let t := s.tile n
    if t.role = 2 ∧ ¬ line ∈ t.live then s.setTile n { t with live := line :: t.live } else s
  else if 2 ^ 53 ≤ k ∧ k < 2 ^ 54 then
    let n := (k - 2 ^ 53) / 2 ^ 24
    let line := k % 2 ^ 24 / 256
    let e := s.entry (n / 4096) (n % 4096)
    if e.backed ∧ ¬ line ∈ e.live then s.modEntry (n / 4096) (n % 4096) fun e => { e with live := line :: e.live } else s
  else s

/-- The distinct 256-byte blocks of keys. -/
def blocksOf (l : List (Nat × Byte)) : List Nat := (l.map fun c => c.1 / 256).dedup

/-- Does a write keep a monitor armed: one of the waiter's own device during collapse (R401)? -/
def State.deaf (s : State) (t : Task) : Wait → Bool
  | .monitor _ => (s.vd t.vd).pwr = 4
  | _ => false

/-- Writes of a device itself, which wake none of its own monitors while it collapses (R401). -/
def State.ownWrites (s : State) (vd : Nat) (f : State → State) : State :=
  if (s.vd vd).pwr = 1 then (f (s.modVd vd fun v => { v with pwr := 4 })).modVd vd fun v => { v with pwr := 1 } else f s

/-- Bytes written at their home: memory, live lines, errors and monitors. -/
def State.write (s : State) (cells : List (Nat × Byte)) : State :=
  let s := { s with mem := s.mem.setAll cells }
  (blocksOf cells).foldl (fun s b =>
    let s := s.touch (b * 256)
    let s := if cells.length = 256 then { s with errored := s.errored.filter (· ≠ b) } else s
    s.wakeWhere (fun t w => w.onBlock b && !s.deaf t w) none) s

/-- A range of whole lines becomes zero, as a write of it does. -/
def State.zeroRange (s : State) (k n : Nat) : State :=
  let s : State := { s with mem := s.mem.clear k n, errored := s.errored.filter fun b => !(k / 256 ≤ b && b < (k + n) / 256) }
  (List.range (n / 256)).foldl (fun s i => (s.touch (k + 256 * i)).wakeWhere (fun t w =>
    w.onBlock (k / 256 + i) && !s.deaf t w) none) s

/-- A range is replaced, as writes of all of it do. -/
def State.replaceRange (s : State) (k n : Nat) (cells : List (Nat × Byte)) : State :=
  let s := s.zeroRange k n
  { s with mem := s.mem.setAll cells }

/-- Little-endian doublewords written at their home. -/
def State.writeDword (s : State) (k : Nat) (x : Word) : State := s.write (cellsAt k (toBytes 8 x.toNat))

/-! ### Reads at a home: the future tables lie in memory as their records -/

/-- The device in whose future table a key lies, with the record's index. -/
def State.inTable (s : State) (k : Nat) : Option (Nat × Nat) :=
  match s.vds.find? fun x => x.2.futBase ≤ k && k < x.2.futBase + 64 * x.2.futQuota with
  | some x => some (x.1, (k - x.2.futBase) / 64)
  | none => none

/-- The byte at a key. -/
def State.byteAt (s : State) (k : Nat) : Byte :=
  match s.inTable k with
  | some (v, i) =>
    let o := (k - (s.vd v).futBase) % 64
    BitVec.ofNat 8 ((s.fut v i).dwords.getD (o / 8) 0 / 256 ^ (o % 8))
  | none => s.mem.byte k

def State.readKey (s : State) (k : Nat) : Nat → List Byte
  | 0 => []
  | n + 1 => s.byteAt k :: s.readKey (k + 1) n
def State.dwordAt (s : State) (k : Nat) : Word := BitVec.ofNat 64 (ofBytes (s.readKey k 8))

/-! ### Page tables (R169 to R171) -/

def pteTier (e : Word) : Nat := bvBits e 63 62
def pteRet (e : Word) : Nat := bvBits e 57 56
def pteFrame (e : Word) : Nat := bvBits e 47 16 * 65536
def pteS (e : Word) : Bool := e.getLsbD 6
def pteMs (e : Word) : Bool := e.getLsbD 7
def pteP (e : Word) : Bool := e.getLsbD 8
def pteD (e : Word) : Bool := e.getLsbD 5
def pteA (e : Word) : Bool := e.getLsbD 4
def pteX (e : Word) : Bool := e.getLsbD 3
def pteW (e : Word) : Bool := e.getLsbD 2

/-- Log2 of the page size of a leaf at a level, and the size. -/
def pageBits (level : Nat) : Nat := [16, 21, 30].getD level 16
def pageSize (level : Nat) : Nat := 2 ^ pageBits level

/-- Every physical address of the range is backed, by one tier (R171). -/
def backed (a n : Nat) (flash : Bool) : Bool :=
  if flash then Config.flashBase ≤ a && a + n ≤ Config.flashBase + Config.flashBytes else a + n ≤ Config.hbmBytes

/-- Is the entry a well-formed leaf at its level (R170, R171)? -/
def leafOk (level : Nat) (e : Word) : Bool :=
  e.getLsbD 0 && bvBits e 61 58 == 0 && bvBits e 55 48 == 0 && bvBits e 15 10 == 0 && !e.getLsbD 1 &&
  (e.getLsbD 9 == (level != 0)) && pteTier e != 3 && pteFrame e % pageSize level == 0 &&
  backed (pteFrame e) (pageSize level) (pteTier e == 2)

/-- Is the entry a well-formed pointer to a node (R169)? -/
def nodeOk (e : Word) : Bool := e.getLsbD 0 && bvBits e 11 1 == 0 && bvBits e 63 48 == 0

/-- The bits of a virtual address that index a level. -/
def levelIndex (va level : Nat) : Nat := if level = 0 then bits va 20 16 else bits va (20 + 9 * level) (12 + 9 * level)

/-- A walk from a node at a level: the leaf, its level and its address, or the level and address of the malformed
entry. -/
def State.walkAt (s : State) (va : Nat) : Nat → Nat → Except (Nat × Nat) (Word × Nat × Nat)
  | 0, node =>
    let a := node + 8 * levelIndex va 0
    let e := s.dwordAt a
    if leafOk 0 e then .ok (e, 0, a) else .error (0, a)
  | l + 1, node =>
    let a := node + 8 * levelIndex va (l + 1)
    let e := s.dwordAt a
    if l + 1 ≤ 2 ∧ e.getLsbD 9 then
      if leafOk (l + 1) e then .ok (e, l + 1, a) else .error (l + 1, a)
    else if nodeOk e then s.walkAt va l (bvBits e 47 12 * 4096) else .error (l + 1, a)

def State.walk (s : State) (root va : Nat) : Except (Nat × Nat) (Word × Nat × Nat) := s.walkAt va 4 root

/-! ### Permission and translation (R62, R167, R171, R254, R255) -/

inductive Acc where | fetch | load | store
  deriving DecidableEq, Repr

/-- The page-fault cause of an access (R167) and its access code (R260). -/
def Acc.cause : Acc → Nat
  | .fetch => 3 | .load => 4 | .store => 5
def Acc.code : Acc → Nat
  | .fetch => 0 | .load => 1 | .store => 2

/-- What a valid leaf answers to an access: the tier refusal comes before the permission refusal. -/
def pageRefuses (e : Word) (a : Acc) (m : Mode) : Option Nat :=
  if pteTier e = 2 then some 7
  else if (a = .store ∧ ¬ pteW e) ∨ (a = .fetch ∧ ¬ pteX e) ∨ (m = .task ∧ pteS e) then some 6
  else none

/-- A frame byte with what its page says. -/
structure Phys where
  pa : Nat
  ms : Bool
  tier : Nat
  ret : Nat
  level : Nat := 0
  deriving DecidableEq, Repr

def physOf (e : Word) (level va : Nat) : Phys :=
  { pa := pteFrame e + va % pageSize level, ms := pteMs e, tier := pteTier e, ret := pteRet e, level := level }

def TlbEntry.covers (x : TlbEntry) (vd va : Nat) : Bool := x.vd = vd && x.vpn = va / pageSize x.level

/-- Put a translation into a TLB: it replaces its own tag's entry, else one of the eight of its set (R254). -/
def tlbFill (l : List TlbEntry) (x : TlbEntry) (draw : Nat) : List TlbEntry :=
  let l := l.filter fun y => !(y.vd = x.vd && y.vpn = x.vpn && y.level = x.level)
  let set := l.filter fun y => y.vpn % 256 = x.vpn % 256
  if set.length < 8 then x :: l
  else
    match set[Config.victim draw % 8]? with
    | some v => x :: l.filter (· ≠ v)
    | none => x :: l

/-- A and D as the access leaves them (R255). -/
def withAD (e : Word) (a : Acc) : Word := e ||| (if a = .store then 0x30 else 0x10)

/-- The walker: read the leaf, refuse, set A and D, fill the TLB. -/
def walkFor (id : Nat) (t : Task) (va : Nat) (a : Acc) : Act Phys := do
  let s ← get
  match s.walk (s.vd t.vd).root va with
  | .error (level, pte) => throw (.page a.code a.cause va level pte)
  | .ok (e, level, pte) =>
    match pageRefuses e a t.ctx.mode with
    | some c => trap c (BitVec.ofNat 64 va)
    | none =>
      let e' := withAD e a
      let s := if e' = e then s else s.writeDword pte e'
      let x : TlbEntry := { vd := t.vd, vpn := va / pageSize level, level := level, leaf := e', pte := pte }
      let n := t.last.tile
      set (s.setTile n { s.tile n with tlb := tlbFill (s.tile n).tlb x s.draws })
      modify fun s => s.modTask id fun t =>
        { t with extTable := t.extTable.map fun y => if y.vd = x.vd ∧ y.vpn = x.vpn ∧ y.level = x.level then x else y }
      return physOf e' level va

/-- A cached translation that serves the access, from the extent table or the TLB: an entry stays until a fill of its
set, a TINV or a clear takes it (R254). -/
def State.cached (s : State) (t : Task) (va : Nat) (a : Acc) : Option TlbEntry :=
  ((t.extTable ++ (s.tile t.last.tile).tlb).find? fun x => x.covers t.vd va).filter fun x =>
    pteA x.leaf && (a != .store || pteD x.leaf)

/-- Translate an address of ordinary memory. -/
def translate (id : Nat) (t : Task) (va : Nat) (a : Acc) : Act Phys := do
  match (← get).cached t va a with
  | some x =>
    match pageRefuses x.leaf a t.ctx.mode with
    | some c => trap c (BitVec.ofNat 64 va)
    | none => return physOf x.leaf x.level va
  | none => walkFor id t va a

/-! ### Windows (R143, R168, R182, R331) -/

/-- The task whose window stands at an offset of a tile. -/
def State.windowAt (s : State) (tile off : Nat) : Option Window :=
  match s.tasks.find? fun x =>
      match x.2.window with
      | some w => w.tile = some tile && w.off ≤ off && off < w.off + w.size
      | none => false with
  | some x => x.2.window
  | none => none

/-- Is the address within the task's own window, by its original address (R159)? -/
def Task.owns (t : Task) (lid off : Nat) : Bool :=
  match t.window with
  | some w => w.lid = lid && w.origOff ≤ off && off < w.origOff + w.size
  | none => false

/-- The key of a byte of a window's live (or shadow) copy. -/
def Window.key (w : Window) (tile off : Nat) (shadow : Bool) : Nat :=
  sramKey tile ((if shadow then 1 - w.bank else w.bank) * Config.bankBytes + off)

/-- Where a byte of the tile window lies, or none where the entry's role refuses it (cause 0x06): R143, R182, R406. -/
def State.windowKey (s : State) (vd : Nat) (own : Option Task) (lid off : Nat) : Option Nat :=
  match own.bind fun t => if t.owns lid off then t.window else none with
  | some w =>
    match w.tile with
    | some n => some (w.key n (w.off + (off - w.origOff)) false)
    | none => none
  | none =>
    let e := s.entry vd lid
    if e.state = 3 then none
    else if e.role = 1 then
      if Config.bankBytes ≤ off then none
      else match s.windowAt e.phys off with
        | some w => some (w.key e.phys off false)
        | none => none
    else if e.role = 2 then
      if Config.storageBytes ≤ off then none
      else if 0x980000 ≤ off ∧ (look (s.vd vd).queues (lid, (off - 0x980000) / 0x800)).isSome then none
      else if e.backed then some (backedKey vd lid off) else some (sramKey e.phys off)
    else none

/-- An aperture that covers an offset of the aperture block (R331). -/
def Vd.aperture (v : Vd) (off : Nat) : Option (BitVec 128) :=
  match look v.apertures (off / 2 ^ 36) with
  | some a => if a.getLsbD 0 && off % 2 ^ 36 < (bvBits a 15 10 + 1) * 2 ^ 30 then some a else none
  | none => none

/-- Where an access of a thread leads: the address checks of R167 and R168, translation, tier and permission. -/
def resolve (id : Nat) (t : Task) (va : Nat) (a : Acc) : Act (Target × Phys) := do
  let s ← get
  let word := BitVec.ofNat 64 va
  if 2 ^ 57 ≤ va then trap a.cause word
  else if Config.windowBase ≤ va then
    if va < Config.windowBase + 2 ^ 36 ∧ a ≠ .fetch then
      let lid := (va - Config.windowBase) / 2 ^ 24
      let off := va % 2 ^ 24
      return (.window lid off (t.owns lid off), ⟨0, false, 0, 0, 0⟩)
    else if Config.apertureBase ≤ va ∧ va < Config.apertureBase + 2 ^ 40 ∧ a ≠ .fetch then
      let off := va - Config.apertureBase
      match (s.vd t.vd).aperture off with
      | none => trap 6 word
      | some d =>
        if a = .store ∧ ¬ d.getLsbD 2 then trap 6 word
        else
          let r := bvBits d 127 64 + off % 2 ^ 36
          return (if d.getLsbD 3 then .host r else .peer (bvBits d 31 16) r, ⟨0, false, 0, 0, 0⟩)
    else trap 6 word
  else
    let p ← translate id t va a
    -- the future table is read-only, and for supervisor mode (R79)
    if (s.inTable p.pa).isSome ∧ (a = .store ∨ t.ctx.mode = .task) then trap 6 word
    return (.phys p.pa p.ms, p)

/-- The key of a target's first byte, for an access that the thread waits for. A held packet holds the thread; a refusing
entry traps. -/
def keyOf (t : Task) (va : Nat) (g : Target) : Act Nat := do
  match g with
  | .phys a _ => return a
  | .host a => return hostKey a
  | .peer i a => return peerKey i a
  | .window lid off own =>
    let s ← get
    if !own && s.held t.vd lid t.last.tile then holdHere
    match s.windowKey t.vd (if own then some t else none) lid off with
    | some k => return k
    | none => trap 6 (BitVec.ofNat 64 va)

/-- The check of a release's address, which comes before what it releases (R435): a refusing entry traps. -/
def storable (t : Task) (va : Nat) (g : Target) : Act Unit := do
  match g with
  | .window lid off own =>
    if ((← get).windowKey t.vd (if own then some t else none) lid off).isNone then trap 6 (BitVec.ofNat 64 va)
  | _ => return

/-! ### Journals (R193, R194) -/

def Region.capacity (r : Region) : Nat := (r.undosize - 64) / 272
def Region.holds (r : Region) (va : Nat) : Bool := r.base ≤ va && va < r.base + r.size

/-- The open region of a device that holds an address, with its number. -/
def Vd.regionOf (v : Vd) (va : Nat) : Option (Nat × Region) := v.regions.find? fun x => x.2.holds va

/-- Reserve a journal entry for the line of an address (R194): each writer that waits to write an unjournalled line
holds its own copy of the line's reservation. -/
def reserve (vd va : Nat) : Act Unit := do
  let s ← get
  match (s.vd vd).regionOf va with
  | none => return
  | some (n, r) =>
    let line := va / 256
    if line ∈ r.lines then return
    if line ∈ r.reserved ∨ r.lines.length + r.reserved.dedup.length < r.capacity then
      let r' : Region := { r with reserved := line :: r.reserved }
      set (s.modVd vd fun v => { v with regions := put v.regions n r' })
    else trap 0x13 (BitVec.ofNat 64 (line * 256))

/-- The frame address of a byte of an undo area, through the translations latched at SNAPOPEN. -/
def Region.undoKey (r : Region) (off : Nat) : Nat :=
  let va := r.undo + off
  match r.pins.find? fun x => x.vpn = va / pageSize x.level with
  | some x => pteFrame x.leaf + va % pageSize x.level
  | none => 0

/-- Write doublewords into an undo area. -/
def State.undoWrite (s : State) (r : Region) (off : Nat) (l : List (Nat × Byte)) : State :=
  s.write (l.map fun c => (r.undoKey (off + c.1), c.2))

/-- Journal the line of a write about to be performed: `key` is the key of the line's first byte; `pin`: an FPIN or
FTAKE of the doubleword at the address. -/
def State.journal (s : State) (vd va key : Nat) (pin : Bool) : State :=
  match (s.vd vd).regionOf va with
  | none => s
  | some (n, r) =>
    let line := va / 256
    let s1 : State :=
      if line ∈ r.lines then s
      else if line ∈ r.reserved ∨ r.lines.length + r.reserved.dedup.length < r.capacity then
        let e := r.lines.length
        let old := s.readKey key 256
        let s := s.undoWrite r (64 + 272 * e) (cellsAt 0 (toBytes 8 (line * 256) ++ toBytes 8 0 ++ old))
        let s := s.undoWrite r 0 (cellsAt 0 (toBytes 8 (e + 1)))
        let r' : Region := { r with
          lines := r.lines ++ [line], reserved := r.reserved.filter (· ≠ line)
          bad := if key / 256 ∈ s.errored then e :: r.bad else r.bad }
        s.modVd vd fun v => { v with regions := put v.regions n r' }
      else
        let m := ofBytes ((List.range 8).map fun i => s.byteAt (r.undoKey (0x18 + i)))
        s.undoWrite r 0x18 (cellsAt 0 (toBytes 8 (m + 1)))
    if pin then
      match ((s1.vd vd).regionOf va).bind fun x => x.2.lines.idxOf? line with
      | some e =>
        let off := 64 + 272 * e + 8
        let m := ofBytes ((List.range 8).map fun i => s1.byteAt (r.undoKey (off + i)))
        s1.undoWrite r off (cellsAt 0 (toBytes 8 (m ||| 2 ^ (va % 256 / 8))))
      | none => s1
    else s1

end Sys2Proof.Machine
end

