-- ==== Sys2Proof/Machine/Traffic.lean ====
section
/-! DEFINITION. The notice ring, stores and exchanges on their way and at their homes, releases and acquires, loads, stores
and atomics of a thread (spec/07 R155, R156; spec/08_memory.md; spec/09_ordering.md). -/

namespace Sys2Proof.Machine

/-! ### The notice ring and the fault ring (R155, R156, R259, R471) -/

/-- The key of a byte at a virtual address, through translations pinned at creation. -/
def pinKey (pins : List TlbEntry) (va : Nat) : Nat :=
  match pins.find? fun x => x.vpn = va / pageSize x.level with
  | some x => pteFrame x.leaf + va % pageSize x.level
  | none => 0

def Vd.noticeKey (v : Vd) (off : Nat) : Nat := pinKey v.noticePins (v.noticeRing + off)
def Vd.faultKey (v : Vd) (off : Nat) : Nat := pinKey v.faultPins (v.faultRing + off)

/-- Records between the producer and the consumer count of the notice ring. -/
def State.noticeUsed (s : State) (v : Vd) : Nat :=
  ((s.dwordAt (v.noticeKey 0)) - (s.dwordAt (v.noticeKey 8))).toNat

/-- Write a record to the notice ring and publish the producer count; the census sends a notice packet (R234). -/
def State.noticePut (s : State) (vd : Nat) (r : Word × Word × Word × Word) : State :=
  let v := s.vd vd
  if v.noticePins.isEmpty then s else
  let n := (s.dwordAt (v.noticeKey 0)).toNat
  let base := 64 + 32 * (n % 256)
  let s := s.writeDword (v.noticeKey base) r.1
  let s := s.writeDword (v.noticeKey (base + 8)) r.2.1
  let s := s.writeDword (v.noticeKey (base + 16)) r.2.2.1
  let s := s.writeDword (v.noticeKey (base + 24)) r.2.2.2
  (s.writeDword (v.noticeKey 0) (BitVec.ofNat 64 (n + 1))).message 0x24 (Config.censusStop % 1024) vd r.1
    (.place vd 0 (.phys (v.noticeKey base) false)) 0 (BitVec.ofNat 64 (v.noticeRing + base))

/-- A record of kind 4 or 5: the tile it names, its entry's generation, the cycle of the event (R155). -/
def kindRecord (kind lid gen cycles : Nat) : Word × Word × Word × Word :=
  (BitVec.ofNat 64 (gen * 2 ^ 32 + kind * 2 ^ 16 + lid), BitVec.ofNat 64 cycles, 0, 0)

/-- A record of kind 4 or 5: written if an unreserved record is free, else counted as dropped (R156). It may take one that
frees while the records of a retirement still wait at the census (notes/assumptions/95.md). -/
def State.noticeOrDrop (s : State) (vd kind lid : Nat) : State :=
  let v := s.vd vd
  if v.noticePins.isEmpty ∨ v.destroying then s
  else if s.noticeUsed v + v.noticeReserved < 256 then s.noticePut vd (kindRecord kind lid (s.entry vd lid).gen.toNat s.cycles)
  else s.writeDword (v.noticeKey 0x10) (s.dwordAt (v.noticeKey 0x10) + 1)

/-! ### Stores at their homes (R178, R193, R206) -/

/-- The key of a store's first byte, none where its entry now refuses it. -/
def State.storeKey (s : State) (vd task : Nat) (st : Store) : Option Nat :=
  match st.target with
  | .phys a _ => some a
  | .host a => some (hostKey a)
  | .peer i a => some (peerKey i a)
  | .window lid off own => s.windowKey vd (if own then s.task? task else none) lid off

/-- First offset of a store's bytes, and how many bytes it spans. -/
def Store.span (st : Store) : Nat × Nat :=
  let lo := (st.bytes.head?.map (·.1)).getD 0
  (lo, (st.bytes.getLast?.map (·.1 + 1)).getD 0 - lo)

/-- What a write does to the L2 on its way: at the slice of an ordinary page it is a demand store, a memory-side one
drops the line there (R174, R179). -/
def State.l2Store (s : State) (vd : Nat) (st : Store) : State :=
  match st.target with
  | .phys a false => s.l2Demand vd st.tier (a + st.span.1) st.span.2 st.ret true
  | .host a => s.l2Demand vd st.tier (hostKey a + st.span.1) st.span.2 st.ret true
  | .phys a true => s.l2Drop (a / 256)
  | _ => s

/-- Perform a store at its home: the journal first (R193), then the bytes, whole. Where the entry of its logical tile
refuses it by now, nothing is written; the flag says so. -/
def State.performAt (s : State) (vd task : Nat) (st : Store) : State × Bool :=
  match s.storeKey vd task st with
  | none => (s, false)
  | some k =>
    let s := match st.target with
      | .phys .. => s.journal vd st.va (k - k % 256) false
      | _ => s
    ((s.l2Store vd st).ownWrites vd fun s => s.write (st.bytes.map fun c => (k + c.1, c.2)), true)

def State.perform (s : State) (vd task : Nat) (st : Store) : State := (s.performAt vd task st).1

/-! ### Exchanges landing (R183, R184) -/

/-- Bytes put into a shadow copy: an XPUT wakes no monitor (R212). -/
def State.shadowWrite (s : State) (k : Nat) (x : Word) : State := { s with mem := s.mem.setAll (cellsAt k (toBytes 8 x.toNat)) }

/-- An XPUT is applied at its logical tile: in the shadow copy of the window it meets, or discarded with a record. -/
def State.land (s : State) (vd task lid off : Nat) (x : Word) : State :=
  let own := (s.task? task).bind fun t => if t.owns lid off then t.window else none
  match own with
  | some w =>
    match w.tile with
    | some n => s.shadowWrite (w.key n (w.off + (off - w.origOff)) true) x
    | none => s.noticeOrDrop vd 4 lid
  | none =>
    let e := s.entry vd lid
    if e.role = 1 ∧ e.state ≠ 3 then
      match s.windowAt e.phys off with
      | some w => s.shadowWrite (w.key e.phys off true) x
      | none => s.noticeOrDrop vd 4 lid
    else s.noticeOrDrop vd 4 lid

/-! ### Packets delivered (R230 to R241) -/

/-- The worse of two details: 2, data error, before 3, refused (R127). -/
def worse (a b : Nat) : Nat := if a = 2 ∨ b = 2 then 2 else if a = 3 ∨ b = 3 then 3 else 0

/-- Change every command, wherever it stands: in a core's queues, with a subscription, or saved. -/
def State.mapCmds (s : State) (f : Cmd → Cmd) : State :=
  let sub (u : Sub) : Sub := { u with cmd := f u.cmd }
  let core (c : Core) : Core :=
    { c with matrix := c.matrix.map f, copy := c.copy.map f, collective := c.collective.map f, stream := c.stream.map f,
             sub := c.sub.map sub, paused := c.paused.map sub }
  let saved (v : Saved) : Saved := { v with cmds := v.cmds.map fun c => (c.1, f c.2), sub := v.sub.map sub }
  { s with tiles := s.tiles.map fun x => (x.1, { x.2 with cores := x.2.cores.map core }),
           tasks := s.tasks.map fun x => (x.1, { x.2 with saved := x.2.saved.map saved }) }

/-- Change a command of a number. -/
def State.modCmdAt (s : State) (id : Nat) (f : Cmd → Cmd) : State := s.mapCmds fun c => if c.id = id then f c else c

/-! #### A TXCHG message (R292, R300, R448, R449) -/

/-- The place of element (i, j) of a matrix of `cols` columns in the element order of R292. -/
def blockOrder (cols i j : Nat) : Nat := 256 * (i / 16 * (cols / 16) + j / 16) + 16 * (i % 16) + j % 16

/-- The bytes of a message by offset, in that order. -/
def Message.cells (m : Message) : List (Nat × Byte) :=
  m.sum.zipIdx.flatMap fun x =>
    cellsAt (4 * blockOrder m.cols (x.2 / max m.cols 1) (x.2 % max m.cols 1)) (toBytes 4 x.1.toNat)

/-- Is a task being saved (R271)? -/
def State.isSaving (s : State) (id : Nat) : Bool := (s.task? id).any fun t => match t.status with
  | .saving _ => true
  | _ => false

/-- The round of a group that a member's next TXCHG takes part in, so far as one has begun (R447). -/
def Group.roundOf (g : Group) (id : Nat) : Option Round :=
  g.rounds.find? fun r => id ∈ r.order && !(id ∈ r.sent) && !(id ∈ r.gone)

/-- Is a command a TXCHG of a group? -/
def Cmd.exchanges (c : Cmd) (n : Nat) : Bool := match c.instr with
  | .txchg .. => (c.vals.getD 0 0).toNat = n
  | _ => false

/-- Where the message of a round goes in a task's context area (R272). -/
def Task.messageKey (t : Task) : Option Nat :=
  t.context.map fun a => a + 0x12000 + 2 * ((t.window.map fun w => w.size).getD 0)

/-- A message that comes for a TXCHG that a save keeps goes into the context area of its task (R449). -/
def State.saveMessage (s : State) (vd n round id : Nat) (m : Message) : State :=
  match (s.task? id).bind fun t => t.messageKey.bind fun k => t.context.map fun a => (t, k, a) with
  | none => s
  | some (t, k, a) =>
    if t.saved.any (fun sv => sv.cmds.any fun c => c.2.exchanges n) && !s.isSaving id &&
        ((s.group vd n).roundOf id).any (fun r => r.n = round) then
      (s.write (m.cells.map fun c => (k + c.1, c.2))).writeDword (a + 0xF0) (s.dwordAt (a + 0xF0) ||| 0x400)
    else s

/-- A message is held by its member's collective engine (R300), or with the saved TXCHG. -/
def State.exchangeHere (s : State) (vd n round id : Nat) (m : Message) : State :=
  let g := s.group vd n
  (s.setGroup vd n { g with rounds := g.rounds.map fun r =>
    if r.n = round then { r with msgs := put r.msgs id m } else r }).saveMessage vd n round id m

/-! #### Delivery -/

/-- What a packet does at its destination. An event and an enqueue have events of their own, and stay where they are. -/
def State.deliver (s : State) (p : Pkt) : State :=
  match p.body with
  | .store vd task st => s.perform vd task st
  | .engine vd cmd st =>
    let task := match p.goal with
      | .place _ t _ => t
      | _ => 0
    let (s, ok) := s.performAt vd task st
    if ok then s else s.modCmdAt cmd fun c => { c with detail := worse c.detail 3 }
  | .xput _ vd task lid off x => s.land vd task lid off x
  | .txchg vd n round id m => s.exchangeHere vd n round id m
  | .request .. | .plain => s
  | .event .. | .enqueue .. => { s with packets := s.packets ++ [p] }

/-- The rest of a packet's way, of one that is astray over its old home, and that of its acknowledgement, are gone within the
step that waits for it; the stops on them count it (R246). -/
def State.countTrip (s : State) (p : Pkt) : State :=
  let home := if s.astray p then s.goalStop p.goal else s.dstOf p
  let there := (s.countRest p).countRoute false (s.dstOf p) home 64
  match p.body with
  | .event .. | .enqueue .. => s
  | .plain => there
  | _ => there.countRoute false home p.writer 64

/-- Is a packet a QENQ's entry? -/
def Pkt.enqueues (p : Pkt) : Bool := match p.body with
  | .enqueue .. => true
  | _ => false

/-- Is a packet a store of the task whose XPUT another one is, or an XPUT of it to the same logical tile (R202, R205 note 4)? -/
def Pkt.sameIssuer (q p : Pkt) : Bool := match p.body, q.body with
  | .xput _ _ t _ _ _, .store _ u _ => t = u
  | .xput _ v t l _ _, .xput _ w u k _ _ => v = w && t = u && l = k
  | _, _ => false

/-- What an old home has sent on comes before what it still has to send on, and both before everything else for their logical
tile (R162). -/
def State.rankAt (s : State) (p : Pkt) : Nat := if p.forwards then 0 else if s.astray p then 1 else 2

/-- Is a packet applied before another one: an earlier one of its path (R241), of the exchange's task, or what an old home
sends on? -/
def State.comesFirst (s : State) (q p : Pkt) (earlier : Bool) : Bool :=
  (earlier && s.samePath q p) || ((earlier || (q.forwards && !p.forwards)) && q.sameIssuer p) ||
    (q.homed.isSome && q.homed == p.homed && !q.enqueues && s.rankAt q < s.rankAt p)

/-- Does a move hold a packet, or what has to come before it at its home, or is that an enqueue, which takes its own turn? -/
def State.stuck (s : State) (p : Pkt) : Bool :=
  s.moveHeld p || (!s.sentOn p && p.homed.isSome && s.packets.any fun q =>
    q.homed == p.homed && s.sentOn q && (s.moveHeld q || q.enqueues))

/-- The packets that must be delivered so that those of some numbers are: every one that comes first. One that a move holds
is not one (R162). -/
def State.neededFor (s : State) (l : List (Pkt × Nat)) (ids : List Nat) : Nat → List Nat
  | 0 => ids
  | n + 1 =>
    let more := (l.filter fun x => !(x.2 ∈ ids) && !s.stuck x.1 && l.any fun y => y.2 ∈ ids &&
      s.comesFirst x.1 y.1 (decide (x.2 < y.2))).map (·.2)
    if more.isEmpty then ids else s.neededFor l (ids ++ more) n

/-- Packets in an order in which each comes after those that come first, else oldest first. -/
def State.arranged (s : State) : List (Pkt × Nat) → Nat → List Pkt
  | _, 0 => []
  | [], _ => []
  | x :: l, n + 1 =>
    let all := x :: l
    let y := (all.find? fun y => !(all.any fun z => s.comesFirst z.1 y.1 (decide (z.2 < y.2)))).getD x
    y.1 :: s.arranged (all.filter fun z => z.2 ≠ y.2) n

/-- Deliver the packets that a predicate names at once, with what comes first: the wait of the step that needs them is part of
the step. -/
def State.flush (s : State) (f : Pkt → Bool) : State :=
  if !(s.packets.any f) then s else
  let l := s.packets.zipIdx
  let ids := s.neededFor l ((l.filter fun x => f x.1 && !s.stuck x.1).map (·.2)) l.length
  let now := s.arranged (l.filter fun x => x.2 ∈ ids) l.length
  let s := now.foldl State.countTrip s
  now.foldl State.deliver { s with packets := (l.filter fun x => !(x.2 ∈ ids)).map (·.1) }

/-- Packets of a task: its stores; its exchanges. -/
def Pkt.storeOf (id : Nat) (p : Pkt) : Bool := match p.body with
  | .store _ t _ => t = id
  | _ => false
def Pkt.xputOf (id : Nat) (p : Pkt) : Bool := match p.body with
  | .xput _ _ t _ _ _ => t = id
  | _ => false

/-- Does a packet write at its destination? -/
def Pkt.writes (p : Pkt) : Bool := match p.body with
  | .store .. | .xput .. | .engine .. => true
  | _ => false

/-- Does a store bypass the L1 (R172)? -/
def Target.bypasses : Target → Bool
  | .phys _ false => false
  | .host _ => false
  | _ => true

/-- Does a store touch a byte of a run of `n` bytes from a target? -/
def Store.overlaps (st : Store) (g : Target) (n : Nat) : Bool :=
  let meets (a b : Nat) : Bool := st.bytes.any fun c => b ≤ a + c.1 && a + c.1 < b + n
  match st.target, g with
  | .phys a _, .phys b _ | .host a, .host b => meets a b
  | .peer i a, .peer j b => i = j && meets a b
  | .window l a _, .window k b _ => l = k && meets a b
  | _, _ => false

/-- Before an access from a tile reaches a stop, the earlier packets of its path are delivered (R241), and the task's own
stores to its bytes (R206). -/
def State.settlePath (s : State) (tile id : Nat) (goal : Goal) (g : Target) (n : Nat) : State :=
  if s.packets.isEmpty then s else
  let dst := s.goalStop goal
  s.flush fun p => p.writes &&
    ((!p.hdr.message && p.hdr.src == tile && s.dstOf p == dst) || match p.body with
      | .store _ t st => t = id && st.overlaps g n
      | _ => false)

/-- The answer to a packet leaves its destination stop (R234, R239). -/
def State.answer (s : State) (p : Pkt) (kind len : Nat) (x : Word := 0) : State :=
  s.send kind len p.hdr.dst 5 p.hdr.vd p.hdr.addr x (.stop p.writer) .plain p.hdr.op

/-- May the k-th packet be taken from the buffer of its destination stop, in the order of its path (R241), and after what an
old home forwards (R162)? -/
def State.mayReceive (s : State) (k : Nat) (p : Pkt) : Bool :=
  p.loc == .arrived && !((s.packets.take k).any fun q => q.loc == .arrived && s.samePath p q) && !s.blocked p

/-- The k-th packet has come to a home that its logical tile has left: the old home sends it on to the new one, behind those
that it has sent on before (R162, R234). -/
def State.sendOn (s : State) (k : Nat) (p : Pkt) : State :=
  { s with packets := s.packets.eraseIdx k ++ [{ p with
      hdr := { p.hdr with kind := 0x08, src := p.hdr.dst }, origin := some p.writer, loc := .queue, unit := 5,
      since := none, starved := false }] }

/-- The k-th packet, which stands in the buffer of its destination stop, is taken from it, in the order of its path (R241): it
is sent on, or takes effect and its answer leaves (R234, R239). An exchange, a message with an effect and what an old home
has sent on have events of their own. -/
def State.receive (s : State) (k : Nat) : State :=
  match s.packets[k]? with
  | none => s
  | some p =>
    if !s.mayReceive k p then s else
    if s.astray p then s.sendOn k p else
    if p.forwards then s else
    let taken : State := { s with packets := s.packets.eraseIdx k }
    match p.body with
    | .store .. | .engine .. => (taken.deliver p).answer p 0x03 0
    | .request kind len x _ => taken.answer p kind len x
    | .plain => taken
    | _ => s

/-- Does an access leave its tile? One to a window that lies on the tile makes no packets. -/
def State.leaves (s : State) (vd id tile : Nat) (g : Target) : Bool :=
  match g with
  | .window .. => s.homeOf vd id g != .tile tile
  | _ => true

/-- The request of an access that its thread or engine has answered in the same step (R234): its packets are on their
way, with the inline values `x` of the request and `y` of the answer, and the doublewords of the request's payload. -/
def State.traffic (s : State) (kind len answer vd id : Nat) (t : Place) (va : Nat) (x : Word) (g : Target)
    (op : OpField := {}) (y : Word := 0) (data : List Word := []) : State :=
  if s.leaves vd id t.tile g then
    s.send kind len t.tile t.core vd (BitVec.ofNat 64 va) x (.place vd id g) (.request (replyKind kind) answer y data) op
  else s

/-- The bytes of a store as a header names them: how many, and which of its line. -/
def Store.op (st : Store) : OpField :=
  { size := st.bytes.length, mask := (st.bytes.map fun c => 2 ^ c.1).sum, order := if st.rel then 1 else 0 }

/-! ### Draining (R201) -/

/-- The key under which an L1 holds a byte of a target: of an ordinary page, or of host memory, whose lines are cached as
ordinary lines (R172, R331). -/
def Target.l1Key : Target → Option Nat
  | .phys a false => some a
  | .host a => some (hostKey a)
  | _ => none

/-- Update every copy of a drained store's line in its tile (R172). -/
def l1Update (l : List ((Nat × Nat) × BitVec 512)) (st : Store) : List ((Nat × Nat) × BitVec 512) :=
  match st.target.l1Key with
  | some a =>
    st.bytes.foldl (fun l c =>
      let k := a + c.1
      l.map fun x => if x.1.2 = k / 64 then
          (x.1, (x.2 &&& ~~~((255 : BitVec 512) <<< (8 * (k % 64)))) ||| ((c.2.setWidth 512 : BitVec 512) <<< (8 * (k % 64))))
        else x) l
  | none => l

/-- Drain the oldest store of a task into its tile: the L1 sees it, and its packet leaves for its home. A release of
module or system scope is performed there in the same step: no party of its scope sees it before another (R207). -/
def State.drainFirst (s : State) (id : Nat) : State :=
  match s.task? id with
  | none => s
  | some t =>
    match t.sbuf with
    | [] => s
    | st :: r =>
      let s := s.setTask id { t with sbuf := r }
      let s := s.modTile t.last.tile fun x => { x with l1 := l1Update x.l1 st }
      let s := s.send 0x02 (flits st.bytes.length) t.last.tile t.last.core t.vd (BitVec.ofNat 64 st.va) 0
        (.place t.vd id st.target) (.store t.vd id st) st.op
      if st.rel then s.flush fun p => match p.body with
        | .store _ t x => t = id && x.rel
        | _ => false
      else s

/-- Drain the oldest entry of a task's store buffer: a store, with the part of it that lies in the next line (R459). -/
def State.drainOne (s : State) (id : Nat) : State :=
  let s := s.drainFirst id
  if (s.task? id).any fun t => t.sbuf.head?.any fun st => st.joined then s.drainFirst id else s

def State.drainN (s : State) (id : Nat) : Nat → State
  | 0 => s
  | n + 1 => (s.drainOne id).drainN id n

/-- Drain the whole store buffer of a task (R201). -/
def State.drain (s : State) (id : Nat) : State :=
  match s.task? id with
  | none => s
  | some t => if t.sbuf.isEmpty then s else s.drainN id t.sbuf.length

/-! ### Releases and acquires (R173, R200, R201) -/

/-- Everything earlier of a task performed: its buffer drained, its stores acknowledged. -/
def State.ackAll (s : State) (id : Nat) : State := (s.drain id).flush (Pkt.storeOf id)

/-- A release's stores at a scope: at tile scope only those that bypass the L1 need their acknowledgement (R201). -/
def State.releaseStores (s : State) (id : Nat) (c : Scope) : State :=
  match c with
  | .tile => (s.drain id).flush fun p => match p.body with
      | .store _ t st => t = id && st.target.bypasses
      | _ => false
  | _ => s.ackAll id

/-- Land every XPUT of a task (a release, a fence and the quiesce wait for them: R205 note 4, R271). -/
def State.landAll (s : State) (id : Nat) : State := s.flush (Pkt.xputOf id)

/-- A release at a scope (R200, R201, R205). -/
def State.release (s : State) (id : Nat) (c : Scope) : State := (s.releaseStores id c).landAll id

/-- Does a move hold up a store or an exchange of a task? A release of the task then waits (R162, R205). -/
def State.heldStores (s : State) (id : Nat) : Bool :=
  s.packets.any fun p => (p.storeOf id || p.xputOf id) && s.stuck p

/-- The release stores of a thread (STL at module or system scope) performed, with what stands before them in its
buffer: they come before its later acquires and MWAITs (R205 note 5, R207). -/
def State.settleReleases (s : State) (id : Nat) : State :=
  match s.task? id with
  | none => s
  | some t =>
    let n := (t.sbuf.reverse.dropWhile fun x => !x.rel).length
    if n = 0 then s else s.drainN id n

/-- An acquire of a thread: at module and system scope it invalidates the tile's L1 (R173). -/
def State.acquire (s : State) (id : Nat) (c : Scope) : State :=
  match c with
  | .tile => s
  | _ =>
    let s := s.settleReleases id
    match s.task? id with
    | none => s
    | some t => if (s.tile t.last.tile).l1.isEmpty then s else s.modTile t.last.tile fun x => { x with l1 := [] }

/-! ### Loads (R389) -/

/-- A byte of a line in an L1. -/
def lineByte (x : BitVec 512) (o : Nat) : Byte := x.extractLsb' (8 * o) 8

/-- Does a list of buffered stores hold a target's byte `o`? -/
def buffered (l : List Store) (g : Target) (o : Nat) : Bool :=
  let at' (st : Store) (a c : Nat) : Bool := a ≤ c + o && (look st.bytes (c + o - a)).isSome
  l.any fun st => match st.target, g with
    | .phys a _, .phys c _ | .host a, .host c => at' st a c
    | .peer i a, .peer j c => i = j && at' st a c
    | .window k a _, .window m c _ => k = m && at' st a c
    | _, _ => false

/-- The byte that a list of buffered stores, newest last, gives a target's byte `o`. -/
def forward (l : List Store) (g : Target) (o : Nat) (b : Byte) : Byte :=
  let at' (st : Store) (a c : Nat) (b : Byte) : Byte := (look st.bytes (c + o - a)).elim b fun x => if a ≤ c + o then x else b
  l.foldl (fun b st =>
    match st.target, g with
    | .phys a _, .phys c _ | .host a, .host c => at' st a c b
    | .peer i a, .peer j c => if i = j then at' st a c b else b
    | .window k a _, .window m c _ => if k = m then at' st a c b else b
    | _, _ => b) b

/-- The 64 bytes of a line at their home. -/
def lineOf (s : State) (line : Nat) : BitVec 512 := BitVec.ofNat 512 (ofBytes (s.readKey (line * 64) 64))

/-- The byte budget of the thread's cluster grants `n` bytes of an access that leaves the tile, or the thread waits for
the next interval (R317). -/
def budget (t : Task) (g : Target) (n : Nat) : Act Unit := do
  match g with
  | .phys .. | .host _ => do
    let s ← get
    if !(s.cluster (clusterOf t.last.tile)).grants s.cycles n then holdHere
    set (s.grant t.last.tile n)
  | _ => return

/-- Read `n` bytes of a line at their home, after the earlier packets of the path; `m` bytes are granted for it. -/
def homeBytes (id : Nat) (t : Task) (va : Nat) (g : Target) (n m : Nat) : Act (List Byte) := do
  let _ ← keyOf t va g
  budget t g m
  modify fun s => s.settlePath t.last.tile id (.place t.vd id g) g n
  let k ← keyOf t va g
  let s ← get
  if k / 256 ∈ s.errored then trap 8 (BitVec.ofNat 64 va)
  return s.readKey k n

/-- A line comes into a core's own partition of its tile's L1 (R172). -/
def State.fillL1 (s : State) (p : Place) (line : Nat) : State :=
  ({ s with draws := s.draws + 1 } : State).modTile p.tile fun x =>
    { x with l1 := l1Fill x.l1 p.core line s.draws (lineOf s line), l1Err := x.l1Err.filter (· ≠ line) }

/-- Does a line's slice have no way for it (R177)? Flash has no line in it. -/
def State.bypassed (s : State) (a : Nat) : Bool :=
  (a < Config.hbmBytes || 2 ^ 70 ≤ a) && (l2Look s.l2 (a / 256)).isNone && s.l2Pinned (a / 256)

/-- A load that goes to the home of its bytes, and what it does to the L2 and the L1 on its way (R174, R175, R179): a
fill takes the line, 64 bytes, into the core's own partition; a bypass access fills nothing, nor does one that meets only
pinned ways (R177). -/
def readHome (id : Nat) (t : Task) (va : Nat) (g : Target) (ret n tier : Nat) (fill : Bool) : Act (List Byte) := do
  let s ← get
  let fills := fill && ret ≠ 3 && !(g.l1Key.any s.bypassed)
  let b ← homeBytes id t va g n (if fills then 64 else n)
  match g.l1Key with
  | some a => modify fun s =>
      let s := s.l2Demand t.vd tier a n ret false
      if fills then s.fillL1 t.last (a / 64) else s
  | none => match g with
    | .phys a _ => modify fun s => s.l2Drop (a / 256)
    | _ => pure ()
  modify fun s => s.traffic 0 0 (if fills then 2 else flits n) t.vd id t.last va 0 g { size := n }
  return b

/-- Read within one 64-byte line: the L1 first for ordinary pages and host lines, then the home, filling the L1 unless the
effective retention is bypass. A word of the L1 that holds an uncorrectable error traps (R197). -/
def readLine (id : Nat) (t : Task) (va : Nat) (g : Target) (ret n tier : Nat) : Act (List Byte) := do
  match g.l1Key with
  | some a =>
    match l1Look ((← get).tile t.last.tile).l1 (a / 64) with
    | some x =>
      if a / 64 ∈ ((← get).tile t.last.tile).l1Err then trap 8 (BitVec.ofNat 64 va)
      return (List.range n).map fun i => lineByte x (a % 64 + i)
    | none => readHome id t va g ret n tier true
  | none => readHome id t va g ret n tier false

/-- The effective retention of an access (R175). -/
def Hint.effective (h : Hint) (page : Nat) : Nat :=
  match h with
  | .dflt => page
  | .short => 1
  | .long => 2
  | .bypass => 3

/-- A thread's load of `n` bytes that lie within one 64-byte line: its own store buffer first (R201, R389); bytes that all
stand there are read nowhere else. `fresh`: read at the home (LDA at module and system scope, R390). -/
def loadPiece (id : Nat) (t : Task) (va n : Nat) (h : Hint) (fresh : Bool) : Act (List Byte) := do
  let (g, p) ← resolve id t va .load
  let ret := Hint.effective h p.ret
  let b ← if (List.range n).all fun i => buffered t.sbuf g i then pure []
    else if fresh then readHome id t va g ret n p.tier false else readLine id t va g ret n p.tier
  return (List.range n).map fun i => forward t.sbuf g i (b.getD i 0)

/-- Check an address of an access: translation and permission, and the parts of the tile window. -/
def checkAddress (id : Nat) (t : Task) (acc : Acc) (a : Nat) : Act Unit := do
  let (g, _) ← resolve id t a acc
  storable t a g

def checkAddresses (id : Nat) (t : Task) (acc : Acc) : List Nat → Act Unit
  | [] => return
  | a :: l => do
    checkAddress id t acc a
    checkAddresses id t acc l

/-- The first of a list of addresses in each 256-byte block that it touches: pages and windows are whole blocks. -/
def perBlock : List Nat → List Nat
  | [] => []
  | a :: l => a :: (perBlock l).filter fun b => b / 256 ≠ a / 256

/-- The checks of an access that come before any data error or journal entry (R342, R375), where it touches several 256-byte
blocks. -/
def checkPages (id : Nat) (t : Task) (acc : Acc) (l : List Nat) : Act Unit :=
  match (l.map (· / 256)).dedup with
  | [] | [_] => return
  | _ => checkAddresses id t acc (perBlock l)

/-- Split a run of bytes at 64-byte lines. -/
def pieces (va n : Nat) : List (Nat × Nat) :=
  let first := min n (64 - va % 64)
  if n ≤ first then [(va, n)] else [(va, first), (va + first, n - first)]

def loadPieces (id : Nat) (t : Task) (h : Hint) (fresh : Bool) : List (Nat × Nat) → Act (List Byte)
  | [] => return []
  | (va, n) :: r => do
    let b ← loadPiece id t va n h fresh
    return b ++ (← loadPieces id t h fresh r)

/-- A thread's load of up to 64 bytes: the address causes of all of it, then its parts. -/
def loadBytes (id : Nat) (t : Task) (va n : Nat) (h : Hint := .dflt) (fresh : Bool := false) : Act (List Byte) := do
  checkPages id t .load ((pieces va n).map Prod.fst)
  loadPieces id t h fresh (pieces va n)

/-- The doubleword at an address, read as an ordinary load of the thread. -/
def loadDword (id : Nat) (t : Task) (va : Nat) : Act Word := do
  return BitVec.ofNat 64 (ofBytes (← loadBytes id t va 8))

/-! ### Stores (R434) -/

/-- A thread's store of some bytes, by offset, that lie within one page (R434). To the tile window: the buffer drains, the
earlier packets of the path come first, and the entry takes the store whole or refuses it. Elsewhere: its journal entry is
reserved, and it enters the thread's store buffer (R201), of one entry with the store before it where it is `joined`. -/
def storePiece (id : Nat) (va : Nat) (bytes : List (Nat × Byte)) (h : Hint) (rel joined : Bool) : Act Unit := do
  let s ← get
  match s.task? id with
  | none => return
  | some t =>
    let (g, p) ← resolve id t va .store
    -- no byte of the store may lie in a future table (R79)
    match g, bytes.find? fun c => (s.inTable (p.pa + c.1)).isSome with
    | .phys .., some c => trap 6 (BitVec.ofNat 64 (va + c.1))
    | _, _ => pure ()
    let st : Store := { va := va, target := g, bytes := bytes, rel := rel, ret := Hint.effective h p.ret, tier := p.tier,
                        level := p.level, joined := joined }
    match g with
    | .window .. => do
      let _ ← keyOf t va g
      modify fun s => (s.drain id).settlePath t.last.tile id (.place t.vd id g) g bytes.length
      let _ ← keyOf t va g
      modify fun s => (s.perform t.vd id st).traffic 0x02 (flits bytes.length) 0 t.vd id t.last va 0 g st.op
    | _ => do
      reserve t.vd va
      budget t g bytes.length
      modify fun s => s.modTask id fun t => { t with sbuf := t.sbuf ++ [st] }

/-- A store of bytes within one page, from the first byte stored: a byte that is not stored is not addressed (R459). -/
def storeFrom (id : Nat) (va : Nat) (bytes : List (Nat × Byte)) (h : Hint) (rel joined : Bool) : Act Unit :=
  match bytes with
  | [] => return
  | (o, _) :: _ => storePiece id (va + o) (bytes.map fun c => (c.1 - o, c.2)) h rel joined

/-- A store of bytes, by rising offset: one entry of the store buffer (R459), in two parts where it crosses a 256-byte line. -/
def storeBytes (id : Nat) (va : Nat) (bytes : List (Nat × Byte)) (h : Hint := .dflt) (rel : Bool := false) : Act Unit := do
  let lim := 256 - va % 256
  let first := bytes.filter fun c => c.1 < lim
  storeFrom id va first h rel false
  storeFrom id va (bytes.filter fun c => lim ≤ c.1) h rel !first.isEmpty

/-! ### Atomics (R178, R180, R207) -/

/-- A line's copy leaves a tile's L1. -/
def State.dropCopy (s : State) (tile line : Nat) : State :=
  if (l1Look (s.tile tile).l1 line).isSome then s.modTile tile fun x => { x with l1 := l1Cut x.l1 line } else s

/-- Where an atomic of the thread acts: its buffer drained, the earlier packets of its path delivered, the line in the L2
for an ordinary page and out of it for a memory-side one (R177, R179), the location's line gone from the tile's L1
(R180). -/
def atomicAt (id : Nat) (t : Task) (va n : Nat) : Act (Target × Nat) := do
  let (g, p) ← resolve id t va .store
  let _ ← keyOf t va g
  budget t g 8
  modify fun s => (s.drain id).settlePath t.last.tile id (.place t.vd id g) g n
  let k ← keyOf t va g
  match g with
  | .phys a true => modify fun s => s.l2Drop (a / 256)
  | _ => match g.l1Key with
    | some a => modify fun s => s.l2Demand t.vd p.tier a n p.ret true
    | none => pure ()
  modify fun s => s.dropCopy t.last.tile (k / 64)
  return (g, k)

/-- The packets of an atomic (R234): the operand in the request's value, with one payload flit for each doubleword of
`data`, and the result in the answer's. -/
def State.atomicTraffic (s : State) (id : Nat) (t : Task) (va : Nat) (g : Target) (data : List Word) (x y : Word)
    (op : OpField) : State :=
  s.traffic 4 data.length 0 t.vd id t.last va x g op y data

/-- Write an atomic's result at its home. -/
def atomicWrite (vd va : Nat) (g : Target) (k n : Nat) (x : Nat) (pin : Bool := false) : Act Unit := do
  match g with
  | .phys .. => do
    modify fun s => s.journal vd va (k - k % 256) pin
  | _ => pure ()
  modify fun s => s.write (cellsAt k (toBytes n x))

/-- Read the location of an atomic at its home; an uncorrectable error traps (R197). -/
def atomicRead (va k n : Nat) : Act Nat := do
  let s ← get
  if k / 256 ∈ s.errored then trap 8 (BitVec.ofNat 64 va)
  return ofBytes (s.readKey k n)

end Sys2Proof.Machine
end

