-- ==== Sys2Proof/Machine/Reach.lean ====
section
/-! DEFINITION. The named operations over futures and groups: handles, reach counts and completion (spec/05_futures.md),
groups and barriers (R88, R89, R184). -/

namespace Sys2Proof.Machine

/-! ### Handles (R118, R119) -/

def handleOf (f : Fut) (i : Nat) : Word := BitVec.ofNat 64 (f.kind * 2 ^ 60 + f.gen * 2 ^ 44 + i * 2 ^ 20)
def hKind (h : Word) : Nat := bvBits h 63 60
def hGen (h : Word) : Nat := bvBits h 59 44
def hIndex (h : Word) : Nat := bvBits h 43 20

/-- Does a handle pass the check of R119? -/
def State.goodHandle (s : State) (vd : Nat) (h : Word) : Bool :=
  let v := s.vd vd
  let f := v.fut (hIndex h)
  1 ≤ hKind h && hKind h ≤ 5 && bvBits h 19 0 == 0 && hIndex h < v.futQuota && f.state != 0 && f.gen == hGen h &&
    f.kind == hKind h

def finalState (st : Nat) : Bool := st == 5 || st == 6 || st == 7

/-- The index of the future that a task works for, and that its SELF names. -/
def Ident.index : Ident → Nat
  | .ordinary f => f
  | .recruit f _ => f
  | .gangThread g _ _ => g

/-- The task of a device that owns an ordinary record. -/
def State.taskOf (s : State) (vd i : Nat) : Option (Nat × Task) :=
  s.tasks.find? fun x => x.2.vd = vd && x.2.ident = .ordinary i

/-- Live futures of a device, and its mode bit (R104). -/
def Vd.live (v : Vd) : Nat := (v.futs.filter fun x => x.2.state ≠ 0).length

def State.watermark (s : State) (vd : Nat) : State :=
  let v := s.vd vd
  let n := v.live
  if !v.depthFirst && 3 * v.futQuota / 4 < n then
    s.modVd vd fun v => { v with depthFirst := true, modeChanged := s.masters }
  else if v.depthFirst && n < v.futQuota / 2 then
    s.modVd vd fun v => { v with depthFirst := false, modeChanged := s.masters }
  else s

/-- Free a record: RECLAIMED (R131); tasks that wait for one run again (R82). -/
def State.freeFut (s : State) (vd i : Nat) : State :=
  let s := s.modFut vd i fun f => { f with state := 0, reach := 0, dep := 0, feeds := [] }
  (s.watermark vd).wakeWhere (fun t w => t.vd = vd && w = .record) none

/-- A free record: which one is open. The probe starts anywhere and takes the first free index after it. -/
def freeFrom (v : Vd) (i : Nat) : Nat → Option Nat
  | 0 => none
  | n + 1 => if (v.fut (i % v.futQuota)).state = 0 then some (i % v.futQuota) else freeFrom v (i + 1) n

/-- Give a new future a record of its own, or park until one frees (R82). Its generation rises on reuse (R80). -/
def newFut (vd : Nat) (f : Fut) : Act Nat := do
  let s ← get
  let v := s.vd vd
  if v.futQuota ≤ v.live then parkOn .record
  let start ← drawNat
  match freeFrom v (Config.choose start) (v.futs.length + 1) with
  | none => parkOn .record
  | some i =>
    let gen := match look v.futs i with
      | some old => (old.gen + 1) % 65536
      | none => 0
    modify fun s => (s.setFut vd i { f with gen := gen }).watermark vd
    return i

/-! ### Dooming and reach counts (R121 to R133) -/

/-- Doom a task at its home (R131). -/
def State.doomTask (s : State) (id : Nat) (cancel : Bool) : State :=
  match s.task? id with
  | none => s
  | some t =>
    if t.fdone ∧ t.ident = .ordinary t.ident.index then s else
    let s := s.setTask id { t with doomed := true, cancel := t.cancel || cancel }
    match t.ident with
    | .ordinary i => s.modFut t.vd i fun f => { f with doomed := true, cancel := f.cancel || cancel }
    | _ => s

/-- Doom every recruit of a fork, or every thread of a gang (R92, R87). -/
def State.doomAll (s : State) (vd i : Nat) (cancel : Bool) : State :=
  let s := s.modFut vd i fun f => { f with doomed := true, cancel := f.cancel || cancel }
  s.tasks.foldl (fun s x =>
    if x.2.vd = vd ∧ x.2.ident.index = i ∧ x.2.ident ≠ .ordinary i then s.doomTask x.1 cancel else s) s

/-- What a count that has fallen to zero does (R131, R132). -/
def State.reachZero (s : State) (vd i : Nat) : State :=
  let f := s.fut vd i
  if f.state = 0 then s
  else if f.kind = 1 then
    if finalState f.state then (if f.ended then s.freeFut vd i else s)
    else match s.taskOf vd i with
      | some x => s.doomTask x.1 false
      | none => s.freeFut vd i
  else if f.kind = 2 ∨ f.kind = 3 then (if finalState f.state ∧ f.ended then s.freeFut vd i else s)
  else if finalState f.state then s.freeFut vd i
  else if (s.vd vd).gangs.any (fun g => g.fut = i) then
    (s.modVd vd fun v => { v with gangs := v.gangs.filter fun g => g.fut ≠ i }).freeFut vd i
  else s.doomAll vd i false

/-- A message to the home of a record (R234), of kind 0x25 for an operation on it, with its handle, and 0x26 for its
completion, with its result, from the stop of the tile whose step it is. -/
def State.futMessage (s : State) (kind vd i : Nat) : State :=
  let a := (s.vd vd).futBase + 64 * i
  let f := s.fut vd i
  s.message kind s.cur.tile vd (if kind = 0x26 then f.result else handleOf f i) (.place vd 0 (.phys a false)) 0
    (BitVec.ofNat 64 a)

def State.raise (s : State) (vd i : Nat) : State :=
  (s.modFut vd i fun f => { f with reach := f.reach + 1 }).futMessage 0x25 vd i

/-- Lower a count. One that is zero already stays zero, and what a count of zero does is done again: R122 does not say what
a miscounted handle (R120) does then (notes/assumptions/96.md). -/
def State.lower (s : State) (vd i : Nat) : State :=
  let s := (s.modFut vd i fun f => { f with reach := f.reach - 1 }).futMessage 0x25 vd i
  if (s.fut vd i).reach = 0 then s.reachZero vd i else s

/-- Drop a handle: one that fails the check lowers nothing (R119). -/
def State.dropHandle (s : State) (vd : Nat) (h : Word) : State :=
  if h ≠ 0 ∧ s.goodHandle vd h then s.lower vd (hIndex h) else s

/-- Write a handle register of a task: the new reference stands before the old one is dropped (R124). -/
def State.putH (s : State) (id : Nat) (r : HReg) (h : Word) : State :=
  match s.task? id with
  | none => s
  | some t => (s.setTask id { t with ctx := t.ctx.setH r h }).dropHandle t.vd (t.ctx.getH r)

/-- Lower a child's dependency count as a completion does; a count already zero stays (R107, R123). -/
def State.feedChild (s : State) (vd c : Nat) : State :=
  let f := s.fut vd c
  if f.dep = 0 ∨ f.state = 0 then s else
  let s := s.modFut vd c fun f => { f with dep := f.dep - 1 }
  if f.dep = 1 ∧ f.state = 1 ∧ ¬ f.doomed then
    match s.taskOf vd c with
    | some x => s.makeReady x.1 none
    | none => s
  else s

/-- Write a future's final state (R131, R138): satisfy its feeding edges, wake its waiters, drop the permanent count of
DETACH. -/
def State.complete (s : State) (vd i st : Nat) (result : Word) (cause detail : Nat) : State :=
  let f := s.fut vd i
  if f.state = 0 ∨ finalState f.state then s else
  let s := (s.setFut vd i { f with state := st, result := if st = 5 then result else 0, cause := cause,
                                   detail := detail, dep := 0, feeds := [], doomed := false }).futMessage 0x26 vd i
  let s := f.feeds.foldl (fun s c => (s.feedChild vd c).lower vd i) s
  let s := s.wakeWhere (fun t w => t.vd = vd && w = .future i) none
  if f.detach then s.lower vd i else s

/-- The work of a future is over: it is freed once nothing reaches it. -/
def State.closeFut (s : State) (vd i : Nat) : State :=
  let s := s.modFut vd i fun f => { f with ended := true }
  if (s.fut vd i).reach = 0 then s.freeFut vd i else s

/-! ### Groups and barriers (R88, R89, R184, R211, R383) -/

def Group.member (g : Group) (id : Nat) : Bool := g.members.any fun x => x.1 = id
def Group.hasArrived (g : Group) (id : Nat) : Bool := g.arrived.any fun x => x.1 = id

/-- The status word of R89; the count of departures is kept modulo 2^16 (notes/assumptions/71.md). -/
def Group.status (g : Group) : Word :=
  BitVec.ofNat 64 (g.ndep % 2 ^ 16 * 2 ^ 16 + (if g.reclaimed then 8 else 0) + (if g.fault then 4 else 0) +
    (if g.exit then 2 else 0) + 1)

/-- Have all members arrived, and landed the XPUTs they issued before they arrived, and members reclaimed since the last
firing all of theirs (R137)? -/
def State.canFire (s : State) (vd n : Nat) : Bool :=
  let g := s.group vd n
  !g.members.isEmpty && (g.members.all fun m => g.hasArrived m.1) && !(s.packets.any fun p =>
    match p.body with
    | .xput k v t _ _ _ => v = vd && (g.arrived ++ g.gone).any fun a => a.1 = t && k < a.2
    | _ => false)

/-- Flip the banks of a task's window (R184). A monitor armed on an address of it stays armed on that address (R212). -/
def State.flip (s : State) (id : Nat) : State :=
  match (s.task? id).bind fun t => t.window with
  | none => s
  | some w =>
    let s := match w.tile with
      | some n => s.moveArms (w.key n w.off false) (w.key n w.off true) w.size
      | none => s
    s.modTask id fun t => { t with window := some { w with bank := 1 - w.bank } }

/-- The packet of a member's arrival, or of the firing to a member (R234). -/
def State.barrierMessage (s : State) (vd n id : Nat) (arrival : Bool) : State :=
  match s.task? id with
  | none => s
  | some t =>
    let home := Config.groupStop vd n % 1024
    let group : Word := BitVec.ofNat 64 n
    if arrival then s.message 0x26 t.last.tile vd group (.stop home) else s.message 0x26 home vd group (.stop t.last.tile)

/-- Fire the episode: flip the windows, then wake the members (R184). -/
def State.fire (s : State) (vd n : Nat) : State :=
  let g := s.group vd n
  let s := g.members.foldl (fun s m => (s.flip m.1).barrierMessage vd n m.1 false) s
  let s := s.setGroup vd n
    { g with arrived := [], ndep := 0, exit := false, fault := false, reclaimed := false, gone := [] }
  s.tasks.foldl (fun s x =>
    if x.2.vd = vd ∧ x.2.status = .blocked (.barrier n) then s.give x.1 g.status else s) s

def State.tryFire (s : State) (vd n : Nat) : State := if s.canFire vd n then s.fire vd n else s

/-- How a member leaves (R89). -/
inductive Departure where | exit | fault | reclaimed
  deriving DecidableEq, Repr

/-- The member after `id` in a round's order that has not departed. -/
def Round.after (r : Round) (id : Nat) : Option Nat :=
  (r.order.dropWhile (· ≠ id)).tail.find? fun m => !(m ∈ r.gone)

/-- A message on its way to a member of a round. -/
def Pkt.isFor (vd n round id : Nat) (p : Pkt) : Bool :=
  match p.body with
  | .txchg v g r d _ => v = vd && g = n && r = round && d = id
  | _ => false

/-- Take a departing member out of a round it has not sent in: a message that it holds, or that is on its way to it,
passes on, or is discarded with a record of kind 5 (R448). -/
def State.leaveRound (s : State) (vd n id lid : Nat) (r : Round) : State :=
  if ¬ id ∈ r.order ∨ id ∈ r.sent ∨ id ∈ r.gone then s else
  let r1 := { r with gone := id :: r.gone, msgs := cut r.msgs id }
  let put1 (s : State) (r : Round) : State :=
    let g := s.group vd n
    s.setGroup vd n { g with rounds := g.rounds.map fun q => if q.n = r.n then r else q }
  let flying := s.packets.any (Pkt.isFor vd n r.n id)
  match r1.after id with
  | some d =>
    let s := if flying then { s with packets := s.packets.map fun p => match p.body with
      | .txchg v g k _ m => if p.isFor vd n r.n id then { p with body := .txchg v g k d m } else p
      | _ => p } else s
    match look r.msgs id with
    | some m => put1 s { r1 with msgs := put r1.msgs d m }
    | none => put1 s r1
  | none =>
    let s := if flying then { s with packets := s.packets.filter fun p => !p.isFor vd n r.n id } else s
    if flying || (look r.msgs id).isSome then (put1 s r1).noticeOrDrop vd 5 lid else put1 s r1

/-- Rounds in which every member has sent or departed are over. -/
def Group.prune (g : Group) : Group :=
  { g with rounds := g.rounds.filter fun r => !(r.order.all fun m => m ∈ r.sent || m ∈ r.gone) }

/-- The logical tile on which a task last ran. -/
def State.lidOf (_ : State) (t : Task) : Nat := t.lid

/-- A member leaves a group; a group with no member is gone (R88, R89, R383). -/
def State.depart (s : State) (vd n id lid : Nat) (how : Departure) : State :=
  let g := s.group vd n
  if !g.member id then s else
  let s := g.rounds.foldl (fun s r => s.leaveRound vd n id lid r) s
  let g := (s.group vd n).prune
  let counts := !g.hasArrived id
  let g := { g with
    members := g.members.filter fun m => m.1 ≠ id
    arrived := g.arrived.filter fun a => a.1 ≠ id
    ndep := if counts then g.ndep + 1 else g.ndep
    exit := g.exit || (counts && how == .exit)
    fault := g.fault || (counts && how == .fault)
    reclaimed := g.reclaimed || (counts && how == .reclaimed)
    gone := if how == .reclaimed && s.packets.any (Pkt.xputOf id) then (id, s.nextXput) :: g.gone else g.gone }
  (s.setGroup vd n g).tryFire vd n

/-- A task leaves every group it belongs to. -/
def State.departAll (s : State) (vd id lid : Nat) (how : Departure) : State :=
  (s.vd vd).groups.foldl (fun s g => s.depart vd g.1 id lid how) s

end Sys2Proof.Machine
end

