-- ==== Sys2Proof/Machine/Commands.lean ====
section
/-! DEFINITION. Tile commands in their queues (spec/04 R115 to R117), how an engine reaches memory (spec/13 R256; spec/24
R438; spec/11 R234), and the panels of a subscription (spec/08 R185 to R190; spec/16 R298). -/

namespace Sys2Proof.Machine

/-! ### How an engine reaches memory -/

/-- Where a byte of a command's operand lies now: through the role map and the apertures for windows, through the pins
for pages; none where the entry refuses it (R143, R438). -/
def State.engineTarget (s : State) (c : Cmd) (va : Nat) : Option (Target × Nat) :=
  if Config.windowBase ≤ va then
    if va < Config.windowBase + 2 ^ 36 then
      let lid := (va - Config.windowBase) / 2 ^ 24
      let off := va % 2 ^ 24
      (s.windowKey c.vd (s.task? c.task) lid off).map fun k =>
        (.window lid off ((s.task? c.task).any fun t => t.owns lid off), k)
    else if Config.apertureBase ≤ va ∧ va < Config.apertureBase + 2 ^ 40 then
      match (s.vd c.vd).aperture (va - Config.apertureBase) with
      | none => none
      | some d =>
        let r := bvBits d 127 64 + (va - Config.apertureBase) % 2 ^ 36
        if d.getLsbD 3 then some (.host r, hostKey r) else some (.peer (bvBits d 31 16) r, peerKey (bvBits d 31 16) r)
    else none
  else
    match c.pins.find? fun x => x.covers c.vd va with
    | some x =>
      let a := pteFrame x.leaf + va % pageSize x.level
      some (.phys a (pteMs x.leaf), a)
    | none => none

/-- May an engine write there (an aperture needs W)? -/
def State.engineMayWrite (s : State) (c : Cmd) (va : Nat) : Bool :=
  if Config.apertureBase ≤ va ∧ va < Config.apertureBase + 2 ^ 40 then
    match (s.vd c.vd).aperture (va - Config.apertureBase) with
    | some d => d.getLsbD 2
    | none => false
  else true

/-- A byte as a command reads it at its home: 2 where its line holds an uncorrectable error, 3 where it is refused. -/
def State.engineByte (s : State) (c : Cmd) (va : Nat) : Except Nat (Nat × Byte) :=
  match s.engineTarget c va with
  | none => .error 3
  | some (_, k) => if k / 256 ∈ s.errored then .error 2 else .ok (k, s.byteAt k)

/-- `n` bytes from an address up, modulo 2^64. -/
def State.engineBytes (s : State) (c : Cmd) (va n : Nat) : List (Except Nat (Nat × Byte)) :=
  (List.range n).map fun i => s.engineByte c ((va + i) % 2 ^ 64)

/-- The detail that a list of reads gives: 2 for an error, else 3 for a refusal, else 0. -/
def detailOf {α : Type} (l : List (Except Nat α)) : Nat :=
  l.foldl (fun d x => match x with | .error e => worse d e | .ok _ => d) 0

/-- Bytes of a list of reads, zero where a read failed. -/
def plainBytes (l : List (Except Nat (Nat × Byte))) : List Byte :=
  l.map fun x => match x with | .ok b => b.2 | .error _ => 0

/-- The 256-byte lines of a range, each by its first address in the range and its bytes there. -/
def rangeLines (va n : Nat) : List (Nat × Nat) :=
  if n = 0 then [] else
  (List.range ((va + n - 1) / 256 - va / 256 + 1)).map fun i =>
    let lo := max va ((va / 256 + i) * 256)
    (lo, min (va + n) ((va / 256 + i + 1) * 256) - lo)

/-- The page of a command's operand byte: its retention and its tier (R170). -/
def Cmd.page (c : Cmd) (va : Nat) : Nat × Nat :=
  match c.pins.find? fun x => x.covers c.vd va with
  | some x => (pteRet x.leaf, pteTier x.leaf)
  | none => (0, 0)

/-- Where an engine's packets leave from: its tile, as source 4 of the stop; a quay streamer's from the stop of a slice of its
die (R232). -/
def enginePlace (tile : Nat) : Place := ⟨tile, 4, 0⟩
def State.streamerPlace (s : State) (n : Nat) : Place := ⟨s.streamerStop n, 7, 0⟩

/-- Does a command of the copy queue read and write memory by R438? -/
def Instr.copies : Instr → Bool
  | .tcopy .. | .tfill .. | .tgather .. | .tscatter .. => true
  | _ => false

/-- The retention of a command's access: of a copy command default for an A operand of kind L2, else bypass (R438); of
another the page's. -/
def Cmd.retention (c : Cmd) (va : Nat) (l2 : Bool) : Nat :=
  if Instr.copies c.instr then (if l2 then 0 else 3) else (c.page va).1

/-- The earlier packets of the paths to a range are delivered, so that an engine observes the earlier stores of its tile
(R115, R198, R210, R241). -/
def State.engineSettle (s : State) (tile : Nat) (c : Cmd) (va n : Nat) : State :=
  (rangeLines va n).foldl (fun s r =>
    match s.engineTarget c (r.1 % 2 ^ 64) with
    | none => s
    | some (g, _) => s.settlePath tile c.task (.place c.vd c.task g) g r.2) s

/-- Where a flash byte's channel is (R23). -/
def flashChannel (a : Nat) : Nat := (a - Config.flashBase) / Config.channelBytes

/-- Does a quay streamer, by number, stand at the memory of a location? At its stack, whose base die carries it (R22), or at
the flash channels of its die (R23); other memory it reaches over the network, another die's over the bridges. -/
def streamerAt (n : Nat) : Target → Bool
  | .phys a _ => if Config.flashBase ≤ a then flashChannel a / 8 = n / 8 else a / Config.stackBytes = n / 2
  | _ => false

/-- An engine's read of a range goes to the homes of its lines: each passes its slice, a line of host memory as an ordinary
one (R174, R179, R331), its bytes are granted (R317) and its packets leave (R234), of the quay streamer `reader` where one
reads that does not stand at the memory. -/
def State.engineFetch (s : State) (tile : Nat) (c : Cmd) (va n : Nat) (l2 : Bool := false) (reader : Option Nat := none) :
    State :=
  (rangeLines va n).foldl (fun s r =>
    match s.engineTarget c (r.1 % 2 ^ 64) with
    | none => s
    | some (g, _) =>
      let ret := c.retention (r.1 % 2 ^ 64) l2
      let s := match g with
        | .phys a true => (s.l2Drop (a / 256)).grant tile r.2
        | _ => match g.l1Key with
          | some a => (s.l2Demand c.vd (c.page (r.1 % 2 ^ 64)).2 a r.2 ret false).grant tile r.2
          | none => s
      let from_ := (reader.map s.streamerPlace).getD (enginePlace tile)
      if reader.any fun n => streamerAt n g then s
      else s.traffic 0 0 (flits r.2) c.vd c.task from_ (r.1 % 2 ^ 64) 0 g { size := r.2 })
    (s.engineSettle tile c va n)

/-- An engine reads a range. -/
def State.engineRead (s : State) (tile : Nat) (c : Cmd) (va n : Nat) (l2 : Bool := false) (reader : Option Nat := none) :
    List (Except Nat (Nat × Byte)) × State :=
  let s := s.engineFetch tile c va n l2 reader
  (s.engineBytes c va n, s)

/-- The store that an engine makes of bytes, by offset from an address, that lie within one 256-byte line; none where the
home refuses it. -/
def State.engineStore (s : State) (c : Cmd) (va : Nat) (bytes : List (Nat × Byte)) : Option Store :=
  if !s.engineMayWrite c va then none else
  (s.engineTarget c va).map fun x =>
    { va := va, target := x.1, bytes := bytes, ret := c.retention va false, tier := (c.page va).2,
             level := ((c.pins.find? fun x => x.covers c.vd va).map fun x => x.level).getD 0 }

/-- An engine write packet from a place is performed at once: the earlier packets of its path first, then the packet, whole
(R241, R249). The answer is 3 where the home refuses it. -/
def State.engineLine (s : State) (tile : Nat) (from_ : Place) (c : Cmd) (va : Nat) (bytes : List (Nat × Byte)) :
    State × Nat :=
  if bytes.isEmpty then (s, 0) else
  match s.engineStore c va bytes with
  | none => (s, 3)
  | some st =>
    let s := s.settlePath from_.tile c.task (.place c.vd c.task st.target) st.target 256
    let s := (s.perform c.vd c.task st).grant tile bytes.length
    (s.traffic 6 (flits bytes.length) 0 c.vd c.task from_ va 0 st.target st.op, 0)

/-- An engine write packet leaves for its home. -/
def State.enginePost (s : State) (tile : Nat) (c : Cmd) (va : Nat) (bytes : List (Nat × Byte)) : State × Nat :=
  if bytes.isEmpty then (s, 0) else
  match s.engineStore c va bytes with
  | none => (s, 3)
  | some st =>
    ((s.grant tile bytes.length).send 6 (flits bytes.length) tile 4 c.vd (BitVec.ofNat 64 va) 0
      (.place c.vd c.task st.target) (.engine c.vd c.id st) st.op, 0)

/-- Split bytes by offset at the 256-byte lines of their addresses: (first address, bytes from it). -/
def linesOf (va : Nat) (bytes : List (Nat × Byte)) : List (Nat × List (Nat × Byte)) :=
  ((bytes.map fun b => (va + b.1) % 2 ^ 64 / 256).dedup).map fun l =>
    (l * 256, bytes.filterMap fun b =>
      let a := (va + b.1) % 2 ^ 64
      if a / 256 = l then some (a % 256, b.2) else none)

/-- Bytes by offset from an address, line by line, each handed to `f`. -/
def State.byLines (s : State) (va : Nat) (bytes : List (Nat × Byte))
    (f : State → Nat → List (Nat × Byte) → State × Nat) : State × Nat :=
  (linesOf va bytes).foldl (fun r l =>
    let first := (l.2.map (·.1)).foldl min 255
    let (s, d) := f r.1 (l.1 + first) (l.2.map fun b => (b.1 - first, b.2))
    (s, worse r.2 d)) (s, 0)

/-- Write bytes by offset from an address: at once, or by packets that leave. -/
def State.engineWrite (s : State) (tile : Nat) (c : Cmd) (va : Nat) (bytes : List (Nat × Byte)) : State × Nat :=
  s.byLines va bytes fun s a l => s.engineLine tile (enginePlace tile) c a l
def State.enginePosts (s : State) (tile : Nat) (c : Cmd) (va : Nat) (bytes : List (Nat × Byte)) : State × Nat :=
  s.byLines va bytes fun s a l => s.enginePost tile c a l

/-! ### Commands in their queues -/

/-- Every command of the module: in a core's queues, or saved with its task, un-started or a subscription that a pre-emption
has paused. -/
def State.commands (s : State) : List Cmd :=
  (s.tiles.flatMap fun x => x.2.cores.toList.flatMap Core.cmds) ++
  (s.tasks.flatMap fun x => match x.2.saved with
    | some sv => sv.cmds.map (·.2) ++ sv.sub.toList.map (·.cmd)
    | none => [])

/-- The numbers of a set of commands and of every command bound to one of them. -/
def bindClosure (l : List Cmd) (ids : List Nat) : Nat → List Nat
  | 0 => ids
  | n + 1 =>
    let more := (l.filter fun c => !(c.id ∈ ids) && c.preds.any (· ∈ ids)).map (·.id)
    if more.isEmpty then ids else bindClosure l (ids ++ more) n

/-- Return the journal entries that a command reserved and did not use (R194). -/
def State.unreserve (s : State) (c : Cmd) : State :=
  c.reserved.foldl (fun s x =>
    s.modVd c.vd fun v =>
      match look v.regions x.1 with
      | some r => { v with regions := put v.regions x.1 { r with reserved := r.reserved.erase x.2 } }
      | none => v) s

/-- A command is gone: it pins no line, and its future, if it has one, takes its final state and its detail, after the
stores that the task has made before its push (R213). -/
def State.settleCmd (s : State) (c : Cmd) (st detail : Nat) : State :=
  let s := (s.unreserve c).l2Unpin c.id
  match c.fut with
  | some i => ((s.flush (Pkt.storeOf c.task)).complete c.vd i st 0 0 detail).closeFut c.vd i
  | none => s

/-- Take the commands of these numbers out of every queue; a full queue's waiters run again (R115). -/
def State.removeCmds (s : State) (ids : List Nat) : State :=
  let keep (l : List Cmd) : List Cmd := l.filter fun c => !(c.id ∈ ids)
  let f (c : Core) : Core :=
    { c with matrix := keep c.matrix, copy := keep c.copy, collective := keep c.collective, stream := keep c.stream }
  let s : State := { s with tiles := s.tiles.map fun x => (x.1, { x.2 with cores := x.2.cores.map f }) }
  let g (t : Task) : Task :=
    { t with saved := t.saved.map fun sv => { sv with cmds := sv.cmds.filter fun c => !(c.2.id ∈ ids) } }
  let s : State := { s with tasks := s.tasks.map fun x => (x.1, g x.2) }
  s.wakeWhere (fun t w =>
    match w with
    | .engine q => ((s.core t.last.tile t.last.core).queue q).length < 16
    | _ => false) none

/-- Drop un-started commands with all their bound successors; their futures become CANCELLED (R117, R132, R136). -/
def State.dropCmds (s : State) (ids : List Nat) : State :=
  let l := s.commands
  let all := bindClosure l ids l.length
  let gone := l.filter fun c => c.id ∈ all
  gone.foldl (fun s c => s.settleCmd c 6 0) (s.removeCmds all)

/-- A command has ended: it leaves its queue and its future becomes DONE with its detail, or CANCELLED where FCANCEL
reached it after its start (R127, R132). -/
def State.finishCmd (s : State) (c : Cmd) (detail : Nat) : State :=
  (s.removeCmds [c.id]).settleCmd c (if c.fut.any fun i => (s.fut c.vd i).cancel then 6 else 5) detail

/-! ### Panels and berths (R185 to R190) -/

/-- CRC-32C, bit by bit, of bytes taken from the first. -/
def crcStep (c : BitVec 32) : Nat → BitVec 32
  | 0 => c
  | n + 1 => crcStep (if c.getLsbD 0 then (c >>> 1) ^^^ 0x82F63B78 else c >>> 1) n

def crc32c (l : List Byte) : BitVec 32 :=
  ~~~(l.foldl (fun c b => crcStep (c ^^^ b.setWidth 32) 8) 0xFFFFFFFF)

/-- Bytes of a panel (R185) and its place in a ring. -/
def panelBytes : Nat := 6400
def berthOffset (b : Nat) : Nat := 256 + panelBytes * b

/-- The key of a byte of a task's window, in its live bank, by its offset in the window. -/
def State.ringKey (s : State) (task off : Nat) : Option Nat :=
  match (s.task? task).bind fun t => t.window with
  | some w => w.tile.map fun n => w.key n (w.off + off) false
  | none => none

/-- A berth-state word, and its state (R187). -/
def State.berthWord (s : State) (task ring b : Nat) : Option Word :=
  (s.ringKey task (ring + 8 * b)).map s.dwordAt
def berthState (w : Word) : Nat := bvBits w 2 0

/-- Write a berth-state word as a compare-and-swap from a state does: nothing where it holds another state (R188). -/
def State.berthMove (s : State) (task ring b from_ : Nat) (f : Word → Word) : State :=
  match s.ringKey task (ring + 8 * b), s.berthWord task ring b with
  | some k, some w => if berthState w = from_ then s.writeDword k (f w) else s
  | _, _ => s

/-- The word with another state. -/
def withState (n : Nat) (w : Word) : Word := (w &&& ~~~7) ||| BitVec.ofNat 64 n

/-- The address of a byte of a task's window, by its offset there (R159). -/
def State.ringAddress (s : State) (task off : Nat) : Nat :=
  match (s.task? task).bind fun t => t.window with
  | some w => Config.windowBase + w.lid * 2 ^ 24 + w.origOff + off
  | none => 0

/-- Write a panel into its berth, 256 bytes at a time, each in an engine write of the subscription's quay streamer (R234). -/
def State.panelWrite (s : State) (u : Sub) (b : Nat) (l : List Byte) : State :=
  let off := u.ring + berthOffset b
  match s.ringKey u.cmd.task off with
  | some k => (List.range 25).foldl (fun s i =>
      (s.write (cellsAt (k + 256 * i) ((l.drop (256 * i)).take 256))).traffic 6 8 0 u.cmd.vd u.cmd.task
        (s.streamerPlace u.streamer) (s.ringAddress u.cmd.task off + 256 * i) 0 (.window 0 0 true) { size := 256 }) s
  | none => s

/-- The flash channels that a subscription's panel i lies in (R23). -/
def State.panelChannels (s : State) (u : Sub) (i : Nat) : List Nat :=
  ((rangeLines (u.src + panelBytes * i) panelBytes).filterMap fun r => match s.engineTarget u.cmd (r.1 % 2 ^ 64) with
    | some (.phys a _, _) => if Config.flashBase ≤ a then some (flashChannel a) else none
    | _ => none).dedup

/-- Does the berth of the panel in flight still hold FILLING? Where it holds anything else, the streamer waits (R188). -/
def State.fillWaits (s : State) (u : Sub) : Bool :=
  match u.filling with
  | some i => (s.berthWord u.cmd.task u.ring (i % u.berths)).any fun w => berthState w ≠ 1
  | none => false

/-- Does the panel in flight wait at a flash channel of another die, which serves its own die's quay streamers first (R23)? -/
def State.fillYields (s : State) (u : Sub) : Bool :=
  u.filling.any fun i =>
    let far := (s.panelChannels u i).filter fun n => n / 8 ≠ u.streamer / 8
    !far.isEmpty && s.tiles.any fun x => x.2.cores.toList.any fun k => k.sub.any fun w =>
      !s.fillWaits w && w.filling.any fun j => (s.panelChannels w j).any fun n => n / 8 = w.streamer / 8 && n ∈ far

/-- The panel in flight reaches FULL (R188, R298): its bytes, its sequence number and its status. It observes the stores
that the pushing thread made before the push (R210). What stands in the bytes of an errored line is open. A byte that its
home refuses, of a panel that lies neither in HBM nor in flash, gives status 1 as one of an errored line does: the spec says
nothing of it (notes/assumptions/101.md). -/
def State.fillDone (s : State) (tile core : Nat) : State :=
  match (s.core tile core).sub with
  | none => s
  | some u =>
    match u.filling with
    | none => s
    | some i =>
      let b := i % u.berths
      let s := s.flush (Pkt.storeOf u.cmd.task)
      let (reads, s) := s.engineRead tile u.cmd (u.src + panelBytes * i) panelBytes false (some u.streamer)
      let d := s.draws
      let l := ((reads.zipIdx).map fun (x : Except Nat (Nat × Byte) × Nat) => match x.1 with
        | .ok y => y.2
        | .error _ => (Config.free (d + x.2)).setWidth 8)
      let bad := detailOf reads ≠ 0
      let crc := ofBytes (l.drop 0x18FC)
      let status := if bad then 1 else if crc ≠ 0 ∧ (crc32c (l.take 0x18FC)).toNat ≠ crc then 2 else 0
      let seq := ofBytes ((l.drop 0x18C0).take 4)
      let s := if bad then { s with draws := d + panelBytes } else s
      let s := s.panelWrite u b l
      let s := s.berthMove u.cmd.task u.ring b 1 fun w =>
        (w &&& 0xFFFFF0F8) ||| BitVec.ofNat 64 (seq * 2 ^ 32 + status * 2 ^ 8 + 2)
      s.modCore tile core fun c => { c with sub := some { u with
        filling := none, next := i + 1, detail := if status = 0 then u.detail else 2 } }

/-- The panel that a berth holds: the last of its residue that has been filled. -/
def Sub.panelIn (u : Sub) (b : Nat) : Option Nat :=
  ((List.range u.next).filter fun i => i % u.berths = b).getLast?

/-- Does a berth of a ring hold DRAINING? -/
def State.isDraining (s : State) (task ring b : Nat) : Bool :=
  (s.berthWord task ring b).any fun w => berthState w = 4

/-- A drain with the pull flag: the panel goes back to the address it came from, in engine writes of the quay streamer
(R234), but for bytes that cannot be read or written, and the berth is EMPTY (R188, R190, R197). Such bytes do not change
the detail of the subscription, which R444 derives from its panels alone (notes/assumptions/102.md). -/
def State.pullPanel (s : State) (tile core : Nat) (u : Sub) (b i : Nat) : State :=
  match s.ringKey u.cmd.task (u.ring + berthOffset b) with
  | none => s
  | some k =>
    let l := ((s.readKey k panelBytes).zipIdx.filter fun x => !((k + x.2) / 256 ∈ s.errored)).map fun x => (x.2, x.1)
    let s := (s.byLines (u.src + panelBytes * i) l fun s a l =>
      s.engineLine tile (s.streamerPlace u.streamer) u.cmd a l).1
    let s := s.berthMove u.cmd.task u.ring b 4 (withState 0)
    s.modCore tile core fun c => { c with sub := some { u with drained := u.drained + 1 } }

/-- The drains of a subscription that is to end: with the pull flag no berth is left in DRAINING (R445). -/
def State.pullAll (s : State) (tile core : Nat) : State :=
  (List.range (((s.core tile core).sub.map fun u => u.berths).getD 0)).foldl (fun s b =>
    match (s.core tile core).sub with
    | some u =>
      match (if u.pull && s.isDraining u.cmd.task u.ring b then u.panelIn b else none) with
      | some i => s.pullPanel tile core u b i
      | none => s
    | none => s) s

/-- A subscription that is over: its command completes, and the TUNSUBs that waited for it. -/
def State.settleSub (s : State) (u : Sub) : State :=
  let s := s.finishCmd u.cmd u.detail
  -- a TUNSUB's stores come before its completion (R213)
  let s := if u.waiters.isEmpty then s else s.flush fun p => match p.body with
    | .store v _ _ => v = u.cmd.vd
    | _ => false
  u.waiters.foldl (fun s i =>
    (s.complete u.cmd.vd i (if (s.fut u.cmd.vd i).cancel then 6 else 5) 0 0 0).closeFut u.cmd.vd i) s

/-- A running subscription ends (R190, R444, R445). -/
def State.endSub (s : State) (tile core : Nat) : State :=
  match (s.core tile core).sub with
  | none => s
  | some u => (s.modCore tile core fun c => { c with sub := none }).settleSub u

/-- The subscriptions of a task end without writing a future: for a device that is being destroyed (R329). -/
def State.muteSubs (s : State) (id : Nat) : State :=
  let mute (u : Sub) : Sub := if u.cmd.task = id then { u with cmd := { u.cmd with fut := none }, waiters := [] } else u
  let s : State := { s with tiles := s.tiles.map fun x => (x.1, { x.2 with cores := x.2.cores.map fun k =>
    { k with sub := k.sub.map mute, paused := k.paused.map mute } }) }
  s.modTask id fun t => { t with saved := t.saved.map fun sv => { sv with sub := sv.sub.map mute } }

/-- The subscriptions that a core runs or keeps waiting for a task end. -/
def State.endSubsAt (s : State) (id tile core : Nat) : State :=
  let s := match (s.core tile core).sub with
    | some u => if u.cmd.task = id then ((s.fillDone tile core).pullAll tile core).endSub tile core else s
    | none => s
  let mine := (s.core tile core).paused.filter fun u => u.cmd.task = id
  if mine.isEmpty then s else
  mine.foldl State.settleSub (s.modCore tile core fun c => { c with paused := c.paused.filter fun u => u.cmd.task ≠ id })

/-- The subscriptions of an ended task end as TUNSUB ends one, after the panel in flight, and before its window is freed
(R444). A panel whose berth does not hold FILLING goes into its berth and leaves the word as it is
(notes/assumptions/72.md). -/
def State.endSubs (s : State) (id : Nat) : State :=
  let s := s.tiles.foldl (fun s x => (List.range 4).foldl (fun s c => s.endSubsAt id x.1 c) s) s
  match (s.task? id).bind fun t => t.saved.bind fun sv => sv.sub with
  | some u => (s.modTask id fun t => { t with saved := t.saved.map fun sv => { sv with sub := none } }).settleSub u
  | none => s

/-- Has a command begun? A restored subscription that waits for the core's running one has (R273). -/
def State.begun (s : State) (c : Cmd) : Bool :=
  c.started || s.tiles.any fun x => x.2.cores.toList.any fun k => k.paused.any fun u => u.cmd.id = c.id

end Sys2Proof.Machine
end

