-- ==== Sys2Proof/Machine/Ops.lean ====
section
/-! DEFINITION. The named operations over tasks: parking (R72), the end of a task (R78, R125), taking an exception and
returning from one (R266, R268), page faults (R258 to R261). -/

namespace Sys2Proof.Machine

/-! ### Parking (R72, R272) -/

/-- The 2 KiB that parking writes (R272), as doublewords by offset. -/
def Ctx.image (c : Ctx) (word : Nat) : List (Nat × Byte) :=
  let dw (off : Nat) (l : List Nat) : List (Nat × Byte) := cellsAt off (l.flatMap (toBytes 8))
  let gs := (List.range 23).map fun i => (c.getG (BitVec.ofNat 5 (i + 1))).toNat
  let ports := (List.range 8).flatMap fun i =>
    let p := c.port i
    [p.bound.toNat + (if p.latch.isSome then 2 ^ 32 else 0), (p.latch.getD 0).toNat]
  dw 0 gs ++ dw 0xB8 [c.pc.toNat] ++ dw 0xC0 [c.fctl.toNat, c.fstat.toNat] ++
  dw 0xD0 [c.tcause.toNat, c.tval.toNat, c.tepc.toNat, c.tstatus.toNat] ++ dw 0xF0 [word] ++
  dw 0x100 (c.h.toList.map (·.toNat)) ++ dw 0x180 ports ++
  cellsAt 0x200 ((List.range 7).flatMap fun i => toBytes 4 (c.getM (BitVec.ofNat 3 (i + 1))).toNat) ++
  cellsAt 0x400 (c.v.toList.flatMap fun x => toBytes 32 x.toNat)

/-- Write the registers of a task to its context area, as writes at its home (R212). The word at 0x00F0 is 0x20 after a
pre-emption (R272). -/
def State.saveCtx (s : State) (t : Task) (word : Nat) : State :=
  match t.context with
  | none => s
  | some a =>
    let cells := ((t.ctx.image word).filter fun c => c.2 ≠ 0).map fun c => (a + c.1, c.2)
    s.replaceRange a 0x800 cells

/-- A page fault that a resumed instruction meets keeps what its wake handed it. -/
def Wait.keeps : Wait → Bool
  | .fault .. | .ring _ => true
  | _ => false

/-- Park a task: registers to its context area, future BLOCKED, thread idle, bound to its core (R72, R98). -/
def State.park (s : State) (id : Nat) (w : Wait) : State :=
  match s.task? id with
  | none => s
  | some t =>
    let s := s.saveCtx t 0
    let s := s.setTask id { t with status := .blocked w, home := clusterOf t.last.tile,
                                   bound := some (t.last.tile, t.last.core),
                                   woke := if Wait.keeps w then t.woke else none, tinv := none, heldTill := 0,
                                   fault := if Wait.keeps w then t.fault else none,
                                   prio := t.descPrio, extTable := [] }
    s.setFutState t 4

/-! ### Where a task fits -/

/-- The windows that lie in a tile's banks, as (offset, size). -/
def State.windows (s : State) (tile : Nat) : List (Nat × Nat) :=
  s.tasks.filterMap fun x =>
    match x.2.window with
    | some w => if w.tile = some tile then some (w.off, w.size) else none
    | none => none

/-- The lowest offset at which a window fits: 0 or the end of a window, all multiples of 256 (R248). -/
def lowestFit (l : List (Nat × Nat)) (size : Nat) : Option Nat :=
  let ok (o : Nat) : Bool := o + size ≤ Config.bankBytes && l.all fun w => o + size ≤ w.1 || w.1 + w.2 ≤ o
  let cands := (0 :: l.map fun w => w.1 + w.2).filter ok
  cands.foldl (fun best o => match best with
    | none => some o
    | some b => some (min b o)) none

/-- Is a thread's place taken by a task? -/
def Status.holds (p : Place) : Status → Bool
  | .running q | .saving q => p = q
  | .stopping (some q) => p = q
  | _ => false

def State.isIdle (s : State) (p : Place) : Bool := !(s.tasks.any fun x => x.2.status.holds p)

/-- The threads of a tile in order. -/
def placesOf (tile : Nat) : List Place := (List.range 16).map fun i => ⟨tile, i / 4, i % 4⟩

/-- Does a device's compute role hold the tile, and may tasks be placed on it? A tile that is moving takes none. -/
def State.computes (s : State) (vd tile : Nat) : Bool :=
  let t := s.tile tile
  match t.owner with
  | some (v, l) => v = vd && t.role = 1 && !t.dark && (s.entry vd l).role = 1 && (s.entry vd l).state != 2
  | none => false

/-- The partition and the windows that a task brings: may it run on this thread (R72, R99, R270)? -/
def State.mayRun (s : State) (t : Task) (p : Place) : Bool :=
  s.computes t.vd p.tile && (s.vd t.vd).pwr = 0 && !(s.vd t.vd).destroying && s.isIdle p &&
  (match t.bound with
   | some (n, c) => n = p.tile && c = p.core
   | none => true) &&
  (match t.saved with
   | some sv => sv.acc.isNone || (s.core p.tile p.core).owner.isNone
   | none => true) &&
  (match t.window with
   | some w => w.tile.isSome || (lowestFit (s.windows p.tile) w.size).isSome
   | none => t.scratch = 0 || (lowestFit (s.windows p.tile) t.scratch).isSome)

/-! ### The end of a task (R78, R125, R136, R138) -/

/-- The partition its owner leaves is free; what it holds is open: the owner's last values or zero (R270). The slots
become invalid (R285). Tasks that wait for it run again. -/
def State.freePartition (s : State) (tile core : Nat) : State :=
  let (d, s) := s.draw
  let s := s.modCore tile core fun c =>
    { c with owner := none, slots := Vector.replicate 4 none,
             accErr := [], acc := if c.acc.isEmpty then [] else if Config.keeps d then c.acc else [] }
  s.wakeWhere (fun t w => w = .partition && t.last.tile = tile && t.last.core = core) none

/-- Every partition that a task owns is freed. -/
def State.freePartitions (s : State) (id : Nat) : State :=
  s.tiles.foldl (fun s x => (List.range 4).foldl (fun s c =>
    if (x.2.core c).owner = some id then s.freePartition x.1 c else s) s) s

/-- The leases of a task are released (R149). -/
def State.freeLeases (s : State) (vd id : Nat) : State :=
  if (s.vd vd).rolemap.any (fun x => x.2.owner == some id) then
    let f (x : Nat × Entry) : Nat × Entry :=
      if x.2.owner = some id then (x.1, { x.2 with lease := 0, owner := none }) else x
    s.modVd vd fun v => { v with rolemap := v.rolemap.map f }
  else s

/-- h0 to h15 are dropped in ascending order (R125). -/
def State.dropHandles (s : State) (id : Nat) : State :=
  (List.range 16).foldl (fun s i => s.putH id (BitVec.ofNat 4 i) 0) s

/-- The task's parked-wait reacher and its feeding edges are removed (R125): F's count falls by one for each. -/
def State.dropReachers (s : State) (id : Nat) : State :=
  match s.task? id with
  | none => s
  | some t =>
    let s := match t.waitReacher with
      | some h => (s.setTask id { t with waitReacher := none }).dropHandle t.vd h
      | none => s
    match t.ident with
    | .ordinary i =>
      (s.vd t.vd).futs.foldl (fun s x =>
        let n := (x.2.feeds.filter (· = i)).length
        if n = 0 then s else
        let s := s.modFut t.vd x.1 fun f => { f with feeds := f.feeds.filter (· ≠ i) }
        (List.range n).foldl (fun s _ => s.lower t.vd x.1) s) s
    | _ => s

/-- Its registration as a popper of a queue is removed; a push of it that is held stays, and answers nobody (R407). -/
def State.dropPopper (s : State) (vd id : Nat) : State :=
  if (s.vd vd).queues.any (fun q => id ∈ q.2.poppers || q.2.held.any (fun h => h.2 = .task id)) then
    let f (q : Queue) : Queue :=
      { q with poppers := q.poppers.filter (· ≠ id)
               held := q.held.map fun h => if h.2 = .task id then (h.1, .gone) else h }
    s.modVd vd fun v => { v with queues := v.queues.map fun q => (q.1, f q.2) }
  else s

/-- A task that the end of a fork has made READY takes the last finisher's thread where it may run there, when its priority
is at least the highest level that waits in the cluster and no pre-empted task waits there at its level or above (R92). -/
def State.handOver (s0 s : State) (vd : Nat) (p : Place) : State :=
  let waiting := s0.tasks.filter fun y => y.2.vd = vd && y.2.status = .ready && y.2.home = clusterOf p.tile
  let fresh := s.tasks.find? fun x => x.2.vd = vd && x.2.status = .ready && !x.2.doomed &&
    !((s0.task? x.1).any fun t => t.status = .ready) && s.mayRun x.2 p &&
    waiting.all fun y => y.2.prio ≤ x.2.prio && !(y.2.preempted && x.2.prio ≤ y.2.prio)
  match fresh with
  | none => s
  | some x => s.modTask x.1 fun t => { t with direct := some p }

/-- One recruit or gang thread less (R92, R87): the last one completes the future. `result`: that of a gang. -/
def State.joinEnd (s : State) (vd i : Nat) (failed : Option Nat) : State :=
  let f := s.fut vd i
  let f := { f with left := f.left - 1, failed := f.failed.orElse fun _ => failed }
  let s := s.setFut vd i f
  if f.left ≠ 0 then s
  else if f.doomed then
    if f.cancel ∧ f.reach ≠ 0 then s.complete vd i 6 0 0 0
    else if finalState f.state then s
    else s.freeFut vd i
  else
    let r := if f.kind = 4 then BitVec.ofNat 64 f.made else f.result
    let s := match f.failed with
      | some c => s.complete vd i 7 0 c 0
      | none => s.complete vd i 5 r 0 0
    s.closeFut vd i

/-- How a task ends. -/
inductive Ending where
  | done (v : Word)
  | failed (cause : Nat)
  deriving DecidableEq, Repr

/-- What every end of a task does after its future has been settled: R78. -/
def State.vacate (s : State) (id : Nat) (how : Departure) : State :=
  match s.task? id with
  | none => s
  | some t =>
    let s := s.departAll t.vd id (s.lidOf t) how
    let s := s.freeLeases t.vd id
    let s := s.dropPopper t.vd id
    let s := s.endSubs id
    let s := s.freePartitions id
    { s with tasks := cut s.tasks id }

/-- A task ends by EXIT or by an unresolvable fault (R125): its stores performed (R138), its future settled, its handles
dropped, its reacher and edges removed, its place left. -/
def State.endTask (s : State) (id : Nat) (e : Ending) : State :=
  match s.task? id with
  | none => s
  | some t =>
    let s := s.release id .module
    let s := match t.ident, e with
      | .ordinary i, .done v => s.complete t.vd i 5 v 0 0
      | .ordinary i, .failed c => s.complete t.vd i 7 0 c 0
      | .gangThread g gi ti, .done v =>
        if gi = 0 ∧ ti = 0 ∧ ¬ t.fdone then s.modFut t.vd g fun f => { f with result := v } else s
      | _, _ => s
    let s := s.dropHandles id
    let s := s.dropReachers id
    let s := s.vacate id (match e with | .done _ => .exit | .failed _ => .fault)
    match t.ident, e with
    | .ordinary i, _ => s.closeFut t.vd i
    | .recruit f _, .done _ => s.handOver (s.joinEnd t.vd f none) t.vd t.last
    | .recruit f _, .failed c => s.handOver (s.joinEnd t.vd f (some c)) t.vd t.last
    | .gangThread g _ _, .done _ => s.joinEnd t.vd g none
    | .gangThread g _ _, .failed c => s.joinEnd t.vd g (some c)

/-! ### Exceptions (R266, R267, R268) -/

/-- The pc that TVEC names to a trap on a tile; within 64 master cycles of its die after a change either value may be seen
(R4, R433). -/
def State.tvecOf (s : State) (vd tile : Nat) : Word × State :=
  let v := s.vd vd
  if s.within v.tvecChanged tile 64 ∧ v.tvecOld ≠ v.tvec then
    let (d, s) := s.draw
    (if Config.keeps d then v.tvecOld else v.tvec, s)
  else (v.tvec, s)

/-- The VREP that a thread is executing. -/
def Ctx.running (c : Ctx) : Option Vrep :=
  match c.vrep with
  | some r => if r.active && r.pc == c.pc then some r else none
  | none => none

/-- Trap entry (R266): TCAUSE, TVAL, TEPC and TSTATUS are written, the mode becomes supervisor, the pc TVEC's. With no
TVEC, or in supervisor mode, the task fails with the cause; a doomed task is stopped (R131). `rep` and `idx` are those
of a VREP repetition (R114). -/
def State.takeTrap (s : State) (id cause : Nat) (tval : Word) (code : Nat) : State :=
  match s.task? id with
  | none => s
  | some t =>
    if t.delivered then s.setTask id { t with status := .stopping (some t.last) }
    else
      -- a wait that a trap breaks off holds nothing
      let s := match t.waitReacher with
        | some h => (s.setTask id { t with waitReacher := none }).dropHandle t.vd h
        | none => s
      let (vec, s) := s.tvecOf t.vd t.last.tile
      if t.ctx.mode = .supervisor ∨ vec = 0 then s.endTask id (.failed cause)
      else
        let (rep, idx) := match t.ctx.running with
          | some r => (r.rep, r.idx)
          | none => (0, 0)
        s.setTask id { t with woke := none, fault := none, tinv := none, waitReacher := none, ctx := { t.ctx with
          tcause := BitVec.ofNat 64 (code * 2 ^ 16 + cause)
          tval := tval
          tepc := t.ctx.pc
          tstatus := BitVec.ofNat 64 (rep * 2 ^ 8 + idx * 2 ^ 4)
          mode := .supervisor
          pc := vec
          vrep := none
          outer := t.ctx.running } }

/-- The point at which a VREP whose count and body are to be read again resumes; none at its beginning. -/
def Vrep.at (pc : Word) (rep idx : Nat) : Option Vrep :=
  if rep = 0 ∧ idx = 0 then none
  else some { pc := pc, active := true, loaded := false, count := 0, body := [], stride := 0, rep := rep, idx := idx }

/-- Return from an exception (R268): the pc of TEPC, the mode of pmode, and a VREP at rep and idx; or, with fail set,
the end of the task with TCAUSE's cause, FAILED also of a doomed one whose flag has reached its core: ERET is no
reclamation point (R363), where R131 allows FAILED of tasks not doomed (notes/assumptions/97.md). What the task keeps for an
instruction to which it does not return is dropped. -/
def State.eret (s : State) (id : Nat) : State :=
  match s.task? id with
  | none => s
  | some t =>
    let c := t.ctx
    if c.tstatus.getLsbD 1 then s.endTask id (.failed (bvBits c.tcause 7 0))
    else
      let rep := bvBits c.tstatus 15 8
      let idx := bvBits c.tstatus 7 4
      let mode : Mode := if c.tstatus.getLsbD 0 then .supervisor else .task
      s.setTask id { t with kept := t.kept.filter (fun k => k.mode ≠ mode ∨ k.pc = c.tepc), ctx := { c with
        pc := c.tepc
        mode := mode
        outer := none
        vrep := match c.outer with
          | some r => if r.pc = c.tepc ∧ r.loaded then some { r with rep := rep, idx := idx } else Vrep.at c.tepc rep idx
          | none => Vrep.at c.tepc rep idx } }

/-! ### Page faults (R258 to R261) -/

/-- Write a fault record of a task (R260): its number and the key of its first byte, none where the ring is full. -/
def State.faultRecord (s : State) (t : Task) (access cause va level pte : Nat) : Option (Nat × Nat × State) :=
  let v := s.vd t.vd
  let prod := (s.dwordAt (v.faultKey 0)).toNat
  let cons := (s.dwordAt (v.faultKey 8)).toNat
  if (prod + 2 ^ 64 - cons) % 2 ^ 64 = 2 ^ v.faultK then none
  else
    let off := 64 + 32 * (prod % 2 ^ v.faultK)
    let w : Nat := t.ident.index * 2 ^ 40 + level * 2 ^ 36 + access * 2 ^ 34 + s.lidOf t * 2 ^ 20 +
      t.last.core * 2 ^ 18 + t.last.thread * 2 ^ 16 + cause
    let s := s.writeDword (v.faultKey off) (BitVec.ofNat 64 va)
    let s := s.writeDword (v.faultKey (off + 8)) (BitVec.ofNat 64 w)
    let s := s.writeDword (v.faultKey (off + 16)) (BitVec.ofNat 64 pte)
    let s := s.writeDword (v.faultKey (off + 24)) 0
    some (prod % 2 ^ v.faultK, v.faultKey off, s.writeDword (v.faultKey 0) (BitVec.ofNat 64 (prod + 1)))

/-- The task of a page fault parks, with its record written, or on the ring's header when the ring is full. A record of
its own that is still open is not written twice (R261). -/
def State.pageFault (s : State) (id access cause va level pte : Nat) : State :=
  match s.task? id with
  | none => s
  | some t =>
    let own := match t.fault with
      | some r => if r.va = va ∧ s.byteAt (r.record + 0x18) = 0 then some r else none
      | none => none
    match own with
    | some r =>
      (s.modTask id fun t => { t with fault := some { r with read := false } }).park id (.fault (pte / 256) (r.record / 256))
    | none =>
      match s.faultRecord t access cause va level pte with
      | none => s.park id (.ring (access, cause, va, level, pte))
      | some (n, rec0, s) =>
        (s.modTask id fun t => { t with fault := some { n := n, record := rec0, va := va } }).park id (.fault (pte / 256) (rec0 / 256))

end Sys2Proof.Machine
end

