-- ==== Sys2Proof/Machine/QueueOps.lean ====
section
/-! DEFINITION. Hardware queues at their homes (spec/23_reference_q_s.md R405 to R409): handles, pushes, pops, spill. -/

namespace Sys2Proof.Machine

def qLid (h : Word32) : Nat := bvBits h 31 20
def qSlot (h : Word32) : Nat := bvBits h 19 12
def qGen (h : Word32) : Nat := bvBits h 11 0

/-- The generation of a slot (R405): 1 until its first QFREE. -/
def Vd.slotGen (v : Vd) (lid slot : Nat) : BitVec 12 := (look v.slotGens (lid, slot)).getD 1

/-- The queue that a handle names, none where its home refuses it (R408). -/
def State.queue? (s : State) (vd : Nat) (h : Word32) : Option Queue :=
  let v := s.vd vd
  let e := v.entry (qLid h)
  if e.role = 2 ∧ e.state ≠ 3 ∧ (v.slotGen (qLid h) (qSlot h)).toNat = qGen h then
    look v.queues (qLid h, qSlot h)
  else none

def State.setQueue (s : State) (vd : Nat) (h : Word32) (q : Queue) : State :=
  s.modVd vd fun v => { v with queues := put v.queues (qLid h, qSlot h) q }

/-- Do message packets to a queue's home wait? For a move of it, and for what its old home forwards (R162); in a drain (R242);
and for what stands in a drain store (R244). -/
def State.queueHeld (s : State) (vd : Nat) (h : Word32) : Bool :=
  let lid := qLid h
  (s.entry vd lid).state = 2 || s.awaited vd lid || !s.drained || s.packets.any fun p => match p.loc with
    | .drained => p.hdr.dst = s.goalStop (.tile vd lid)
    | .bridgeDrained .. => true
    | _ => false

/-- Spill units of 64 KiB, 8,192 entries, that a queue of `n` entries needs (R407): a queue of a backed entry lives in
spill memory whole. -/
def spillUnits (backed : Bool) (n : Nat) : Nat := ((if backed then n else n - 256) + 8191) / 8192

/-- The units that all queues of a device use. -/
def Vd.spillUsed (v : Vd) : Nat :=
  v.queues.foldl (fun n q => n + spillUnits (v.entry q.1.1).backed q.2.entries.length) 0

/-- Is there room for one more entry in the queue (R407)? -/
def State.hasRoom (s : State) (vd : Nat) (h : Word32) (q : Queue) : Bool :=
  let v := s.vd vd
  let b := (v.entry (qLid h)).backed
  v.spillUsed + spillUnits b (q.entries.length + 1) - spillUnits b q.entries.length ≤ v.spillQuota ||
    spillUnits b (q.entries.length + 1) = 0

/-- The earliest popper that may be made READY. -/
def State.firstPopper (s : State) (q : Queue) : Option Nat :=
  q.poppers.find? fun id =>
    match s.task? id with
    | some t => !t.doomed
    | none => false

/-- Would a push be held now (R407)? Earlier pushes that are held come before it. -/
def State.wouldHold (s : State) (vd : Nat) (h : Word32) (q : Queue) : Bool :=
  !(q.held.isEmpty && ((s.firstPopper q).isSome || s.hasRoom vd h q))

/-- The eight lines of a slot's 2 KiB count as live from its QNEW on, and QFREE writes them (R144, R406). -/
def State.slotLive (s : State) (vd lid slot : Nat) : State :=
  let e := s.entry vd lid
  let with' (l : List Nat) : List Nat := (List.range 8).foldl (fun l i =>
    let n := (0x980000 + 0x800 * slot) / 256 + i
    if n ∈ l then l else n :: l) l
  if e.backed then s.modEntry vd lid fun e => { e with live := with' e.live }
  else s.modTile e.phys fun t => { t with live := with' t.live }

/-- The entry goes to a popper; to one that pops through a port with the acquire of the pop (R416). -/
def State.hand (s : State) (id : Nat) (x : Word) : State := (s.give id x).acquire id .module

/-- A push that has reached its home: to the earliest popper, into the queue, or held, behind earlier held ones (R407, R409,
R416). The flag says that it was held. -/
def State.push (s : State) (vd : Nat) (h : Word32) (q : Queue) (x : Word) (who : Pusher) : State × Bool :=
  if s.wouldHold vd h q then (s.setQueue vd h { q with held := q.held ++ [(x, who)] }, true) else
  match s.firstPopper q with
  | some id =>
    let s := s.setQueue vd h { q with poppers := q.poppers.filter (· ≠ id) }
    (s.hand id x, false)
  | none => (s.setQueue vd h { q with entries := q.entries ++ [x] }, false)

/-- The index of the smallest key among entries in order of arrival; the first of equal keys. -/
def minKey : List Word → Nat → Nat → Nat → Nat
  | [], _, best, _ => best
  | x :: r, i, best, key => if bvBits x 63 32 < key then minKey r (i + 1) i (bvBits x 63 32) else minKey r (i + 1) best key

/-- Take the first entry by R406. -/
def Queue.take (q : Queue) : Option (Word × Queue) :=
  let i := if q.prio then minKey q.entries 0 0 (2 ^ 32) else 0
  match q.entries[i]? with
  | some x => some (x, { q with entries := q.entries.eraseIdx i })
  | none => none

/-- What a pop by a task answers: its entry, or its registration as a popper. -/
def State.pop (s : State) (vd : Nat) (h : Word32) (q : Queue) (id : Nat) : Option Word × State :=
  match q.take with
  | some (x, q') => (some x, s.setQueue vd h q')
  | none => (none, s.setQueue vd h { q with poppers := q.poppers ++ [id] })

/-- The home of a queue answers an enqueue (R234, R411), from a stop: delivered, or refused; the future completes. -/
def State.answerEnqueue (s : State) (src vd fut : Nat) (h : Word32) (refused : Bool) : State :=
  let a := (s.vd vd).futBase + 64 * fut
  let n := if refused then 1 else 0
  ((s.complete vd fut 5 0 0 n).closeFut vd fut).message 0x22 src vd (BitVec.ofNat 64 n) (.place vd 0 (.phys a false)) h.toNat
    (BitVec.ofNat 64 a)
/-- So in this module. -/
def State.answerHere (s : State) (vd fut : Nat) (h : Word32) (refused : Bool) : State :=
  s.answerEnqueue (s.goalStop (.tile vd (qLid h))) vd fut h refused

/-- The entry of an enqueue reaches its home in this module (R411): delivered or held, or refused; a device that is being
destroyed refuses it (R329). -/
def State.enqueue (s : State) (vd : Nat) (h : Word32) (x : Word) (fut : Nat) : State :=
  match (if (s.vd vd).destroying then none else s.queue? vd h) with
  | none => s.answerHere vd fut h true
  | some q =>
    let (s, held) := s.push vd h q x (.enqueue fut)
    if held then s else s.answerHere vd fut h false

/-! ### Events (R364, R365) -/

/-- The pending word of a device at a cluster's event unit; 0 until a line fires (R364). -/
def Vd.pendingAt (v : Vd) (cluster : Nat) : Word32 := (look v.pending cluster).getD 0
def State.setPending (s : State) (vd cluster : Nat) (x : Word32) : State :=
  s.modVd vd fun v => { v with pending := if x = 0 then cut v.pending cluster else put v.pending cluster x }

/-- Lines reach an event unit: they are pending, and every task parked there on one of them is READY (R365). -/
def State.arrive (s : State) (vd cluster : Nat) (mask : Word32) : State :=
  let s := s.setPending vd cluster ((s.vd vd).pendingAt cluster ||| mask)
  s.wakeWhere (fun t w =>
    match w with
    | .lines c m => t.vd = vd && c = cluster && (m &&& mask) != 0
    | _ => false) none

/-- The member of a list with the smallest key; the first of equals. -/
def smallest {α : Type} (key : α → Nat) : List α → Option α
  | [] => none
  | x :: r => match smallest key r with
    | some y => if key y < key x then some y else some x
    | none => some x

/-- The physical tile of the device's lowest logical tile that computes now. -/
def State.litCompute (s : State) (vd : Nat) : Option Nat :=
  (smallest (fun (x : Nat × Entry) => x.1)
    ((s.vd vd).rolemap.filter fun x => x.2.role = 1 && x.2.state != 3)).map fun x => x.2.phys

/-- Pending event bits and parked EVWAITs leave the units of clusters where the device computes no more, as soon as it
computes somewhere. -/
def State.migrateEvents (s : State) (vd : Nat) : State :=
  let v := s.vd vd
  let there (c : Nat) : Bool := v.rolemap.any fun x => x.2.role = 1 && x.2.state ≠ 3 && clusterOf x.2.phys = c
  let waits := s.tasks.filterMap fun x => match x.2.status with
    | .blocked (.lines c _) => if x.2.vd = vd then some c else none
    | _ => none
  let left := (v.pending.map (·.1) ++ waits).dedup.filter fun c => !there c
  match s.litCompute vd with
  | none => s
  | some n => left.foldl (fun s c =>
      let bits := (s.vd vd).pendingAt c
      let s := s.setPending vd c 0
      let s := if bits = 0 then s else s.arrive vd (clusterOf n) bits
      s.wakeWhere (fun t w => t.vd = vd && match w with
        | .lines k _ => k = c
        | _ => false) none) s

/-- An event packet is applied at the unit of the cluster that its stop belongs to. Where the device computes there no more,
for the logical tile that it was sent to has left compute role meanwhile, its lines go where pending ones go
(notes/assumptions/88.md). -/
def State.eventHere (s : State) (vd stop : Nat) (mask : Word32) : State :=
  (s.arrive vd (clusterOf stop) mask).migrateEvents vd

/-! ### Wake events (R305, R308, R312) -/

/-- What every wake write does to a device's power state: ACTIVE, it restarts the idle count; COLLAPSING, the collapse
stops at the end of a step, which one is open, and is undone; COLLAPSED, the wake sequence begins. -/
def State.wakeEvent (s : State) (vd : Nat) : State :=
  let v := s.vd vd
  if v.pwr = 0 then s.modVd vd fun v => { v with idleSince := none }
  else if v.pwr = 1 then
    let (d, s) := s.draw
    s.modVd vd fun v => { v with pwr := 3, collapseStep := Config.choose d % 9 }
  else if v.pwr = 2 then s.modVd vd fun v => { v with pwr := 3, collapseStep := 9 }
  else s

/-- Keep an access for a device that is not ACTIVE, and wake it; none for one that is ACTIVE, whose idle count
restarts. -/
def State.holdFor (s : State) (vd : Nat) (x : HeldItem) : State ⊕ State :=
  let t := s.wakeEvent vd
  if (s.vd vd).pwr = 0 then .inr t else .inl (t.modVd vd fun v => { v with heldItems := v.heldItems ++ [x] })

/-! ### What arrives before an operation of a queue (R241, R409) -/

/-- Does a packet carry an effect to a stop of this module: an event, or an enqueue's entry that is not for another one? -/
def State.carries (s : State) (p : Pkt) : Bool := match p.body with
  | .event .. => true
  | .enqueue _ _ _ m _ _ _ => m = s.moduleId
  | _ => false

/-- A message packet that an operation of a task on a queue comes after: for the queue's logical tile or on its path, from
the task's tile; and every entry that the task has sent to the queue. -/
def State.before (s : State) (id src vd : Nat) (h : Word32) (p : Pkt) : Bool :=
  (s.carries p && p.hdr.src == src &&
    (p.logical == some (vd, qLid h) || (s.dstOf p == s.goalStop (.tile vd (qLid h)) && !s.blocked p))) ||
  match p.body with
  | .enqueue v _ t m q _ _ => v = vd && t = id && m = s.moduleId && q = h
  | _ => false

/-- An enqueue's entry, or an event's lines, that have come to a stop take effect, or wait for a device that is not ACTIVE,
which they wake (R308); the census's line 31 wakes none. -/
def State.messageHere (s : State) (p : Pkt) : State :=
  match p.body with
  | .enqueue v f _ _ q x _ =>
    match s.holdFor v (.enqueue q x (some f)) with
    | .inl s => s
    | .inr s => s.enqueue v q x f
  | .event v _ mask =>
    if mask.getLsbD 31 then s.eventHere v (s.dstOf p) mask else
    match s.holdFor v (.event (clusterOf (s.dstOf p)) mask) with
    | .inl s => s
    | .inr s => s.eventHere v (s.dstOf p) mask
  | _ => s

/-- The messages that come before a task's operation on a queue arrive before it. -/
def State.deliverMine (s : State) (id tile vd : Nat) (h : Word32) : State :=
  let mine := s.packets.filter (s.before id tile vd h)
  if mine.isEmpty then s else
  let s1 := mine.foldl State.countRest s
  mine.foldl State.messageHere { s1 with packets := s.packets.filter fun p => !s.before id tile vd h p }

end Sys2Proof.Machine
end

