-- ==== Sys2Proof/Machine/Operands.lean ====
section
/-! DEFINITION. Operand forms and how an instruction of a thread runs (R39, R40, R62, R135, R340): the reclamation
point, the privilege check, the sources with their queue ports, the body of the entry, the destinations. -/

namespace Sys2Proof.Machine

/-! ### Source operands (R39, R40) -/

/-- The value of a source register once its port, if it is one, holds its latch. -/
def Ctx.src (c : Ctx) (r : GReg) : Word :=
  if r.isPort then ((c.port (r.toNat - 24)).latch).getD 0 else c.getG r

/-- Pop one port into its latch, unless the latch already holds a value: the pop is an acquire at module scope (R209,
R416). -/
def popPort (s : State) (id n : Nat) : State × Option Stop :=
  match s.task? id with
  | none => (s, none)
  | some t =>
    let p := t.ctx.port n
    let latched (s : State) (x : Word) : State :=
      (s.modTask id fun t => { t with ctx := t.ctx.setPort n { p with latch := some x } }).acquire id .module
    match p.latch with
    | some _ => (s, none)
    | none =>
      if p.bound = 0 then (s, some (.trap 0xC (BitVec.ofNat 64 n) 0)) else
      if s.queueHeld t.vd p.bound then (s, some .hold) else
      let s := s.deliverMine id t.last.tile t.vd p.bound
      match s.queue? t.vd p.bound with
      | none => (s, some (.trap 0xC (BitVec.ofNat 64 n) 0))
      | some q =>
        match s.pop t.vd p.bound q id with
        | (some x, s') => (latched s' x, none)
        | (none, s') => (s', some (.park (.pop p.bound (some n)) s'))

/-- Pop the ports of a list of source fields, in order. -/
def popAll (s : State) (id : Nat) : List GReg → State × Option Stop
  | [] => (s, none)
  | r :: l =>
    if r.isPort then
      match popPort s id (r.toNat - 24) with
      | (s', none) => popAll s' id l
      | x => x
    else popAll s id l

/-! ### Destinations -/

/-- What a body answers: the values of the destination fields, in the order written, and the next pc where it is not
the next word. -/
structure Done where
  vals : List Word := []
  pc : Option Word := none

/-- Write one destination: a register, or a push that is a release at module scope and leaves in a packet (R209, R234,
R417). The answer names a push that was held. -/
def writeDest (id : Nat) (d : GReg) (x : Word) : Act (Option (Word32 × Option Nat)) := do
  let s ← get
  match s.task? id with
  | none => return none
  | some t =>
    if d.isPort then
      let n := d.toNat - 24
      let p := t.ctx.port n
      if p.bound = 0 then trap 0xC (BitVec.ofNat 64 n)
      let s := (s.release id .module).deliverMine id t.last.tile t.vd p.bound
      match s.queue? t.vd p.bound with
      | none => throw (.refused n)
      | some q =>
        let (s, h) := s.push t.vd p.bound q x (.task id)
        set (s.message 0x20 t.last.tile t.vd x (.tile t.vd (qLid p.bound)) p.bound.toNat)
        return if h then some (p.bound, some n) else none
    else
      set (s.setTask id { t with ctx := t.ctx.setG d x })
      return none

/-- Write the destinations in order; the answer lists the pushes that were held. -/
def writeDests (id : Nat) : List (GReg × Word) → Act (List (Word32 × Option Nat))
  | [] => return []
  | (d, x) :: l => do
    let a ← writeDest id d x
    let b ← writeDests id l
    return a.toList ++ b

/-- Clear the latches of the source ports, and go on. -/
def Ctx.clearLatches (c : Ctx) (l : List GReg) : Ctx :=
  l.foldl (fun c r => if r.isPort then
    c.setPort (r.toNat - 24) { c.port (r.toNat - 24) with latch := none } else c) c

/-- Does an instruction that has written a port change more than registers, or write two ports? Where its push is refused
later, it does not do that again: it only pushes (notes/assumptions/33.md). -/
def Instr.outward : Instr → Bool
  | .amoAdd .. | .amoAnd .. | .amoOr .. | .amoXor .. | .amoMin .. | .amoMax .. | .amoMinn .. | .amoMaxn .. | .amoSwap ..
  | .amocas .. | .mwait .. | .evwait .. | .qnew .. | .qpop .. | .gbar .. => true
  | i => 1 < (i.dests.filter GReg.isPort).length

/-- What an instruction keeps for the time its push is held, where it is not to be done again. -/
def Instr.keeps (i : Instr) (c : Ctx) (d : Done) : Option Kept :=
  if Instr.outward i then some { pc := c.pc, mode := c.mode, instr := some i, vals := d.vals } else none

/-- Is a destination still to be written, where only some ports are left? -/
def GReg.isDue (r : GReg) (todo : Option (List Nat)) : Bool := !r.isPort || todo.all fun l => r.toNat - 24 ∈ l

/-- The end of an instruction that completes: latches, the pc (`fin`), destinations, of which `todo` names the ports that are
left. A task of which pushes are held parks. -/
def complete (i : Instr) (id : Nat) (t : Task) (d : Done) (fin : Ctx → Ctx) (todo : Option (List Nat) := none) : Act Unit := do
  modify fun s => s.modTask id fun t =>
    { t.unkeep with ctx := fin (t.ctx.clearLatches i.sources), woke := none, fault := none }
  match ← writeDests id ((i.dests.zip d.vals).filter fun x => GReg.isDue x.1 todo) with
  | [] => return
  | held => throw (.over ((← get).park id (.push held (Instr.keeps i t.ctx d) t.ctx)))

/-- The next pc: as the body answered, or the next word; the next eight for a tile command. -/
def Done.next (i : Instr) (d : Done) (c : Ctx) : Ctx :=
  { c with pc := d.pc.getD (c.pc + (if i.isCommand then 32 else 4)) }

/-! ### Reclamation points and privilege (R54, R43, R135) -/

/-- The instructions that R135 names whatever their fields. -/
def Instr.stops : Instr → Bool
  | .spawn .. | .spawnPass .. | .gang .. | .fork .. | .qenq .. | .mwait .. | .evwait .. | .fwait .. | .gbar ..
  | .qpop .. | .qpush .. | .qbind .. | .sleep .. | .yield | .rpoint | .fdone .. | .exit .. => true
  | i => i.isCommand

/-- Is a doomed task stopped at this instruction before it has any effect? -/
def Instr.isPoint (i : Instr) : Bool := Instr.stops i || i.sources.any GReg.isPort || i.dests.any GReg.isPort

/-- Does the instruction trap with cause 0x14 in task mode (R43, R54)? -/
def Instr.needsSupervisor : Instr → Bool
  | .srrd _ r => 0x100 ≤ r.toNat && r.toNat < 0x200
  | .srwr _ r => 2 ≤ r.toNat
  | .eret | .tinv .. | .tinvAll => true
  | _ => false

/-- A doomed task stops where it stands (R135). -/
def State.stopHere (s : State) (id : Nat) (p : Place) : State :=
  s.modTask id fun t => { t with status := .stopping (some p) }

/-! ### One instruction of a thread -/

abbrev Result := Host.Outcome State Fault Refusal

/-- Does the instruction release (R209)? -/
def Instr.releases : Instr → Bool
  | .stl .. | .spawn .. | .spawnPass .. | .gang .. | .fork .. | .qenq .. | .qpush .. | .evsig .. | .gbar .. | .garrive ..
  | .fdone .. | .exit .. | .eret | .depdec .. | .depdecMem .. | .snapopen .. | .snapcommit .. | .snaproll .. => true
  | .fence k _ => k != .acq
  | .amoAdd _ _ _ _ o _ | .amoAnd _ _ _ _ o _ | .amoOr _ _ _ _ o _ | .amoXor _ _ _ _ o _ | .amoMin _ _ _ _ o _
  | .amoMax _ _ _ _ o _ | .amoMinn _ _ _ _ o _ | .amoMaxn _ _ _ _ o _ | .amoSwap _ _ _ _ o _
  | .amocas _ _ _ _ o _ => o == .rel || o == .ar
  | i => i.isCommand || i.dests.any GReg.isPort

/-- Would a trap taken now end the task (R266)? -/
def State.trapEnds (s : State) (t : Task) : Bool :=
  t.ctx.mode == .supervisor || (s.vd t.vd).tvec == 0 || (s.vd t.vd).tvecOld == 0

/-- Is a trap of a task to be taken later: it may end the task, whose release a move holds (R162, R205)? -/
def State.trapWaits (s : State) (id : Nat) : Bool := (s.task? id).any fun t => s.heldStores id && s.trapEnds t

/-- What the end of a body makes of the state before it (`s`: the ports popped) and of the task. -/
def settle (s : State) (id : Nat) (p : Place) : Except Stop (Unit × State) → Result
  | .ok ((), s') => .next s'
  | .error (.trap c v k) => .next (s.takeTrap id c v k)
  | .error (.refused n) => .next ((s.release id .module).takeTrap id 0xC (BitVec.ofNat 64 n) 0)
  | .error (.page a c va l pte) =>
    match s.task? id with
    | some t => if t.delivered then .next (s.stopHere id p) else .next (s.pageFault id a c va l pte)
    | none => .next s
  | .error (.park w s') =>
    match s'.task? id with
    | some t => if t.delivered then .next (s.stopHere id p) else .next (s'.park id w)
    | none => .next s'
  | .error .hold => .next s
  | .error .doomed => .next (s.stopHere id p)
  | .error (.over s') => .next s'
  | .error (.fault f) => .fault f

/-- Does a stop trap? -/
def Stop.traps : Except Stop (Unit × State) → Bool
  | .error (.trap ..) | .error (.refused _) => true
  | _ => false

/-- The end of a turn. A trap that may end the task, whose release a move holds, is taken later (R162, R205). -/
def settleTurn (s : State) (id : Nat) (p : Place) (r : Except Stop (Unit × State)) : Result :=
  if Stop.traps r && s.trapWaits id then .next s else settle s id p r

/-- Does a move hold the packets of a queue that a destination port pushes to (R162)? -/
def State.destHeld (s : State) (t : Task) (l : List GReg) : Bool :=
  l.any fun d => d.isPort && (t.ctx.port (d.toNat - 24)).bound != 0 &&
    s.queueHeld t.vd (t.ctx.port (d.toNat - 24)).bound

/-- What a task has kept for an instruction: what its wake gave a QPOP or GBAR, or what the instruction itself has done. -/
def Task.keptFor (t : Task) (i : Instr) : Option Kept :=
  t.keptHere.filter fun k => match k.instr, i with
    | none, .qpop .. | none, .gbar .. => true
    | none, _ => false
    | some j, i => j = i

/-- The destinations that are written by an instruction whose effects a task has kept: the acquire of a value that a wake has
given stands before them (R209). -/
def resumeKept (i : Instr) (k : Kept) (id : Nat) (t : Task) (fin : Done → Ctx → Ctx) : Act Unit := do
  if k.instr.isNone then modify fun s => s.acquire id .module
  complete i id t { vals := k.vals } (fin { vals := k.vals }) k.todo

/-- Run an instruction for a task: `body` receives the task's number, the task with its ports popped, and the values
of the instruction's source fields (R62, R340); `fin` is what its completion does to the pc. A release of which a move
holds a store waits (R162). An instruction that has been done, but for its destinations, only writes them. -/
def runAs (i : Instr) (body : Nat → Task → List Word → Act Done) (fin : Done → Ctx → Ctx) (id : Nat) (t : Task)
    (s : State) : Result :=
  if t.delivered && Instr.isPoint i then .next (s.stopHere id s.cur)
  else if t.ctx.mode = .task ∧ Instr.needsSupervisor i then
    settleTurn s id s.cur (.error (.trap 0x14 (Instr.word i) 0))
  else
    let kept := t.keptFor i
    match (if kept.isSome then (s, none) else popAll s id i.sources) with
    | (s1, some e) => settleTurn s1 id s.cur (.error e)
    | (s1, none) =>
      let t1 := (s1.task? id).getD t
      if s1.destHeld t1 i.dests || (Instr.releases i && s1.heldStores id) then .next s1 else
      settleTurn s1 id s.cur ((match kept with
        | some k => resumeKept i k id t1 fin
        | none => do
          let d ← body id t1 (i.sources.map t1.ctx.src)
          complete i id t1 d (fin d) : Act Unit) s1)

/-- Run an instruction for the task on the current thread. -/
def run (i : Instr) (body : Nat → Task → List Word → Act Done) (s : State) : Result :=
  match s.taskAt s.cur with
  | none => .fault .noTask
  | some (id, t) => runAs i body (Done.next i) id t s

/-- An instruction that computes its destination from its sources. -/
def compute (i : Instr) (f : List Word → Word) (s : State) : Result :=
  run i (fun _ _ v => pure { vals := [f v] }) s

/-- A computation of two sources, and of one. -/
def compute2 (i : Instr) (f : Word → Word → Word) (s : State) : Result :=
  compute i (fun v => f (v.getD 0 0) (v.getD 1 0)) s
def compute1 (i : Instr) (f : Word → Word) (s : State) : Result := compute i (fun v => f (v.getD 0 0)) s

/-- An event that is not enabled changes nothing. -/
def event (s : State) (f : Option State) : Result := .next (f.getD s)

end Sys2Proof.Machine
end

