-- ==== Sys2Proof/Machine/Integer.lean ====
section
/-! DEFINITION. The integer family (spec/02 R45, R46; spec/21 R349, R355, R360, R362, R369; spec/22 R392, R395, R400,
R402, R404; spec/23 R419, R423, R426, R436; spec/24 R467): register forms, and immediate forms with their extension. -/

namespace Sys2Proof.Machine

/-! ### The functions -/

/-- A signed and an unsigned immediate (R46). -/
def sxi {n : Nat} (i : BitVec n) : Word := i.signExtend 64
def zxi {n : Nat} (i : BitVec n) : Word := i.setWidth 64

/-- High halves of the exact 128-bit product (R400). -/
def mulhi (a b : Word) : Word := BitVec.ofInt 64 (a.toInt * b.toInt / 2 ^ 64)
def mulhui (a b : Word) : Word := BitVec.ofNat 64 (a.toNat * b.toNat / 2 ^ 64)

/-- Quotients rounded toward zero, all ones for a divisor of zero; −2^63 ÷ −1 wraps to −2^63 (R362). -/
def divs (a b : Word) : Word := if b = 0 then BitVec.allOnes 64 else BitVec.ofInt 64 (a.toInt.tdiv b.toInt)
def divn (a b : Word) : Word := if b = 0 then BitVec.allOnes 64 else BitVec.ofNat 64 (a.toNat / b.toNat)

/-- ga − q × gb with the quotient of the same operands (R419). -/
def rems (a b : Word) : Word := a - divs a b * b
def remn (a b : Word) : Word := a - divn a b * b

/-- Shifts by bits 5:0 of the amount (R423). -/
def shiftL (a b : Word) : Word := a <<< (b.toNat % 64)
def shiftR (a b : Word) : Word := a >>> (b.toNat % 64)
def shiftA (a b : Word) : Word := a.sshiftRight (b.toNat % 64)

/-- Comparisons as 0 or 1 (R426). -/
def lts (a b : Word) : Word := if a.toInt < b.toInt then 1 else 0
def ltn (a b : Word) : Word := if a.toNat < b.toNat then 1 else 0

def minS (a b : Word) : Word := if b.toInt < a.toInt then b else a
def maxS (a b : Word) : Word := if a.toInt < b.toInt then b else a
def minN (a b : Word) : Word := if b.toNat < a.toNat then b else a
def maxN (a b : Word) : Word := if a.toNat < b.toNat then b else a

/-- Leading zeros, 64 of zero (R360); ones (R404). -/
def clz64 (a : Word) : Word := if a = 0 then 64 else BitVec.ofNat 64 (63 - a.toNat.log2)
def ones (n x : Nat) : Nat := ((List.range n).filter x.testBit).length
def popc64 (a : Word) : Word := BitVec.ofNat 64 (ones 64 a.toNat)

/-- The field of `w` bits from bit `lo`, extended (R369). -/
def extract (a : Word) (lo w : Nat) (signed : Bool) : Word :=
  let v := a.toNat / 2 ^ lo % 2 ^ w
  if signed && v.testBit (w - 1) then BitVec.ofNat 64 (v + (2 ^ 64 - 2 ^ w)) else BitVec.ofNat 64 v

/-! ### Register forms -/

def execAdd (d a b : GReg) (s : State) : Result := compute2 (.add d a b) (· + ·) s
def execSub (d a b : GReg) (s : State) : Result := compute2 (.sub d a b) (· - ·) s
def execMul (d a b : GReg) (s : State) : Result := compute2 (.mul d a b) (· * ·) s
def execMulh (d a b : GReg) (s : State) : Result := compute2 (.mulh d a b) mulhi s
def execMulhu (d a b : GReg) (s : State) : Result := compute2 (.mulhu d a b) mulhui s
def execDiv (d a b : GReg) (s : State) : Result := compute2 (.div d a b) divs s
def execDivu (d a b : GReg) (s : State) : Result := compute2 (.divu d a b) divn s
def execRem (d a b : GReg) (s : State) : Result := compute2 (.rem d a b) rems s
def execRemu (d a b : GReg) (s : State) : Result := compute2 (.remu d a b) remn s
def execAnd (d a b : GReg) (s : State) : Result := compute2 (.and d a b) (· &&& ·) s
def execOr (d a b : GReg) (s : State) : Result := compute2 (.or d a b) (· ||| ·) s
def execXor (d a b : GReg) (s : State) : Result := compute2 (.xor d a b) (· ^^^ ·) s
def execShl (d a b : GReg) (s : State) : Result := compute2 (.shl d a b) shiftL s
def execShr (d a b : GReg) (s : State) : Result := compute2 (.shr d a b) shiftR s
def execSra (d a b : GReg) (s : State) : Result := compute2 (.sra d a b) shiftA s
def execSlt (d a b : GReg) (s : State) : Result := compute2 (.slt d a b) lts s
def execSltu (d a b : GReg) (s : State) : Result := compute2 (.sltu d a b) ltn s
def execMin (d a b : GReg) (s : State) : Result := compute2 (.min d a b) minS s
def execMax (d a b : GReg) (s : State) : Result := compute2 (.max d a b) maxS s
def execMinu (d a b : GReg) (s : State) : Result := compute2 (.minu d a b) minN s
def execMaxu (d a b : GReg) (s : State) : Result := compute2 (.maxu d a b) maxN s
def execClz (d a : GReg) (s : State) : Result := compute1 (.clz d a) clz64 s
def execPopc (d a : GReg) (s : State) : Result := compute1 (.popc d a) popc64 s

/-- A field beyond bit 63 traps with the register's value (R369). -/
def execExt (d a b : GReg) (s : State) : Result :=
  run (.ext d a b) (fun _ _ v => do
    let g := v.getD 1 0
    let lo := bvBits g 5 0
    let w := bvBits g 11 6 + 1
    if 64 < lo + w then trap 1 g
    return { vals := [extract (v.getD 0 0) lo w (g.getLsbD 12)] }) s

/-! ### Immediate forms -/

def execAddImm (d a : GReg) (i : BitVec 16) (s : State) : Result := compute1 (.addImm d a i) (· + sxi i) s
def execMulImm (d a : GReg) (i : BitVec 16) (s : State) : Result := compute1 (.mulImm d a i) (· * sxi i) s
def execAndImm (d a : GReg) (i : BitVec 16) (s : State) : Result := compute1 (.andImm d a i) (· &&& zxi i) s
def execOrImm (d a : GReg) (i : BitVec 16) (s : State) : Result := compute1 (.orImm d a i) (· ||| zxi i) s
def execXorImm (d a : GReg) (i : BitVec 16) (s : State) : Result := compute1 (.xorImm d a i) (· ^^^ zxi i) s
def execShlImm (d a : GReg) (n : BitVec 6) (s : State) : Result :=
  compute1 (.shlImm d a n) (fun x => shiftL x (zxi n)) s
def execShrImm (d a : GReg) (n : BitVec 6) (s : State) : Result :=
  compute1 (.shrImm d a n) (fun x => shiftR x (zxi n)) s
def execSraImm (d a : GReg) (n : BitVec 6) (s : State) : Result :=
  compute1 (.sraImm d a n) (fun x => shiftA x (zxi n)) s
def execSltImm (d a : GReg) (i : BitVec 16) (s : State) : Result :=
  compute1 (.sltImm d a i) (fun x => lts x (sxi i)) s
def execSltuImm (d a : GReg) (i : BitVec 16) (s : State) : Result :=
  compute1 (.sltuImm d a i) (fun x => ltn x (zxi i)) s
def execMinImm (d a : GReg) (i : BitVec 14) (s : State) : Result :=
  compute1 (.minImm d a i) (fun x => minS x (sxi i)) s
def execMaxImm (d a : GReg) (i : BitVec 14) (s : State) : Result :=
  compute1 (.maxImm d a i) (fun x => maxS x (sxi i)) s
def execMinuImm (d a : GReg) (i : BitVec 14) (s : State) : Result :=
  compute1 (.minuImm d a i) (fun x => minN x (zxi i)) s
def execMaxuImm (d a : GReg) (i : BitVec 14) (s : State) : Result :=
  compute1 (.maxuImm d a i) (fun x => maxN x (zxi i)) s
def execExtImm (d a : GReg) (signed : Bool) (w l : BitVec 6) (s : State) : Result :=
  compute1 (.extImm d a signed w l) (fun x => extract x l.toNat (w.toNat + 1) signed) s
/-- sx(imm, 16) × 2^16 (R392). -/
def execLui (d : GReg) (i : BitVec 16) (s : State) : Result := compute (.lui d i) (fun _ => sxi i <<< 16) s

end Sys2Proof.Machine
end

