-- ==== Sys2Proof/Machine/Branch.lean ====
section
/-! DEFINITION. Control transfers (spec/02 R55; spec/21 R356, R357; spec/22 R386, R387). -/

namespace Sys2Proof.Machine

/-- A doomed task stops at a transfer to its own address or below (R55, R135). -/
def backStop (t : Task) (target : Word) : Act Unit :=
  if t.delivered ∧ target.toNat ≤ t.ctx.pc.toNat then throw .doomed else pure ()

/-- A branch: taken, it goes offset × 4 bytes on from its own address; a taken offset of zero or less is a reclamation
point (R55, R356). -/
def branch (i : Instr) (o : BitVec 16) (taken : Task → List Word → Bool) (s : State) : Result :=
  run i (fun _ t v => do
    if taken t v then
      if t.delivered ∧ o.toInt ≤ 0 then throw .doomed
      return { pc := some (t.ctx.pc + (sxi o <<< 2)) }
    else return {}) s

def branch2 (i : Instr) (o : BitVec 16) (p : Word → Word → Bool) (s : State) : Result :=
  branch i o (fun _ v => p (v.getD 0 0) (v.getD 1 0)) s

def execBeq (a b : GReg) (o : BitVec 16) (s : State) : Result := branch2 (.beq a b o) o (fun x y => x == y) s
def execBne (a b : GReg) (o : BitVec 16) (s : State) : Result := branch2 (.bne a b o) o (fun x y => x != y) s
def execBlt (a b : GReg) (o : BitVec 16) (s : State) : Result :=
  branch2 (.blt a b o) o (fun x y => x.toInt < y.toInt) s
def execBge (a b : GReg) (o : BitVec 16) (s : State) : Result :=
  branch2 (.bge a b o) o (fun x y => y.toInt ≤ x.toInt) s
def execBltu (a b : GReg) (o : BitVec 16) (s : State) : Result :=
  branch2 (.bltu a b o) o (fun x y => x.toNat < y.toNat) s
def execBgeu (a b : GReg) (o : BitVec 16) (s : State) : Result :=
  branch2 (.bgeu a b o) o (fun x y => y.toNat ≤ x.toNat) s

/-- The mask branches test all 32 bits (R357). -/
def execBmany (k : MReg) (o : BitVec 16) (s : State) : Result :=
  branch (.bmany k o) o (fun t _ => t.ctx.getM k != 0) s
def execBmnone (k : MReg) (o : BitVec 16) (s : State) : Result :=
  branch (.bmnone k o) o (fun t _ => t.ctx.getM k == 0) s
def execBmall (k : MReg) (o : BitVec 16) (s : State) : Result :=
  branch (.bmall k o) o (fun t _ => t.ctx.getM k == 0xFFFFFFFF) s

def execJal (l : GReg) (o : BitVec 21) (s : State) : Result :=
  run (.jal l o) (fun _ t _ => do
    let target := t.ctx.pc + (sxi o <<< 2)
    backStop t target
    return { vals := [t.ctx.pc + 4], pc := some target }) s

/-- A target that is not a multiple of 4 traps, before the link is written (R387). -/
def execJalr (d a : GReg) (i : BitVec 16) (s : State) : Result :=
  run (.jalr d a i) (fun _ t v => do
    let target := v.getD 0 0 + sxi i
    if target.toNat % 4 ≠ 0 then trap 2 target
    backStop t target
    return { vals := [t.ctx.pc + 4], pc := some target }) s

end Sys2Proof.Machine
end

