-- ==== Sys2Proof/Machine/LoadStore.lean ====
section
/-! DEFINITION. Loads, stores, fences and cache operations (spec/08 R172 to R175; spec/21 R359, R373; spec/22 R388 to R390,
R403; spec/23 R434, R435). -/

namespace Sys2Proof.Machine

/-- Width in bytes. -/
def Size.bytes : Size → Nat
  | .b => 1 | .h => 2 | .w => 4 | .d => 8

/-- Bytes of a register's low part, by offset. -/
def lowBytes (n : Nat) (x : Word) : List (Nat × Byte) := cellsAt 0 (toBytes n x.toNat)

/-- A value of `n` bytes, sign- or zero-extended. -/
def extend (signed : Bool) (n x : Nat) : Word :=
  if signed && x.testBit (8 * n - 1) then BitVec.ofNat 64 (x + (2 ^ 64 - 2 ^ (8 * n))) else BitVec.ofNat 64 x

/-- The address of an L-format access; a misaligned one traps (R389, R434). -/
def addressOf (z : Size) (o : BitVec 12) (base : Word) : Act Nat := do
  let a := base + sxi o
  if a.toNat % Size.bytes z ≠ 0 then trap 2 a
  return a.toNat

/-- The three loads (R389); an LDA then acquires. -/
def load (i : Instr) (z : Size) (o : BitVec 12) (h : Hint) (signed : Bool) (acq : Option Scope) (s : State) : Result :=
  run i (fun id t v => do
    let a ← addressOf z o (v.getD 0 0)
    let n := Size.bytes z
    let fresh := acq == some .module || acq == some .system
    let x := ofBytes (← loadBytes id t a n h fresh)
    match acq with
    | some c => modify fun s => s.acquire id c
    | none => pure ()
    return { vals := [extend signed n x] }) s

def execLd (d b : GReg) (h : Hint) (z : Size) (o : BitVec 12) (s : State) : Result :=
  load (.ld d b h z o) z o h true none s
def execLdn (d b : GReg) (h : Hint) (z : Size) (o : BitVec 12) (s : State) : Result :=
  load (.ldn d b h z o) z o h false none s
def execLda (d b : GReg) (c : Scope) (z : Size) (o : BitVec 12) (s : State) : Result :=
  load (.lda d b c z o) z o .dflt false (some c) s

/-- A store of a register's low bytes (R434). A release comes after the checks and before the store (R435). -/
def store (i : Instr) (z : Size) (o : BitVec 12) (h : Hint) (rel : Option Scope) (s : State) : Result :=
  run i (fun id t v => do
    let a ← addressOf z o (v.getD 1 0)
    let n := Size.bytes z
    match rel with
    | some c => do
      let (g, _) ← resolve id t a .store
      storable t a g
      modify fun s => s.release id c
    | none => pure ()
    storeBytes id a (lowBytes n (v.getD 0 0)) h (rel == some .module || rel == some .system)
    return {}) s

def execSt (st b : GReg) (h : Hint) (z : Size) (o : BitVec 12) (s : State) : Result := store (.st st b h z o) z o h none s
def execStl (st b : GReg) (c : Scope) (z : Size) (o : BitVec 12) (s : State) : Result :=
  store (.stl st b c z o) z o .dflt (some c) s

/-- FENCE (R373): the release first, then the acquire. -/
def execFence (k : FenceKind) (c : Scope) (s : State) : Result :=
  run (.fence k c) (fun id _ _ => do
    if k ≠ .acq then modify fun s => s.release id c
    if k ≠ .rel then modify fun s => s.acquire id c
    return {}) s

/-- The leaf and its level of an address that translates: a cached translation (R254), else what the walk finds. -/
def State.leafOf (s : State) (t : Task) (va : Nat) : Option (Word × Nat) :=
  match s.cached t va .load with
  | some x => some (x.leaf, x.level)
  | none =>
    match s.walk (s.vd t.vd).root va with
    | .error _ => none
    | .ok (e, level, _) => some (e, level)

/-- The page of an address that translates, without a walk that writes (R173, R403): none otherwise. The page must be one
of tier HBM that the access may read, ordinary and already accessed, when `ordinary` is set. -/
def State.quietly (s : State) (t : Task) (va : Nat) (ordinary : Bool) : Option Phys :=
  if Config.windowBase ≤ va then none else
  match s.leafOf t va with
  | none => none
  | some (e, level) =>
    let p := physOf e level va
    if ordinary && (!pteA e || p.ms || p.tier == 2 || (pageRefuses e .load t.ctx.mode).isSome) then none else some p

/-- The line of an L1 that holds an address: of a page that translates, or of host memory (R331). -/
def State.lineAt (s : State) (t : Task) (va : Nat) : Option Nat :=
  if Config.apertureBase ≤ va ∧ va < Config.apertureBase + 2 ^ 40 then
    ((s.vd t.vd).aperture (va - Config.apertureBase)).bind fun d =>
      if d.getLsbD 3 then some (hostKey (bvBits d 127 64 + (va - Config.apertureBase) % 2 ^ 36) / 64) else none
  else (s.quietly t va false).map fun p => p.pa / 64

/-- CINV (R173, R359): the line that holds ga leaves the tile's L1; nothing else happens. -/
def execCinv (a : GReg) (s : State) : Result :=
  run (.cinv a) (fun _ t v => do
    let s ← get
    match s.lineAt t (v.getD 0 0).toNat with
    | some n => set (s.modTile t.last.tile fun x => { x with l1 := l1Cut x.l1 n })
    | none => pure ()
    return {}) s

def execCinvAll (s : State) : Result :=
  run .cinvAll (fun _ t _ => do
    modify fun s => s.modTile t.last.tile fun x => { x with l1 := [] }
    return {}) s

/-- A line prefetched (R173, R403): into its home slice, and at level .l1 into the core's partition of the L1. It is no
demand access. A line that holds an uncorrectable error, one of bypass retention, and one whose set is pinned whole are not
taken. -/
def State.prefetch (s : State) (id : Nat) (t : Task) (va : Nat) (p : Phys) (ret : Nat) (l1 : Bool) : State :=
  if p.pa / 256 ∈ s.errored || ret == 3 || (l2Look s.l2 (p.pa / 256)).isNone && s.l2Pinned (p.pa / 256) then s else
  let fill := l1 && (l1Look (s.tile t.last.tile).l1 (p.pa / 64)).isNone
  let g : Target := .phys (p.pa / 64 * 64) false
  let s := s.settlePath t.last.tile id (.place t.vd id g) g 64
  let s := (s.l2Access p.pa 1 ret false).1
  let s := if fill then s.fillL1 t.last (p.pa / 64) else s
  s.traffic 0 0 (if fill then 2 else 0) t.vd id t.last va 0 g { size := if fill then 64 else 0 }

/-- Does a PF of level .l1 fetch its line for the L1? -/
def State.prefills (s : State) (t : Task) (p : Phys) (ret : Nat) : Bool :=
  ret != 3 && (l1Look (s.tile t.last.tile).l1 (p.pa / 64)).isNone

/-- PF (R403). A fill of the L1 is granted its 64 bytes first (R317). -/
def execPf (b : GReg) (h : Hint) (l : PfLevel) (o : BitVec 12) (s : State) : Result :=
  run (.pf b h l o) (fun id t v => do
    let va := (v.getD 0 0 + sxi o).toNat
    match (← get).quietly t va true with
    | some p =>
      if l = .l1 && (← get).prefills t p (Hint.effective h p.ret) then budget t (.phys p.pa false) 64
      modify fun s => s.prefetch id t va p (Hint.effective h p.ret) (l = .l1)
    | none => pure ()
    return {}) s

end Sys2Proof.Machine
end

