-- ==== Sys2Proof/Machine/Atomics.lean ====
section
/-! DEFINITION. Atomics (spec/21 R350 to R353): their checks, their order, the operation at the home. -/

namespace Sys2Proof.Machine

/-- Does an order release; does it acquire (R350)? -/
def Order.releases : Order → Bool
  | .rel | .ar => true
  | _ => false
def Order.acquires : Order → Bool
  | .acq | .ar => true
  | _ => false

/-- What both atomics do (R351, R353): `f` answers the new value of the location, none where it is not written, and
`signed` whether the old value returns sign-extended; its request names `function` and carries the doublewords of `data` in payload flits (R234). -/
def atomic (i : Instr) (dw : Bool) (o : Order) (c : Scope) (signed : Bool) (f : Task → Nat → Nat → Option Nat)
    (s : State) (function : Nat) (data : Task → List Word := fun _ => []) : Result :=
  run i (fun id t v => do
    let n := if dw then 8 else 4
    let a := (v.getD 0 0).toNat
    if a % n ≠ 0 then trap 2 (v.getD 0 0)
    let _ ← resolve id t a .store
    if Order.releases o then modify fun (s : State) => s.release id c
    let (g, k) ← atomicAt id t a n
    let old ← atomicRead a k n
    match f t old ((v.getD 1 0).toNat % 2 ^ (8 * n)) with
    | some x => do
      match g with
      | .phys .. => reserve t.vd a
      | _ => pure ()
      atomicWrite t.vd a g k n x
    | none => pure ()
    modify fun (s : State) => s.atomicTraffic id t a g (data t) (v.getD 1 0) (extend signed n old)
      { size := n, scope := c.code.toNat, order := o.code.toNat, function := function }
    if Order.acquires o then modify fun (s : State) => s.acquire id c
    return { vals := [extend signed n old] }) s

/-- A value of `n` bytes as a signed integer. -/
def signedOf (n x : Nat) : Int := if x < 2 ^ (8 * n - 1) then x else (x : Int) - 2 ^ (8 * n)

def width (dw : Bool) : Nat := if dw then 8 else 4

def execAmoAdd (d a b : GReg) (dw : Bool) (o : Order) (c : Scope) (s : State) : Result :=
  atomic (.amoAdd d a b dw o c) dw o c false (fun _ x y => some ((x + y) % 2 ^ (8 * width dw))) s 0
def execAmoAnd (d a b : GReg) (dw : Bool) (o : Order) (c : Scope) (s : State) : Result :=
  atomic (.amoAnd d a b dw o c) dw o c false (fun _ x y => some (x &&& y)) s 1
def execAmoOr (d a b : GReg) (dw : Bool) (o : Order) (c : Scope) (s : State) : Result :=
  atomic (.amoOr d a b dw o c) dw o c false (fun _ x y => some (x ||| y)) s 2
def execAmoXor (d a b : GReg) (dw : Bool) (o : Order) (c : Scope) (s : State) : Result :=
  atomic (.amoXor d a b dw o c) dw o c false (fun _ x y => some (x ^^^ y)) s 3
def execAmoMin (d a b : GReg) (dw : Bool) (o : Order) (c : Scope) (s : State) : Result :=
  atomic (.amoMin d a b dw o c) dw o c true
    (fun _ x y => some (if signedOf (width dw) y < signedOf (width dw) x then y else x)) s 4
def execAmoMax (d a b : GReg) (dw : Bool) (o : Order) (c : Scope) (s : State) : Result :=
  atomic (.amoMax d a b dw o c) dw o c true
    (fun _ x y => some (if signedOf (width dw) x < signedOf (width dw) y then y else x)) s 5
def execAmoMinn (d a b : GReg) (dw : Bool) (o : Order) (c : Scope) (s : State) : Result :=
  atomic (.amoMinn d a b dw o c) dw o c false (fun _ x y => some (Nat.min x y)) s 6
def execAmoMaxn (d a b : GReg) (dw : Bool) (o : Order) (c : Scope) (s : State) : Result :=
  atomic (.amoMaxn d a b dw o c) dw o c false (fun _ x y => some (Nat.max x y)) s 7
def execAmoSwap (d a b : GReg) (dw : Bool) (o : Order) (c : Scope) (s : State) : Result :=
  atomic (.amoSwap d a b dw o c) dw o c false (fun _ _ y => some y) s 8

/-- AMOCAS compares with the low bytes of gd; a failed one writes nothing (R353). -/
def execAmocas (d a b : GReg) (dw : Bool) (o : Order) (c : Scope) (s : State) : Result :=
  atomic (.amocas d a b dw o c) dw o c false
    (fun t x y => if x = (t.ctx.getG d).toNat % 2 ^ (8 * width dw) then some y else none) s 9 fun t => [t.ctx.getG d]

end Sys2Proof.Machine
end

