-- ==== Sys2Proof/Machine/Boot.lean ====
section
/-! DEFINITION. Boot, live update and attestation (spec/19 R333 to R335). -/

namespace Sys2Proof.Machine

/-! ### Boot (R333) -/

/-- A list of numbers as doublewords, with their number first. -/
def listWords (l : List Nat) : List Word := (l.length :: l).map (BitVec.ofNat 64)

/-- Every field of a record but its signature, as doublewords. -/
def CfgRecord.words (r : CfgRecord) : List Word :=
  listWords [r.type, r.version, r.length, r.rollback] ++ listWords [r.presets.length] ++ r.presets.flatMap listWords ++
    listWords [r.homeMap] ++ listWords r.sliceStops ++ listWords r.hostStops ++ listWords r.peerStops ++
    listWords [r.moduleId.toNat] ++ listWords (r.routes.flatMap fun x => [x.1, x.2]) ++ r.rest

/-- The SHA-512 of a record, with and without its signature. -/
def CfgRecord.signed (r : CfgRecord) : BitVec 512 := Config.sha512 (CfgRecord.words r)
def CfgRecord.digest (r : CfgRecord) : BitVec 512 := Config.sha512 (CfgRecord.words r ++ listWords [r.signature.1, r.signature.2])

/-- Does a record pass: its signature is one of the vendor key for every other field, and its counter is not below the fused
one? -/
def CfgRecord.passes (r : CfgRecord) (fused : Nat) : Bool :=
  r.signature.2 = Config.vendorSign (CfgRecord.signed r) r.signature.1 && fused ≤ r.rollback

/-- Does a slot pass: it holds records, and each of them passes? -/
def slotPasses (l : List CfgRecord) (fused : Nat) : Bool := !l.isEmpty && l.all fun r => CfgRecord.passes r fused

/-- The record of a type in a slot. -/
def recordOf (l : List CfgRecord) (type : Nat) : Option CfgRecord := l.find? fun r => r.type = type

/-- The module runs the records of a slot: the preset cycles (R243), the home map (R16), the stops (R232), the module id and
the route table (R332). The telemetry ring's header says how long the ring is (R323). -/
def State.runSlot (s : State) (slot : Nat) (active inactive : List CfgRecord) : State :=
  let take {α : Type} (type : Nat) (f : CfgRecord → α) (none' : α) : α := ((recordOf active type).map f).getD none'
  let s : State := { s with
    boot := .running, activeSlot := slot, active := active, inactive := inactive,
    presets := take 1 (fun r => r.presets) [], homeMap := take 2 (fun r => r.homeMap) 0,
    sliceStops := take 3 (fun r => r.sliceStops) [], hostStops := take 3 (fun r => r.hostStops) [],
    peerStops := take 3 (fun r => r.peerStops) [],
    moduleId := take 4 (fun r => r.moduleId) 0, routes := take 4 (fun r => r.routes) [],
    telemetryBase := Config.telemetryBase, telemetryK := Config.telemetryExponent }
  s.writeDword (s.telemetryBase + 0x10) (BitVec.ofNat 64 s.telemetryK)

/-- BOOT: the active slot, or the other where a record of it fails; with both failed the module stays in reset, and the CXL.io
status registers say so. -/
def execBoot (slotA slotB : List CfgRecord) (s : State) : Result :=
  event s (
    if s.boot ≠ .inReset then none
    else
      let fused := max s.rollback Config.fusedRollback
      let s : State := { s with rollback := fused }
      let (a, b) := if s.activeSlot = 0 then (slotA, slotB) else (slotB, slotA)
      if slotPasses a fused then some (s.runSlot s.activeSlot a b)
      else if slotPasses b fused then some (s.runSlot (1 - s.activeSlot) b a)
      else some { s with boot := .failed, cxlStatus := Config.bootFailure })

/-! ### Live update (R334) -/

/-- Does a die serve a device: does a device own a tile of it? -/
def State.serves (s : State) (die : Nat) : Bool := s.tiles.any fun x => x.1 / 256 = die && x.2.owner.isSome

/-- Every die runs the new records: they are the active ones, and the fused counter rises to the least of theirs. What boot
firmware has fixed stays as it is while the module runs (R16, R232, R243, R332). -/
def State.switchOver (s : State) : State :=
  let least := s.inactive.foldl (fun n r => min n r.rollback) ((s.inactive.head?.map fun r => r.rollback).getD s.rollback)
  { s with activeSlot := 1 - s.activeSlot, active := s.inactive, inactive := s.active,
           rollback := max s.rollback least, dies := s.dies.map fun d => { d with updated := false } }

/-- LIVE_UPDATE: the records are written to the inactive slot and checked, before any die runs them; then one die is
switched, once it serves no device. -/
def execLiveUpdate (recs : List CfgRecord) (die : Nat) (s : State) : Result :=
  event s (
    if s.boot ≠ .running then none
    else
      let begun := s.dies.toList.any fun d => d.updated
      let s : State := if begun then s else { s with inactive := recs }
      if !slotPasses s.inactive s.rollback ∨ s.serves die then some s
      else if h : die < 4 then
        let s : State := { s with dies := s.dies.set die { s.dies[die] with updated := true } }
        some (if s.dies.toList.all fun d => d.updated then s.switchOver else s)
      else some s)

/-! ### Attestation (R335) -/

/-- The order of SPDM 1.2: version, capabilities, algorithms, then the rest. A request out of order is answered by an
ERROR. -/
def spdmError : List Word := [0x7F]

def execGetVersion (s : State) : Result := .next { s with spdm := 1, response := [0x12] }

/-- GET_CAPABILITIES: the six requests that the module supports, by their SPDM request codes. -/
def execGetCapabilities (s : State) : Result :=
  .next (if s.spdm = 1 then { s with spdm := 2, response := [0x84, 0xE1, 0xE3, 0x81, 0x82, 0xE0] }
    else { s with response := spdmError })

/-- NEGOTIATE_ALGORITHMS: ECDSA on P-521 (521) and SHA-512 (512). -/
def execNegotiateAlgorithms (s : State) : Result :=
  .next (if s.spdm = 2 then { s with spdm := 3, response := [521, 512] } else { s with response := spdmError })

/-- A 512-bit digest as words. -/
def digestWords (d : BitVec 512) : List Word := (List.range 8).map fun i => d.extractLsb' (64 * i) 64

def execGetDigests (s : State) : Result :=
  .next { s with response := if s.spdm = 3 then digestWords (Config.sha512 Config.certificate) else spdmError }

def execGetCertificate (s : State) : Result :=
  .next { s with response := if s.spdm = 3 then Config.certificate else spdmError }

/-- The records of a slot in type order. -/
def inTypeOrder (l : List CfgRecord) : List CfgRecord := (List.range 5).flatMap fun t => l.filter fun r => r.type = t

/-- The records that dies run: those of the active slot while a die runs them, and those of an update from the die that
it reached first. -/
def State.measured (s : State) : List CfgRecord :=
  (if s.dies.toList.all fun d => d.updated then [] else inTypeOrder s.active) ++
    (if s.dies.toList.any fun d => d.updated then inTypeOrder s.inactive else [])

def execGetMeasurements (s : State) : Result :=
  .next { s with response := if s.spdm = 3 then s.measured.flatMap (fun r => digestWords (CfgRecord.digest r)) else spdmError }

end Sys2Proof.Machine
end

