-- ==== Sys2Proof/Machine/Place.lean ====
section
/-! DEFINITION. Placing a task on a thread (spec/03 R76 to R78; spec/04 R98, R99; spec/12 R248; spec/13 R253, R261, R265,
R273). -/

namespace Sys2Proof.Machine

/-! ### Distances (R102, R235, R274) -/

/-- Hops between two positions of a ring of 16. -/
def ringHops (a b : Nat) : Nat := min ((a + 16 - b) % 16) ((b + 16 - a) % 16)

/-- Hops of one leg: along the ring, or to the gateway, over the bridge, which counts four, and on. -/
def legHops (dieA a dieB b : Nat) : Nat :=
  if dieA = dieB then ringHops a b
  else if dieA < dieB then ringHops a 15 + 4 + ringHops 0 b
  else ringHops a 0 + 4 + ringHops 15 b

/-- Hops along the route between two tiles. -/
def hops (a b : Nat) : Nat :=
  legHops (dieOf a % 2) (colOf a) (dieOf b % 2) (colOf b) + legHops (dieOf a / 2) (rowOf a) (dieOf b / 2) (rowOf b)

/-- The compute tiles of a device that take tasks. -/
def State.computeTiles (s : State) (vd : Nat) : List Nat :=
  (s.tiles.map (·.1)).filter fun n => s.computes vd n

/-- The nearest compute tile of a device to a tile, the lower number on a tie (R274). -/
def State.nearestTile (s : State) (vd tile : Nat) : Option Nat :=
  smallest (fun n => hops tile n * 1024 + n) ((s.computeTiles vd).filter (· ≠ tile))

/-! ### The order of dispatch (R99) -/

/-- The class of a READY task. -/
def Task.cls (t : Task) : Nat := if t.ran then 1 else if t.descPrio < t.prio then 2 else 3

/-- The key by which a dispatcher takes tasks: level, class, readytime, newest first for class 3 in depth-first mode;
smaller goes first. -/
def Task.order (t : Task) (depthFirst : Bool) : Nat :=
  ((7 - t.prio) * 4 + t.cls) * 2 ^ 64 +
    (if t.cls = 3 && depthFirst then 2 ^ 64 - 1 - t.readytime % 2 ^ 64 else t.readytime % 2 ^ 64)

/-- Tasks by the order of dispatch; of two with the same level, class and readytime the one made first goes first
(notes/assumptions/77.md). -/
def State.inOrder (_s : State) (depthFirst : Bool) (l : List (Nat × Task)) : List (Nat × Task) :=
  let key (x : Nat × Task) : Nat := x.2.order depthFirst
  let rec ins (x : Nat × Task) : List (Nat × Task) → List (Nat × Task)
    | [] => [x]
    | y :: r => if key x < key y then x :: y :: r else y :: ins x r
  l.foldl (fun r x => ins x r) []

/-! ### The extent table (R253) -/

/-- The leaves of up to `n` pages from an address, below an end; a malformed entry is left out. '32 pages' worth' of larger
pages is taken as 32 leaves of whatever size (notes/assumptions/75.md). -/
def State.extentLeaves (s : State) (vd fin : Nat) : Nat → Nat → List TlbEntry
  | 0, _ => []
  | n + 1, va =>
    if fin ≤ va ∨ Config.windowBase ≤ va then [] else
    match s.walk (s.vd vd).root va with
    | .ok (e, level, pte) =>
      { vd := vd, vpn := va / pageSize level, level := level, leaf := e, pte := pte } ::
        s.extentLeaves vd fin n ((va / pageSize level + 1) * pageSize level)
    | .error _ => s.extentLeaves vd fin n ((va / 65536 + 1) * 65536)

def State.extentTable (s : State) (t : Task) : List TlbEntry :=
  t.extents.flatMap fun x => s.extentLeaves t.vd (x.base + x.len) 32 x.base

/-! ### Dispatch -/

/-- Is a thread kept for another READY task (R92, R93)? -/
def State.keptForOther (s : State) (id : Nat) (p : Place) : Bool :=
  s.tasks.any fun y => y.1 ≠ id && y.2.direct = some p && y.2.status = .ready

/-- Put the saved window back, into both banks (R273): the window's bytes, bank 0 first. -/
def State.restoreWindow (s : State) (tile : Nat) (w : Window) (cells : List (Nat × Byte)) : State :=
  let bank (b : Nat) := sramKey tile (b * Config.bankBytes + w.off)
  let part (b : Nat) := cells.filterMap fun c =>
    if c.1 / w.size = b then some (bank b + c.1 % w.size, c.2) else none
  { s with mem := (s.mem.replace (bank 0) w.size (part 0)).replace (bank 1) w.size (part 1) }

/-- The bytes of a window at its first dispatch (R76): each is what was left there, or zero, which of the two is open. -/
def State.unspecWindow (s : State) (tile o size : Nat) : State :=
  let within (k : Nat) : Bool := [o, Config.bankBytes + o].any fun b => sramKey tile b ≤ k && k < sramKey tile b + size
  { s with mem := s.mem.filter fun c => !within c.1 || Config.keeps (s.draws + c.1 % 2 ^ 24), draws := s.draws + 2 ^ 24 }

/-- The window of a task that is about to run on a tile: its own where it has one there, a new one, or a restored one. -/
def State.placeWindow (s : State) (id : Nat) (t : Task) (tile lid : Nat) : Option Window × State :=
  match t.window with
  | none =>
    if t.scratch = 0 then (none, s) else
    match lowestFit (s.windows tile) t.scratch with
    | some o =>
      (some { size := t.scratch, tile := some tile, off := o, bank := 0, lid := lid, origOff := o },
        s.unspecWindow tile o t.scratch)
    | none => (none, s)
  | some w =>
    if w.tile.isSome then (some w, s) else
    match lowestFit (s.windows tile) w.size with
    | some o =>
      let w' := { w with tile := some tile, off := o }
      match t.saved with
      | some sv =>
        let s := s.restoreWindow tile w' sv.window
        (some w', (s.moveMarks (savedKey id 0) (sramKey tile o) w.size).moveMarks
          (savedKey id Config.bankBytes) (sramKey tile (Config.bankBytes + o)) w.size)
      | none => (some w', s)
    | none => (some w, s)

/-- Commands re-enter a queue at its head, behind one that has started (R273). -/
def Core.reenter (c : Core) (q : EngQ) (l : List Cmd) : Core :=
  let (on, rest) := (c.queue q).partition fun x => x.started
  c.setQueue q (on ++ l ++ rest)

/-- Put the rest of what a save holds back into the core (R273): partition and slots, the rings of its window that commands
have named, un-started commands at the heads of the queues in their order, the subscription at the window's new place, running again where the core runs none. -/
def State.restoreCore (s : State) (id : Nat) (t : Task) (p : Place) : State :=
  match t.saved with
  | none => s
  | some sv =>
    s.modCore p.tile p.core fun c =>
      let c := match sv.acc with
        | some a => { c with acc := a, accErr := sv.accErr, owner := some id, slots := sv.slots }
        | none => c
      let c := { c with rings := (sv.rings.map fun r => (id, r)) ++ c.rings }
      let c := [EngQ.matrix, .copy, .collective, .stream].foldl (fun c q =>
        c.reenter q ((sv.cmds.filter fun x => x.1 = q).map fun x => { x.2 with core := (p.tile, p.core) })) c
      match sv.sub with
      | some u =>
        -- a quay streamer of the die that holds the ring (R190)
        let u := { u with streamer := 8 * dieOf p.tile + u.streamer % 8, cmd := { u.cmd with core := (p.tile, p.core) } }
        let free := c.sub.isNone
        let c := c.reenter .stream [{ u.cmd with started := free }]
        if free then { c with sub := some u } else { c with paused := c.paused ++ [u] }
      | none => c

/-- Dispatch a task onto a thread (R78, R98, R99, R109, R209): it runs, its window and its save are in place, its
priority is its descriptor's again, and its first access follows an acquire. A task whose fault record reads 2 ends
instead (R261, R265); one whose held push was refused traps (R413); neither while a move holds a store of the task, which
its end would release (R205). The record of a fork keeps its ran flag clear, and
that of a gang has had it set at the placement (notes/assumptions/76.md). -/
def State.startOn (s : State) (id : Nat) (p : Place) : State :=
  match s.task? id with
  | none => s
  | some t =>
    let failed : Bool := match t.fault with
      | some r => !r.read && s.byteAt (r.record + 0x18) == 2
      | none => false
    let refused : Bool := match t.woke with
      | some (.trap ..) => true
      | _ => false
    if (failed || refused) && s.heldStores id then s
    else if failed then s.endTask id (.failed 0x15)
    else
      let lid := match (s.tile p.tile).owner with
        | some (_, l) => l
        | none => 0
      let (w, s) := s.placeWindow id t p.tile lid
      let s := s.restoreCore id t p
      let s := s.setTask id { t with
        status := .running p
        since := s.cycles
        ran := true
        preempted := false
        fault := t.fault.map fun r => { r with read := true }
        lid := lid
        prio := t.descPrio
        home := clusterOf p.tile
        last := p
        bound := none
        window := w
        saved := none
        heldTill := s.masterAt p.tile + t.heldTill
        due := false
        direct := none
        extTable := s.extentTable t }
      let s := match t.ident with
        | .ordinary i => s.modFut t.vd i fun f =>
            if f.state = 5 then { f with prio := t.descPrio } else { f with state := 3, ran := true, prio := t.descPrio }
        | _ => s
      let s := s.acquire id .module
      match t.woke with
      | some (.trap c v) => s.takeTrap id c v 0
      | _ => s

/-! ### Making a task -/

/-- The number of bytes of a context area (R272). -/
def contextBytes : Nat := 0xA2000

/-- The lowest context area of a device's pool that no task of it uses. -/
def State.freshContext (s : State) (vd : Nat) : Nat :=
  let v := s.vd vd
  let used := s.tasks.filterMap fun x => if x.2.vd = vd then x.2.context else none
  match (List.range (used.length + 1)).find? fun k => !(v.ctxBase + k * contextBytes ∈ used) with
  | some k => v.ctxBase + k * contextBytes
  | none => v.ctxBase

/-- A descriptor as read (R73, R74). -/
structure Desc where
  entry : Word
  scratch : Nat
  prio : Nat
  extents : List Extent
  deriving DecidableEq, Repr

/-- A new task (R77), at no thread yet: registers zero but the pc and those given. -/
def State.addTask (s : State) (vd : Nat) (ident : Ident) (d : Desc) (st : Status) (home : Nat) (c : Ctx) : Nat × State :=
  let id := s.nextTask
  let t : Task :=
    { vd := vd, ident := ident, status := st, ctx := { c with pc := d.entry }, scratch := d.scratch,
      descPrio := d.prio, prio := d.prio, readytime := s.cycles, home := home, extents := d.extents,
      context := some (s.freshContext vd) }
  (id, { s.setTask id t with nextTask := id + 1 })

end Sys2Proof.Machine
end

