-- ==== Sys2Proof/Machine/Futures.lean ====
section
/-! DEFINITION. The instructions on handles (spec/05 R119 to R130; spec/04 R107; spec/21 R361, R368, R370 to R379; spec/23
R421, R422). -/

namespace Sys2Proof.Machine

/-- check() of R119: a handle that fails it traps with cause 0x09. -/
def checkHandle (vd : Nat) (h : Word) : Act Unit := do
  if !((← get).goodHandle vd h) then trap 9 h

/-- The handle in a register, which must not be empty. -/
def heldHandle (t : Task) (r : HReg) : Act Word := do
  let h := t.ctx.getH r
  if h = 0 then trap 9 0
  checkHandle t.vd h
  return h

/-- The count cannot pass 2^24 − 1 (R122). -/
def roomFor (vd : Nat) (h : Word) (n : Nat) : Act Unit := do
  if 2 ^ 24 - 1 < ((← get).fut vd (hIndex h)).reach + n then trap 0xB h

/-- The status word of R127. -/
def Fut.status (f : Fut) : Word := BitVec.ofNat 64 (f.cause * 256 + f.detail * 16 + f.state)

/-- FWAIT (R128): the wait reacher stands from its park to its return. -/
def execFwait (h : HReg) (a b : GReg) (s : State) : Result :=
  run (.fwait h a b) (fun id t _ => do
    let hd ← heldHandle t h
    if hIndex hd = t.ident.index then trap 9 hd
    let f := (← get).fut t.vd (hIndex hd)
    if finalState f.state then
      if t.waitReacher.isSome then
        modify fun s => s.modTask id fun t => { t with waitReacher := none }
        modify fun s => s.dropHandle t.vd hd
      modify fun s => s.acquire id .module
      return { vals := [if f.state = 5 then f.result else 0, f.status] }
    else
      if t.waitReacher.isNone then
        roomFor t.vd hd 1
        modify fun s => (s.raise t.vd (hIndex hd)).modTask id fun t => { t with waitReacher := some hd }
      parkOn (.future (hIndex hd))) s

def execFtest (h : HReg) (a : GReg) (s : State) : Result :=
  run (.ftest h a) (fun id t _ => do
    let hd := t.ctx.getH h
    if hd = 0 then return { vals := [0] }
    checkHandle t.vd hd
    let f := (← get).fut t.vd (hIndex hd)
    if finalState f.state then modify fun s => s.acquire id .module
    return { vals := [f.status] }) s

/-- FCANCEL by the rows of R131 and R132: of a task, a fork, a gang, an engine command, an enqueue. A command that has
begun runs to its completion, whose final state then is CANCELLED; so does a TUNSUB. -/
def State.cancelFut (s : State) (vd i : Nat) : State :=
  let f := s.fut vd i
  if finalState f.state then s
  else if f.kind = 1 then
    match s.taskOf vd i with
    | some x => s.doomTask x.1 true
    | none => s
  else if f.kind = 2 then
    match s.commands.find? fun c => c.vd = vd && c.fut = some i && !s.begun c with
    | some c => s.dropCmds [c.id]
    | none => s.modFut vd i fun f => { f with cancel := true }
  else if f.kind = 3 then s.complete vd i 6 0 0 0
  else if (s.vd vd).gangs.any fun g => g.fut = i then
    let s := s.modVd vd fun v => { v with gangs := v.gangs.filter fun g => g.fut ≠ i }
    (s.complete vd i 6 0 0 0).closeFut vd i
  else s.doomAll vd i true

def execFcancel (h : HReg) (s : State) : Result :=
  run (.fcancel h) (fun _ t _ => do
    let hd ← heldHandle t h
    modify fun s => s.cancelFut t.vd (hIndex hd)
    return {}) s

def execFref (h st : HReg) (s : State) : Result :=
  run (.fref h st) (fun id t _ => do
    let hd := t.ctx.getH st
    if hd = 0 then modify fun s => s.putH id h 0
    else
      checkHandle t.vd hd
      if h ≠ st then
        roomFor t.vd hd 1
        modify fun s => (s.raise t.vd (hIndex hd)).putH id h hd
    return {}) s

/-- FDROP (R126, R372): neither an empty register nor a handle that fails the check traps. -/
def execFdrop (h : HReg) (s : State) : Result :=
  run (.fdrop h) (fun id _ _ => do
    modify fun s => s.putH id h 0
    return {}) s

/-- The doubleword of a pinned slot at its home, with its target and key. A slot whose line holds an uncorrectable error meets
the checks that are left, `checks` and that of its journal entry, before the error traps (R342, R375). -/
def slotAt (id : Nat) (t : Task) (a : Word) (checks : Act Unit) : Act (Target × Nat × Word) := do
  if a.toNat % 8 ≠ 0 then trap 2 a
  let (g, k) ← atomicAt id t a.toNat 8
  if k / 256 ∈ (← get).errored then
    checks
    match g with
    | .phys .. => reserve t.vd a.toNat
    | _ => pure ()
  let x ← atomicRead a.toNat k 8
  return (g, k, BitVec.ofNat 64 x)

/-- Write a pinned slot: journalled, with its pin (R193). -/
def slotWrite (t : Task) (a : Word) (g : Target) (k : Nat) (x : Word) : Act Unit := do
  match g with
  | .phys .. => reserve t.vd a.toNat
  | _ => pure ()
  atomicWrite t.vd a.toNat g k 8 x.toNat true

/-- The packets of an access to a pinned slot (R234). -/
def State.slotTraffic (s : State) (id : Nat) (t : Task) (a : Word) (g : Target) (x y : Word) (function : Nat) : State :=
  s.atomicTraffic id t a.toNat g [] x y { size := 8, scope := 1, function := function }

def execFpin (h : HReg) (a : GReg) (s : State) : Result :=
  run (.fpin h a) (fun id t v => do
    let hd ← heldHandle t h
    let (g, k, x) ← slotAt id t (v.getD 0 0) (roomFor t.vd hd 1)
    if x ≠ 0 then trap 9 x
    roomFor t.vd hd 1
    slotWrite t (v.getD 0 0) g k hd
    modify fun s => (s.slotTraffic id t (v.getD 0 0) g hd x 10).raise t.vd (hIndex hd)
    return {}) s

def execFtake (h : HReg) (a : GReg) (s : State) : Result :=
  run (.ftake h a) (fun id t v => do
    let (g, k, x) ← slotAt id t (v.getD 0 0) (pure ())
    if x ≠ 0 then
      checkHandle t.vd x
      slotWrite t (v.getD 0 0) g k 0
    modify fun s => (s.slotTraffic id t (v.getD 0 0) g 0 x 11).putH id h x
    return {}) s

/-- FDONE (R130): completes an ordinary task's future; ends a recruit; records the gang's result in thread (0, 0). A task
whose doom has not reached its core by then is not doomed any more: its future is DONE, and it runs on to its EXIT (R131). -/
def execFdone (a : GReg) (s : State) : Result :=
  run (.fdone a) (fun id t v => do
    let x := v.getD 0 0
    match t.ident with
    | .ordinary i =>
      modify fun s => (s.release id .module).complete t.vd i 5 x 0 0
      modify fun s => s.modTask id fun t => { t with fdone := true, doomed := false, cancel := false }
    | .recruit .. => throw (.over ((← get).endTask id (.done 0)))
    | .gangThread g gi ti =>
      if gi = 0 ∧ ti = 0 ∧ ¬ t.fdone then
        modify fun s => ((s.release id .module).modFut t.vd g fun f => { f with result := x }).modTask id fun t =>
          { t with fdone := true }
    return {}) s

/-- DEPDEC on a handle (R107): `tval` is what a count of zero reports (R142). -/
def depdec (id : Nat) (t : Task) (hd tval : Word) : Act Done := do
  if hd = 0 then trap 9 0
  checkHandle t.vd hd
  if hKind hd ≠ 1 then trap 9 hd
  if ((← get).fut t.vd (hIndex hd)).dep = 0 then trap 0xA tval
  modify fun s => ((s.release id .module).feedChild t.vd (hIndex hd)).futMessage 0x25 t.vd (hIndex hd)
  return {}

def execDepdec (h : HReg) (s : State) : Result :=
  run (.depdec h) (fun id t _ => depdec id t (t.ctx.getH h) (t.ctx.getH h)) s

def execDepdecMem (a : GReg) (s : State) : Result :=
  run (.depdecMem a) (fun id t v => do
    let ga := v.getD 0 0
    if ga.toNat % 8 ≠ 0 then trap 2 ga
    let hd ← loadDword id t ga.toNat
    depdec id t hd ga) s

/-- RPOINT does nothing but stop a doomed task (R421). -/
def execRpoint (s : State) : Result := run .rpoint (fun _ _ _ => return {}) s

def execSelf (h : HReg) (s : State) : Result :=
  run (.self h) (fun id t _ => do
    let i := t.ident.index
    let hd := handleOf ((← get).fut t.vd i) i
    roomFor t.vd hd 1
    modify fun s => (s.raise t.vd i).putH id h hd
    return {}) s

/-- EXIT (R368) ends the task. -/
def execExit (a : GReg) (s : State) : Result :=
  run (.exit a) (fun id _ v => do throw (.over ((← get).endTask id (.done (v.getD 0 0))))) s

end Sys2Proof.Machine
end

