-- ==== Sys2Proof/Machine/Tasks.lean ====
section
/-! DEFINITION. SPAWN, FORK, GANG and YIELD (spec/03 R73 to R92; spec/06 R140; spec/21 R374; spec/22 R380; spec/23 R429 to
R431; spec/24 R469). -/

namespace Sys2Proof.Machine

/-! ### Descriptors (R75) -/

/-- The entries of an extent list, whose addresses have been checked. -/
def readExtents (id : Nat) (t : Task) (desc : Word) : Nat → Nat → Act (List Extent)
  | _, 0 => return []
  | a, n + 1 => do
    let b ← loadBytes id t (a % 2 ^ 64) 16
    let len := ofBytes (b.drop 8)
    let rest ← readExtents id t desc (a + 16) n
    if len = 0 ∨ 2 ^ 32 < len then trap 1 desc
    return { base := ofBytes (b.take 8), len := len } :: rest

/-- The doubleword at an offset of bytes read. -/
def dwordIn (b : List Byte) (off : Nat) : Nat := ofBytes ((b.drop off).take 8)

/-- Read and check a descriptor, in the order of R75. -/
def readDesc (id : Nat) (t : Task) (a : Word) : Act Desc := do
  if a.toNat % 64 ≠ 0 then trap 2 a
  let b ← loadBytes id t a.toNat 64
  let entry := dwordIn b 0
  let c := dwordIn b 8
  let list := dwordIn b 16
  let n := bits c 23 20
  let scratch := bits c 10 0
  let reserved := 2 ^ 24 ≤ c ∨ c.testBit 19 ∨ bits c 15 11 ≠ 0 ∨ (b.drop 24).any (· ≠ 0)
  if reserved ∨ entry % 4 ≠ 0 ∨ 1024 < scratch ∨ 8 < n ∨ (n = 0 ∧ list ≠ 0) then trap 1 a
  checkPages id t .load ((List.range (16 * n)).map fun i => (list + i) % 2 ^ 64)
  let ext ← readExtents id t a list n
  return { entry := BitVec.ofNat 64 entry, scratch := scratch * 256, prio := bits c 18 16, extents := ext }

/-! ### SPAWN -/

/-- The pair's second register. -/
def pairSecond (b : GReg) : GReg := b + 1

/-- SPAWN (R429); `pass`: the handle register of fn 0x01. -/
def spawnBody (h : HReg) (b : GReg) (pass : Option HReg) : Nat → Task → List Word → Act Done := fun id t v => do
  let src := v.getD 0 0
  let d ← readDesc id t src
  let sw := t.ctx.getG b
  let arg := t.ctx.getG (pairSecond b)
  if 2 ^ 18 ≤ sw.toNat then trap 1 sw
  let feed := sw.getLsbD 16
  let detach := sw.getLsbD 17
  let dep := bvBits sw 15 0
  if feed ∧ pass.isNone then trap 1 sw
  let f := match pass with
    | some p => t.ctx.getH p
    | none => 0
  if f = 0 ∧ feed then trap 9 0
  if f ≠ 0 then
    checkHandle t.vd f
    -- a last drop taken before it has doomed F, which is freed once its task is torn down (R430)
    let x := (← get).fut t.vd (hIndex f)
    if x.doomed ∧ x.reach = 0 then trap 9 f
  if feed ∧ dep = 0 then trap 0xA f
  let final := finalState ((← get).fut t.vd (hIndex f)).state
  if f ≠ 0 then roomFor t.vd f (1 + (if feed ∧ ¬ final then 1 else 0))
  let s ← get
  let ready := dep = 0 ∨ (dep = 1 ∧ feed ∧ final)
  let rec0 : Fut := { kind := 1, state := if ready then 2 else 1, reach := 1 + (if detach then 1 else 0),
                      dep := if feed ∧ final then dep - 1 else dep, source := src.toNat, arg := arg,
                      prio := d.prio, detach := detach, context := s.freshContext t.vd,
                      readytime := if ready then s.cycles else 0 }
  let i ← newFut t.vd rec0
  modify fun s => s.release id .module
  if f ≠ 0 then
    modify fun s => s.raise t.vd (hIndex f)
    if feed ∧ ¬ final then
      modify fun s => (s.raise t.vd (hIndex f)).modFut t.vd (hIndex f) fun x => { x with feeds := x.feeds ++ [i] }
  let c : Ctx := ({} : Ctx).setG 1 arg
  modify fun s => (s.addTask t.vd (.ordinary i) d (if ready then .ready else .pending) (clusterOf t.last.tile)
    (c.setH 0 f)).2
  modify fun s => s.putH id h (handleOf (s.fut t.vd i) i)
  modify fun s => s.modCore t.last.tile t.last.core fun c =>
    { c with lastSpawn := c.lastSpawn.setIfInBounds t.last.thread (some (s.masterAt t.last.tile)) }
  return {}

def execSpawn (h : HReg) (a b : GReg) (s : State) : Result := run (.spawn h a b) (spawnBody h b none) s
def execSpawnPass (h : HReg) (a b : GReg) (p : HReg) (s : State) : Result :=
  run (.spawnPass h a b p) (spawnBody h b (some p)) s

/-! ### GANG -/

/-- GANG (R380): the gang waits in its device's queue until its placement. The argument field of its record is the launch
record's argument (notes/assumptions/76.md). -/
def execGang (h : HReg) (a : GReg) (s : State) : Result :=
  run (.gang h a) (fun id t v => do
    let ga := v.getD 0 0
    if ga.toNat % 32 ≠ 0 then trap 2 ga
    let b ← loadBytes id t ga.toNat 32
    let shape := dwordIn b 16
    if 256 ≤ shape ∨ dwordIn b 24 ≠ 0 then trap 1 ga
    let d ← readDesc id t (BitVec.ofNat 64 (dwordIn b 0))
    let groups := bits shape 3 0 + 1
    let threads := bits shape 7 4 + 1
    let arg := BitVec.ofNat 64 (dwordIn b 8)
    if ((← get).vd t.vd).tileQuota < groups ∨ Config.bankBytes < threads * d.scratch then trap 1 ga
    let s ← get
    let i ← newFut t.vd { kind := 5, state := 2, reach := 1, source := ga.toNat, arg := arg, prio := d.prio,
                          readytime := s.cycles }
    modify fun s => s.release id .module
    modify fun s => s.putH id h (handleOf (s.fut t.vd i) i)
    let g : GangWait := { fut := i, groups := groups, threads := threads, entry := d.entry, arg := arg,
                          scratch := d.scratch, prio := d.prio, extents := d.extents }
    modify fun s => s.modVd t.vd fun v => { v with gangs := v.gangs ++ [g] }
    return {}) s

/-! ### FORK (R90 to R92) -/

/-- The bridges between two dies of the 2 × 2 arrangement (R11). -/
def bridges (a b : Nat) : Nat := (if a % 2 = b % 2 then 0 else 1) + (if a / 2 = b / 2 then 0 else 1)

/-- All tiles of the fan-out tree of a cluster, nearest tier first, in order of tile number within a tier. -/
def fanOut (cluster : Nat) : List Nat :=
  let all := List.range 1024
  let die := cluster / 64
  (all.filter fun n => clusterOf n = cluster) ++
  (all.filter fun n => clusterOf n ≠ cluster ∧ dieOf n = die) ++
  (all.filter fun n => bridges die (dieOf n) = 1) ++
  (all.filter fun n => bridges die (dieOf n) = 2)

/-- How many windows of a size fit in a tile's banks beside those that lie there, up to `n`. -/
def roomFits : Nat → List (Nat × Nat) → Nat → Nat
  | 0, _, _ => 0
  | n + 1, l, size =>
    match lowestFit l size with
    | some o => 1 + roomFits n ((o, size) :: l) size
    | none => 0

/-- The idle threads of a tile that count for a recruit of a descriptor: none that is kept for a task (R92, R93). -/
def State.idleThreads (s : State) (vd : Nat) (d : Desc) (tile : Nat) : List Place :=
  if !s.computes vd tile then [] else
  let kept (p : Place) : Bool := s.tasks.any fun x => x.2.direct = some p && x.2.status = .ready
  let idle := (placesOf tile).filter fun p => s.isIdle p && !kept p
  if d.scratch = 0 then idle else idle.take (roomFits 16 (s.windows tile) d.scratch)

/-- Pre-empted tasks of a device that wait at a level or above (R94). -/
def State.overdue (s : State) (vd prio : Nat) : List (Nat × Task) :=
  s.tasks.filter fun x => x.2.vd = vd && x.2.status = .ready && x.2.preempted && !x.2.doomed && prio ≤ x.2.prio

/-- They take the idle threads they can run on, before a task of that level that has not run: each the nearest to its
home, or the one that is kept for it; none that is kept for another task (R92, R93). -/
def State.placeOverdue (s : State) (vd prio : Nat) : State :=
  (s.inOrder false (s.overdue vd prio)).foldl (fun s x =>
    let places := x.2.direct.toList ++ ((fanOut x.2.home).filter fun n => s.computes vd n).flatMap placesOf
    match places.find? fun p => s.mayRun x.2 p && !s.keptForOther x.1 p with
    | some p => s.startOn x.1 p
    | none => s) s

/-- Registers of recruit i of n (R91). -/
def recruitCtx (t g c n i : Nat) : Ctx :=
  let lo := i * c / n
  let hi := (i + 1) * c / n
  let w (x : Nat) : Word := BitVec.ofNat 64 x
  ((({} : Ctx).setG 1 (w (lo * g))).setG 2 (w (min (hi * g) t))).setG 3 (w i) |>.setG 4 (w n)

/-- Make the recruits of a fork, recruit 0 first: each on its thread, or the only one READY. -/
def State.recruits (s : State) (vd fut : Nat) (d : Desc) (home t g c n : Nat) : List Place → Nat → State
  | [], _ => s
  | p :: r, i =>
    let (id, s) := s.addTask vd (.recruit fut i) d .ready home (recruitCtx t g c n i)
    (s.startOn id p).recruits vd fut d home t g c n r (i + 1)

/-- FORK (R90 to R92, R374). No thread counts as idle while a pre-empted task of its level or above waits (R94). The argument
field of its record is 0, and so is its context field, as in the record of a gang, a command and an enqueue, whose records
have no task of their own: R79 does not say what they hold (notes/assumptions/76.md). -/
def execFork (h : HReg) (a b : GReg) (s : State) : Result :=
  run (.fork h a b) (fun id t v => do
    let src := v.getD 0 0
    let d ← readDesc id t src
    let trips := (t.ctx.getG b).toNat
    let grain := max 1 (t.ctx.getG (pairSecond b)).toNat
    let i ← newFut t.vd { kind := 4, state := 3, reach := 1, source := src.toNat, prio := d.prio }
    modify fun s => s.release id .module
    modify fun s => s.putH id h (handleOf (s.fut t.vd i) i)
    let chunks := (trips + grain - 1) / grain
    let home := clusterOf t.last.tile
    if trips = 0 then
      modify fun s => (s.complete t.vd i 5 0 0 0).closeFut t.vd i
    else
      modify fun s => s.placeOverdue t.vd d.prio
      let s ← get
      let most := min chunks 16384
      let places := if (s.overdue t.vd d.prio).isEmpty then
          ((fanOut home).flatMap fun n => s.idleThreads t.vd d n).take most
        else []
      let n := max 1 places.length
      modify fun s => s.modFut t.vd i fun f => { f with made := n, left := n }
      if places.isEmpty then
        modify fun s => (s.addTask t.vd (.recruit i 0) d .ready home (recruitCtx trips grain chunks 1 0)).2
      else
        modify fun s => s.recruits t.vd i d home trips grain chunks n places 0
    return {}) s

/-- YIELD (R469): a park whose wait is satisfied in the same cycle. -/
def execYield (s : State) : Result :=
  run .yield (fun id t _ => do
    modify fun s => s.modTask id fun x => { x.unkeep with ctx := { x.ctx with pc := t.ctx.pc + 4 } }
    modify fun s => (s.park id .yield).makeReady id none
    throw (.over (← get))) s

end Sys2Proof.Machine
end

