-- ==== Sys2Proof/Machine/Groups.lean ====
section
/-! DEFINITION. Groups, barriers and XPUT (spec/03 R88, R89; spec/08 R183, R184; spec/09 R211; spec/22 R381 to R385; spec/24
R468). -/

namespace Sys2Proof.Machine

/-- A group id; one above 4,095 traps. -/
def groupId (x : Word) : Act Nat := do
  if 4095 < x.toNat then trap 1 x
  return x.toNat

/-- The group of an id of which the task must be a member. -/
def ownGroup (id : Nat) (t : Task) (x : Word) : Act Nat := do
  let n ← groupId x
  if !((← get).group t.vd n).member id then trap 1 x
  return n

/-- GJOIN (R88, R384): membership counts the rounds that had begun (R447). -/
def execGjoin (a : GReg) (s : State) : Result :=
  run (.gjoin a) (fun id t v => do
    let n ← groupId (v.getD 0 0)
    let g := (← get).group t.vd n
    if !g.member id then
      modify fun s => s.setGroup t.vd n { g with members := g.members ++ [(id, g.begun)] }
    return {}) s

/-- GLEAVE (R385): a departure by exit; a non-member changes nothing. -/
def execGleave (a : GReg) (s : State) : Result :=
  run (.gleave a) (fun id t v => do
    if 4095 < (v.getD 0 0).toNat then trap 1 (Instr.word (.gleave a))
    modify fun s => s.depart t.vd (v.getD 0 0).toNat id (s.lidOf t) .exit
    return {}) s

/-- The arrival of a member in the current episode: a release, then the arrival (R382). -/
def State.arriveAt (s : State) (vd n id : Nat) : State :=
  let s := (s.release id .module).barrierMessage vd n id true
  let g := s.group vd n
  s.setGroup vd n { g with arrived := g.arrived ++ [(id, s.nextXput)] }

/-- GBAR (R382): the status of the episode, at once where the arrival fires it, else when its wake brings it. -/
def execGbar (a b : GReg) (s : State) : Result :=
  run (.gbar a b) (fun id t v => do
    let n ← ownGroup id t (v.getD 0 0)
    if ((← get).group t.vd n).hasArrived id then parkOn (.barrier n)
    modify fun s => s.arriveAt t.vd n id
    let s ← get
    if s.canFire t.vd n then
      set ((s.fire t.vd n).acquire id .module)
      return { vals := [(s.group t.vd n).status] }
    parkOn (.barrier n)) s

/-- GARRIVE (R381) does not wait; a second one changes nothing. -/
def execGarrive (a : GReg) (s : State) : Result :=
  run (.garrive a) (fun id t v => do
    let n ← ownGroup id t (v.getD 0 0)
    if !((← get).group t.vd n).hasArrived id then
      modify fun s => (s.arriveAt t.vd n id).tryFire t.vd n
    return {}) s

/-- XPUT (R183, R468): the packet leaves, after the thread's earlier stores (R202), and lands later. -/
def execXput (a b : GReg) (s : State) : Result :=
  run (.xput a b) (fun id t v => do
    let ga := v.getD 0 0
    let va := ga.toNat
    if va % 8 ≠ 0 then trap 2 ga
    if va < Config.windowBase ∨ Config.windowBase + 2 ^ 36 ≤ va ∨ Config.bankBytes ≤ va % 2 ^ 24 then trap 6 ga
    let lid := (va - Config.windowBase) / 2 ^ 24
    let off := va % 2 ^ 24
    let e := (← get).entry t.vd lid
    if ¬ t.owns lid off ∧ (e.role ≠ 1 ∨ e.state = 3) then trap 6 ga
    modify fun s => { (s.drain id).send 0x07 0 t.last.tile t.last.core t.vd ga (v.getD 1 0)
        (.place t.vd id (.window lid off (t.owns lid off))) (.xput s.nextXput t.vd id lid off (v.getD 1 0)) with
      nextXput := s.nextXput + 1 }
    return {}) s

end Sys2Proof.Machine
end

