-- ==== Sys2Proof/Machine/Queues.lean ====
section
/-! DEFINITION. The queue instructions (spec/23 R405 to R417). -/

namespace Sys2Proof.Machine

/-- The handle in a general register, and the queue that it names at its home: held while a move holds packets for it,
refused with cause 0x09 (R408). -/
def queueAt (id vd : Nat) (x : Word) : Act (Word32 × Queue) := do
  let h : Word32 := x.setWidth 32
  if (← get).queueHeld vd h then holdHere
  modify fun s => s.deliverMine id (((s.task? id).map fun t => t.last.tile).getD 0) vd h
  let s ← get
  match s.queue? vd h with
  | some q => return (h, q)
  | none => trap 9 (h.setWidth 64)

/-- QNEW (R415): the lowest free slot, or 0. -/
def execQnew (a b : GReg) (s : State) : Result :=
  run (.qnew a b) (fun _ t v => do
    let c := v.getD 0 0
    if 2 ^ 13 ≤ c.toNat then trap 1 c
    let lid := c.toNat % 4096
    let s ← get
    let e := s.entry t.vd lid
    if e.state = 2 then holdHere
    if e.role ≠ 2 ∨ e.state = 3 then trap 6 (BitVec.ofNat 64 lid)
    match (List.range 256).find? fun i => (look (s.vd t.vd).queues (lid, i)).isNone with
    | none => return { vals := [0] }
    | some i =>
      set ((s.modVd t.vd fun v => { v with queues := put v.queues (lid, i) { prio := c.getLsbD 12 } }).slotLive t.vd lid i)
      return { vals := [BitVec.ofNat 64 (lid * 2 ^ 20 + i * 2 ^ 12 + ((s.vd t.vd).slotGen lid i).toNat)] }) s

/-- The generation after a QFREE: from 4,095 to 1 (R405). -/
def nextGen (g : BitVec 12) : BitVec 12 := if g.toNat = 4095 then 1 else g + 1

/-- Where the in-tile part of a slot lies (R406). -/
def State.slotKey (s : State) (vd lid slot : Nat) : Nat :=
  let e := s.entry vd lid
  let off := 0x980000 + 0x800 * slot
  if e.backed then backedKey vd lid off else sramKey e.phys off

/-- The task of a held push is READY once no push of its instruction is held any more: past the instruction where all of them
have been made; where one is refused (R413), to trap with the registers of the pushing instruction, whose other effects stand
(notes/assumptions/33.md). -/
def State.pushSettled (s : State) (id : Nat) (left : List (Word32 × Option Nat)) (done : Option Kept) (before : Ctx)
    (refused : Option (Nat × Word)) : State :=
  if !left.isEmpty then s.modTask id fun t => { t with status := .blocked (.push left done before) } else
  let trap := match done with
    | none => refused
    | some k => (k.todo.bind fun l => l.head?).map fun n => (0xC, BitVec.ofNat 64 n)
  match trap with
  | none => s.makeReady id none
  | some (c, v) => (s.modTask id fun t => { done.elim t t.keep with ctx := before }).makeReady id (some (.trap c v))

/-- The push of a task that is held at a queue: its port, and what is left, kept and restored without it. -/
def State.pushOf (s : State) (id : Nat) (h : Word32) :
    Option (Option Nat × List (Word32 × Option Nat) × Option Kept × Ctx) :=
  match s.task? id with
  | none => none
  | some t =>
    match t.status with
    | .blocked (.push left done before) =>
      (left.find? fun x => x.1 = h).map fun x => (x.2, left.eraseIdx (left.findIdx fun x => x.1 = h), done, before)
    | _ => none

/-- Who waits for a held push learns that it is refused (R413); an enqueue completes STALE. -/
def State.refusePush (s : State) (vd : Nat) (h : Word32) (w : Pusher) : State :=
  match w with
  | .task id =>
    match s.pushOf id h with
    | none => s
    | some (port, left, done, before) =>
      s.pushSettled id left (done.map fun k => { k with todo := some (k.todo.getD [] ++ port.toList) }) before
        (some (match port with
          | some n => (0xC, BitVec.ofNat 64 n)
          | none => (9, h.setWidth 64)))
  | .enqueue f => s.answerHere vd f h true
  | .peer _ | .gone => s

/-- QFREE (R413), as one operation at the home. The enqueues of peers that are held are answered refused, each (R332). -/
def State.freeQueue (s : State) (vd : Nat) (h : Word32) (q : Queue) : State :=
  let lid := qLid h
  let slot := qSlot h
  let s := s.zeroRange (s.slotKey vd lid slot) 0x800
  let s := s.modVd vd fun v =>
    { v with queues := cut v.queues (lid, slot),
             slotGens := put v.slotGens (lid, slot) (nextGen (v.slotGen lid slot)) }
  let s := q.poppers.foldl (fun s id => s.makeReady id none) s
  let s := q.held.foldl (fun s x => s.refusePush vd h x.2) s
  let peers := q.held.filterMap fun x => match x.2 with
    | .peer _ => some 1
    | _ => none
  if peers.isEmpty then s else { s with response := peers }

def execQfree (a : GReg) (s : State) : Result :=
  run (.qfree a) (fun id t v => do
    let (h, q) ← queueAt id t.vd (v.getD 0 0)
    modify fun s => s.freeQueue t.vd h q
    return {}) s

/-- The port of a task as QBIND leaves it: no latch, and a handle. -/
def State.rebound (s : State) (id : Nat) (p : BitVec 3) (h : Word32) : State :=
  s.modTask id fun t => { t with ctx := t.ctx.setPort p.toNat { bound := h, latch := none } }

/-- QBIND (R410): a pending latch is discarded before the home is asked; a handle of zero unbinds. A refusal leaves the
binding as it was. -/
def execQbind (p : BitVec 3) (a : GReg) (s : State) : Result :=
  run (.qbind p a) (fun id t v => do
    let h : Word32 := (v.getD 0 0).setWidth 32
    if h ≠ 0 then
      if (← get).queueHeld t.vd h then holdHere
      modify fun s => s.deliverMine id t.last.tile t.vd h
      let s ← get
      if (s.queue? t.vd h).isNone then
        let s := s.rebound id p (t.ctx.port p.toNat).bound
        throw (.over (if s.trapWaits id then s else s.takeTrap id 9 (h.setWidth 64) 0))
    modify fun s => s.rebound id p h
    return {}) s

/-- QPUSH (R417): the release stands, and then the push; a held one parks the task. -/
def execQpush (a b : GReg) (s : State) : Result :=
  run (.qpush a b) (fun id t v => do
    let x := v.getD 0 0
    if (← get).queueHeld t.vd (x.setWidth 32) then holdHere
    let h : Word32 := x.setWidth 32
    modify fun s => (s.release id .module).deliverMine id t.last.tile t.vd h
    let s ← get
    match s.queue? t.vd h with
    | none => throw (.over (s.takeTrap id 9 (h.setWidth 64) 0))
    | some q =>
      let (s', held) := (s.message 0x20 t.last.tile t.vd (v.getD 1 0) (.tile t.vd (qLid h)) h.toNat).push t.vd h q (v.getD 1 0)
        (.task id)
      set s'
      if held then
        let fin (t : Task) : Task :=
          { t.unkeep with ctx := Done.next (.qpush a b) {} (t.ctx.clearLatches (Instr.qpush a b).sources) }
        throw (.over ((s'.modTask id fin).park id (.push [(h, none)] none t.ctx)))
      return {}) s

/-- QPOP (R416): the first entry, or a park as a popper, whose wake brings one. -/
def execQpop (a b : GReg) (s : State) : Result :=
  run (.qpop a b) (fun id t v => do
    let (h, q) ← queueAt id t.vd (v.getD 0 0)
    let (x, s') := (← get).pop t.vd h q id
    set s'
    match x with
    | some w => do
      modify fun s => s.acquire id .module
      return { vals := [w] }
    | none => parkOn (.pop h none)) s

/-- QENQ (R411, R332): a record, a release, and the entry on its way; it never traps. -/
def execQenq (h : HReg) (a b : GReg) (s : State) : Result :=
  run (.qenq h a b) (fun id t v => do
    let ga := v.getD 0 0
    let q : Word32 := ga.setWidth 32
    let m : BitVec 16 := ga.extractLsb' 32 16
    let i ← newFut t.vd { kind := 3, state := 3, reach := 1 }
    let away := m ≠ (← get).moduleId
    modify fun s => s.release id (if away then .system else .module)
    modify fun s => s.putH id h (handleOf (s.fut t.vd i) i)
    modify fun s =>
      if away ∧ ¬ s.routes.any (fun r => r.1 = m.toNat) then (s.complete t.vd i 5 0 0 1).closeFut t.vd i
      else s.send 0x21 0 t.last.tile t.last.core t.vd ga (v.getD 1 0)
        (if away then .place t.vd id (.peer m.toNat 0) else .tile t.vd (qLid q)) (.enqueue t.vd i id m q (v.getD 1 0) s.cycles)
          { handle := q.toNat }
    return {}) s

/-- QLEN (R414): entries with the spilled and the held ones. -/
def execQlen (a b : GReg) (s : State) : Result :=
  run (.qlen a b) (fun id t v => do
    let (_, q) ← queueAt id t.vd (v.getD 0 0)
    return { vals := [BitVec.ofNat 64 ((q.entries.length + q.held.length) % 2 ^ 32)] }) s

end Sys2Proof.Machine
end

