-- ==== Sys2Proof/Machine/Roles.lean ====
section
/-! DEFINITION. The role instructions and the notice records (spec/07 R145 to R149, R153, R155 to R157; spec/22 R391; spec/23
R418, R420; spec/24 R450). -/

namespace Sys2Proof.Machine

/-- A role map entry as RLOOK reads it (R145). -/
def Entry.word (e : Entry) : Word :=
  BitVec.ofNat 64 (e.gen.toNat * 2 ^ 32 + e.lease * 2 ^ 24 + (if e.backed then 2 ^ 23 else 0) + e.role * 2 ^ 14 +
    e.state * 2 ^ 12 + e.newrole * 2 ^ 10 + e.phys)

/-- The physical tile that an entry holds. -/
def Entry.tile (e : Entry) : Option Nat := if e.role ≠ 0 ∧ ¬ e.backed then some e.phys else none

/-- A number with the bit that says it is there. -/
def present (bit : Nat) (shift : Nat) : Option Nat → Nat
  | some n => 2 ^ bit + n * 2 ^ shift
  | none => 0

/-- A notice-ring record (R155). -/
def noticeRecord (kind lid gen newrole oldrole tide noticed : Nat) (newlid newphys oldphys : Option Nat) :
    Word × Word × Word × Word :=
  (BitVec.ofNat 64 (gen * 2 ^ 32 + kind * 2 ^ 16 + newrole * 2 ^ 14 + oldrole * 2 ^ 12 + lid), BitVec.ofNat 64 tide,
   BitVec.ofNat 64 noticed, BitVec.ofNat 64 (present 44 32 newlid + present 26 16 newphys + present 10 0 oldphys))

/-- The record of an entry's pending notice, of kinds 0, 1, 3 and 6. -/
def Entry.record (e : Entry) (kind lid : Nat) (n : Notice) : Word × Word × Word × Word :=
  noticeRecord kind lid e.gen.toNat e.newrole e.role n.tide n.noticed none none e.tile

/-- A record that was reserved is written (R156). -/
def State.noticeReservedPut (s : State) (vd : Nat) (r : Word × Word × Word × Word) : State :=
  (s.modVd vd fun v => { v with noticeReserved := v.noticeReserved - 1 }).noticePut vd r

/-- The record that ends a notice: a reserved one, else one that is free, else it waits at the census (R156). -/
def State.endRecord (s : State) (vd : Nat) (n : Notice) (r : Word × Word × Word × Word) : State :=
  let v := s.vd vd
  if n.reserved then s.noticeReservedPut vd r
  else if v.deferred.isEmpty ∧ s.noticeUsed v + v.noticeReserved < 256 then s.noticePut vd r
  else s.modVd vd fun v => { v with deferred := v.deferred ++ [r] }

/-- Withdraw a pending notice: the entry is stable again, and the record of kind 1 or 6 says so. -/
def State.withdraw (s : State) (vd lid kind : Nat) : State :=
  let e := s.entry vd lid
  match e.notice with
  | some n =>
    let s := s.modEntry vd lid fun e => { e with state := 0, newrole := 0, notice := none, target := none }
    s.endRecord vd n (e.record kind lid n)
  | none => s

/-- The logical tile that a role instruction names. -/
def tileArg (x : Word) : Act Nat := do
  if 4095 < x.toNat then trap 1 x
  return x.toNat

/-- Entries that hold a role, and those leased (R148). -/
def Vd.heldEntries (v : Vd) : Nat := (v.rolemap.filter fun x => x.2.role ≠ 0 && x.2.state != 3).length
def Vd.leasedEntries (v : Vd) : Nat := (v.rolemap.filter fun x => x.2.lease ≠ 0).length

/-- LEASE (R148): a notice that is not a retirement is withdrawn, before its effective tide (R157); from then on, in a
drain too, the move proceeds and the lease applies to the entry afterwards. -/
def execLease (a b : GReg) (s : State) : Result :=
  run (.lease a b) (fun id t v => do
    let x := v.getD 0 0
    let lid ← tileArg x
    let n := v.getD 1 0
    if n = 0 ∨ 255 < n.toNat then trap 1 n
    let d := (← get).vd t.vd
    let e := d.entry lid
    if e.role = 0 ∨ e.state = 3 then trap 0x12 x
    if e.lease = 0 ∧ d.heldEntries / 2 < d.leasedEntries + 1 then trap 0x12 x
    modify fun s => s.modEntry t.vd lid fun e => { e with lease := n.toNat, owner := some id }
    let cycles := (← get).cycles
    let plain : Bool := match e.notice with
      | some m => m.kind ≠ 3 && cycles < m.tide
      | none => false
    if e.state = 1 ∧ plain then modify fun s => s.withdraw t.vd lid 1
    return {}) s

def execUnlease (a : GReg) (s : State) : Result :=
  run (.unlease a) (fun _ t v => do
    let lid ← tileArg (v.getD 0 0)
    if ((← get).entry t.vd lid).lease ≠ 0 then
      modify fun s => s.modEntry t.vd lid fun e => { e with lease := 0, owner := none }
    return {}) s

/-- The first tide boundary after a cycle (R153). -/
def tideAfter (cycles : Nat) : Nat := (cycles / Config.tide + 1) * Config.tide

/-- RACK (R148, R153): the move may come at the next tide. -/
def execRack (a : GReg) (s : State) : Result :=
  run (.rack a) (fun _ t v => do
    let lid ← tileArg (v.getD 0 0)
    let s ← get
    let e := s.entry t.vd lid
    match e.notice with
    | some n =>
      if e.state = 1 then
        set (s.modEntry t.vd lid fun e =>
          { e with notice := some { n with acked := true, tide := min n.tide (tideAfter s.cycles) } })
    | none => pure ()
    return {}) s

def execRlook (a b : GReg) (s : State) : Result :=
  run (.rlook a b) (fun _ t v => do
    let lid ← tileArg (v.getD 0 0)
    return { vals := [((← get).entry t.vd lid).word] }) s

end Sys2Proof.Machine
end

