-- ==== Sys2Proof/Machine/Flags.lean ====
section
/-! DEFINITION. Floating-point values, the one rounding of R282 and its flags, conversions, and the decode tables
(spec/15_numbers.md R277 to R290; spec/24 R453). -/

namespace Sys2Proof.Machine

/-! ### Formats (R277) -/

/-- Exponent and fraction widths. -/
structure Fmt where
  eb : Nat
  fb : Nat
  deriving DecidableEq, Repr

def Fmt.bias (f : Fmt) : Nat := 2 ^ (f.eb - 1) - 1
def Fmt.inf (f : Fmt) : Nat := (2 ^ f.eb - 1) * 2 ^ f.fb
def Fmt.signBit (f : Fmt) : Nat := 2 ^ (f.eb + f.fb)
/-- The canonical NaN. -/
def Fmt.nan (f : Fmt) : Nat := f.inf + 2 ^ (f.fb - 1)
def Fmt.signed (f : Fmt) (neg : Bool) (x : Nat) : Nat := if neg then f.signBit + x else x

def f32 : Fmt := ⟨8, 23⟩
def f16 : Fmt := ⟨5, 10⟩
def bf16 : Fmt := ⟨8, 7⟩
def x19 : Fmt := ⟨8, 10⟩

/-- The format of a floating type. -/
def fmtOf : VTy → Option Fmt
  | .f16 => some Machine.f16
  | .bf16 => some Machine.bf16
  | .f32 => some Machine.f32
  | .x19 => some Machine.x19
  | _ => none

/-- A value: m × 2^e with its sign; m = 0 is a zero. -/
inductive Num where
  | nan
  | inf (neg : Bool)
  | fin (neg : Bool) (m : Nat) (e : Int)
  deriving DecidableEq, Repr

def Fmt.unpack (f : Fmt) (x : Nat) : Num :=
  let neg := x.testBit (f.eb + f.fb)
  let ex := x / 2 ^ f.fb % 2 ^ f.eb
  let fr := x % 2 ^ f.fb
  if ex = 2 ^ f.eb - 1 then (if fr = 0 then .inf neg else .nan)
  else if ex = 0 then .fin neg fr (1 - f.bias - f.fb)
  else .fin neg (2 ^ f.fb + fr) (ex - f.bias - f.fb)

/-- A subnormal f32, f16 or bf16 input reads as zero of its sign under ftz (R280). -/
def Fmt.read (f : Fmt) (ftz : Bool) (x : Nat) : Num :=
  if ftz ∧ f ≠ Machine.x19 ∧ x / 2 ^ f.fb % 2 ^ f.eb = 0 then .fin (x.testBit (f.eb + f.fb)) 0 0 else f.unpack x

/-! ### FCTL and FSTAT (R280, R281) -/

inductive Rm where | rne | rtz | rup | rdn | rna
  deriving DecidableEq, Repr

def Rm.ofCode : Nat → Rm
  | 1 => .rtz
  | 2 => .rup
  | 3 => .rdn
  | 4 => .rna
  | _ => .rne

def fctlRm (x : Word) : Rm := Rm.ofCode (bvBits x 2 0)
def fctlFtz (x : Word) : Bool := x.getLsbD 3
/-- The trap enables, in FSTAT bit order. -/
def fctlEnables (x : Word) : Nat := bvBits x 8 4
/-- RNA applies only to conversions (R282). -/
def Rm.arith : Rm → Rm
  | .rna => .rne
  | r => r

/-- FSTAT bits. -/
def NV : Nat := 1
def DZ : Nat := 2
def OF : Nat := 4
def UF : Nat := 8
def NX : Nat := 16
def SAT : Nat := 32

/-- A write of FCTL (R280): reserved bits stay zero, and rm codes 101 to 111 leave rm unchanged. -/
def fctlWrite (old x : Word) : Word :=
  let rm := if 5 ≤ bvBits x 2 0 then bvBits old 2 0 else bvBits x 2 0
  BitVec.ofNat 64 (bvBits x 8 3 * 8 + rm)

/-! ### The one rounding (R282) -/

/-- Does a magnitude N + rem / 2^sh (more than that when `sticky`) round up? -/
def roundsUp (rm : Rm) (neg : Bool) (n rem sh : Nat) (sticky : Bool) : Bool :=
  let inexact := rem != 0 || sticky
  match rm with
  | .rtz => false
  | .rup => !neg && inexact
  | .rdn => neg && inexact
  | .rna => 0 < sh && 2 ^ (sh - 1) ≤ rem
  | .rne => 0 < sh && (2 ^ (sh - 1) < rem || (rem == 2 ^ (sh - 1) && (sticky || n % 2 == 1)))

/-- m / 2^sh rounded to an integer magnitude, and whether it was inexact; a negative shift is exact. -/
def shiftRound (rm : Rm) (neg : Bool) (m : Nat) (sh : Int) (sticky : Bool) : Nat × Bool :=
  if sh ≤ 0 then (m * 2 ^ sh.natAbs, sticky)
  else
    let k := sh.toNat
    let n := m / 2 ^ k
    let rem := m % 2 ^ k
    (if roundsUp rm neg n rem k sticky then n + 1 else n, rem != 0 || sticky)

/-- Round (−1)^neg × m × 2^e, or a value just beyond it in magnitude when `sticky`, into a format: the bits and the
flags. Tininess is detected after rounding, as with an unbounded exponent. -/
def Fmt.round (f : Fmt) (rm : Rm) (ftz : Bool) (neg : Bool) (m : Nat) (e : Int) (sticky : Bool := false) : Nat × Nat :=
  if m = 0 then (f.signed neg 0, 0)
  else
    let top : Int := e + m.log2
    let emin : Int := 1 - f.bias
    -- rounded with an unbounded exponent
    let (nu, _) := shiftRound rm neg m (top - f.fb - e) sticky
    let tiny := if top < emin then !(top = emin - 1 ∧ nu = 2 ^ (f.fb + 1)) else false
    if tiny && ftz then (f.signed neg 0, UF + NX)
    else
      let q := max (top - f.fb) (emin - f.fb)
      let (n, inexact) := shiftRound rm neg m (q - e) sticky
      let x := (q - (emin - f.fb)).toNat * 2 ^ f.fb + n
      if f.inf ≤ x then
        let toMax := rm = .rtz ∨ (rm = .rup ∧ neg) ∨ (rm = .rdn ∧ ¬ neg)
        (f.signed neg (if toMax then f.inf - 1 else f.inf), OF + NX)
      else (f.signed neg x, if inexact then (if tiny then UF + NX else NX) else 0)

/-- Write a value exactly or rounded once. -/
def Fmt.pack (f : Fmt) (rm : Rm) (ftz : Bool) : Num → Nat × Nat
  | .nan => (f.nan, 0)
  | .inf neg => (f.signed neg f.inf, 0)
  | .fin neg m e => f.round rm ftz neg m e

/-! ### Exact arithmetic on values -/

/-- A signed integer times 2^e as a value; `zneg`: the sign of an exact zero. -/
def ofSigned (x : Int) (e : Int) (zneg : Bool) : Num := if x = 0 then .fin zneg 0 0 else .fin (x < 0) x.natAbs e

def sgn (neg : Bool) (m : Nat) : Int := if neg then -(m : Int) else m

/-- Exact sum; the flag says that the operation is invalid. An exact zero of unlike signs is +0, −0 under RDN. -/
def Num.add (rm : Rm) (a b : Num) : Num × Bool :=
  match a, b with
  | .nan, _ | _, .nan => (.nan, false)
  | .inf x, .inf y => if x = y then (.inf x, false) else (.nan, true)
  | .inf x, _ => (.inf x, false)
  | _, .inf y => (.inf y, false)
  | .fin x m e, .fin y n g =>
    let q := min e g
    let z := if x = y then x else rm = .rdn
    (ofSigned (sgn x m * 2 ^ (e - q).toNat + sgn y n * 2 ^ (g - q).toNat) q z, false)

def Num.neg : Num → Num
  | .nan => .nan
  | .inf x => .inf (!x)
  | .fin x m e => .fin (!x) m e

/-- Exact product. -/
def Num.mul (a b : Num) : Num × Bool :=
  match a, b with
  | .nan, _ | _, .nan => (.nan, false)
  | .inf x, .inf y => (.inf (x != y), false)
  | .inf x, .fin y n _ => if n = 0 then (.nan, true) else (.inf (x != y), false)
  | .fin x m _, .inf y => if m = 0 then (.nan, true) else (.inf (x != y), false)
  | .fin x m e, .fin y n g => (.fin (x != y) (m * n) (e + g), false)

/-- a × b + d, exactly; a NaN among the three raises nothing (R277). -/
def Num.fma (rm : Rm) (a b d : Num) : Num × Bool :=
  if a = .nan ∨ b = .nan ∨ d = .nan then (.nan, false)
  else
    let (p, i) := a.mul b
    if i then (.nan, true) else p.add rm d

/-- Order of two values that are not NaN: −0 below +0 when `zeros` is set. -/
def Num.lt (zeros : Bool) (a b : Num) : Bool :=
  match a, b with
  | .nan, _ | _, .nan => false
  | .inf x, .inf y => x && !y
  | .inf x, _ => x
  | _, .inf y => !y
  | .fin x m e, .fin y n g =>
    if m = 0 ∧ n = 0 then zeros && x && !y
    else
      let q := min e g
      sgn x m * 2 ^ (e - q).toNat < sgn y n * 2 ^ (g - q).toNat

def Num.eq (a b : Num) : Bool := a != .nan && b != .nan && !(a.lt false b) && !(b.lt false a)

/-- A result with its invalid flag, rounded. -/
def Fmt.finish (f : Fmt) (rm : Rm) (ftz : Bool) (r : Num × Bool) : Nat × Nat :=
  let (x, fl) := f.pack rm ftz r.1
  (x, if r.2 then fl ||| NV else fl)

/-! ### The four functions (R282, R453) -/

/-- Bits of the fixed point in which 2^x is computed. -/
def fixBits : Nat := 320

/-- ln 2 × 2^320, from the series of 1 / (k 2^k). -/
def ln2Fix : Nat := (List.range 330).foldl (fun a k => a + 2 ^ fixBits / ((k + 1) * 2 ^ (k + 1))) 0

/-- The sum of the series of e^y for a fixed-point y, from term `k` of value `t` on. -/
def expFix (y : Nat) : Nat → Nat → Nat → Nat
  | 0, _, _ => 0
  | fuel + 1, k, t => t + expFix y fuel (k + 1) (t * y / 2 ^ fixBits / (k + 1))

/-- 2^(f / 2^320) × 2^320 for a fraction f. -/
def exp2Fix (f : Nat) : Nat := expFix (f * ln2Fix / 2 ^ fixBits) 80 0 (2 ^ fixBits)

/-- The first `n` bits of log2 of m / 2^512, for m from 2^512 to 2^513. -/
def log2Bits : Nat → Nat → Nat → Nat
  | 0, _, acc => acc
  | n + 1, m, acc =>
    let m := m * m / 2 ^ 512
    if 2 ^ 513 ≤ m then log2Bits n (m / 2) (2 * acc + 1) else log2Bits n m (2 * acc)

/-- Square root by digits from the top: `n` bits of the root remain to be found, `r` is found so far. -/
def isqrtFrom (x : Nat) : Nat → Nat → Nat
  | 0, r => r
  | n + 1, r => if (r + 2 ^ n) * (r + 2 ^ n) ≤ x then isqrtFrom x n (r + 2 ^ n) else isqrtFrom x n r
def isqrt (x : Nat) : Nat := isqrtFrom x (x.log2 / 2 + 1) 0

def Fmt.rcp (f : Fmt) (rm : Rm) (ftz : Bool) : Num → Nat × Nat
  | .nan => (f.nan, 0)
  | .inf neg => (f.signed neg 0, 0)
  | .fin neg m e =>
    if m = 0 then (f.signed neg f.inf, DZ)
    else f.round rm ftz neg (2 ^ 100 / m) (-100 - e) (2 ^ 100 % m != 0)

def Fmt.rsq (f : Fmt) (rm : Rm) (ftz : Bool) : Num → Nat × Nat
  | .nan => (f.nan, 0)
  | .inf neg => if neg then (f.nan, NV) else (0, 0)
  | .fin neg m e =>
    if m = 0 then (f.signed neg f.inf, DZ)
    else if neg then (f.nan, NV)
    else
      -- an even exponent
      let (m, e) := if e % 2 = 0 then (m, e) else (2 * m, e - 1)
      let r := isqrt (2 ^ 200 / m)
      f.round rm ftz false r (-100 - e / 2) (r * r * m != 2 ^ 200)

/-- 2^a. A magnitude of 2^12 or more overflows or underflows every format; it is rounded from such a value. -/
def Fmt.exp2 (f : Fmt) (rm : Rm) (ftz : Bool) : Num → Nat × Nat
  | .nan => (f.nan, 0)
  | .inf neg => (if neg then 0 else f.inf, 0)
  | .fin neg m e =>
    if m = 0 then f.round rm ftz false 1 0
    else if 12 ≤ e + m.log2 then f.round rm ftz false 1 (if neg then -4096 else 4096)
    else
      -- the argument in units of 2^-320
      let x : Int := sgn neg (if 0 ≤ e + fixBits then m * 2 ^ (e + fixBits).toNat else m / 2 ^ (-(e + fixBits)).toNat)
      let n := x / 2 ^ fixBits
      let fr := (x % 2 ^ fixBits).toNat
      if fr = 0 then f.round rm ftz false 1 n
      else f.round rm ftz false (exp2Fix fr) (n - fixBits) true

def Fmt.log2 (f : Fmt) (rm : Rm) (ftz : Bool) : Num → Nat × Nat
  | .nan => (f.nan, 0)
  | .inf neg => if neg then (f.nan, NV) else (f.inf, 0)
  | .fin neg m e =>
    if m = 0 then (f.signed true f.inf, DZ)
    else if neg then (f.nan, NV)
    else
      let top : Int := e + m.log2
      let l := log2Bits 160 (m * 2 ^ (512 - m.log2)) 0
      if m = 2 ^ m.log2 then (if top = 0 then (0, 0) else f.round rm ftz (top < 0) top.natAbs 0)
      else if 0 ≤ top then f.round rm ftz false (top.toNat * 2 ^ 160 + l) (-160) true
      else f.round rm ftz true (top.natAbs * 2 ^ 160 - l - 1) (-160) true

/-! ### Conversions (R278, R282, R456) -/

/-- Bounds of an integer type. -/
def intBounds (t : VTy) : Int × Int :=
  if t.isSigned then (-(2 ^ (t.width - 1)), 2 ^ (t.width - 1) - 1) else (0, 2 ^ t.width - 1)

/-- A lane's bits as the integer it holds. -/
def laneInt (t : VTy) (x : Nat) : Int :=
  if t.isSigned && x.testBit (t.width - 1) then (x : Int) - 2 ^ t.width else x

/-- An integer as a lane's bits, modulo 2^width. -/
def intLane (t : VTy) (x : Int) : Nat := (x % 2 ^ t.width).toNat

/-- Clamp into an integer type (R278). -/
def clamp (t : VTy) (x : Int) (flags : Nat) : Nat × Nat :=
  let (lo, hi) := intBounds t
  if x < lo then (intLane t lo, flags) else if hi < x then (intLane t hi, flags) else (intLane t x, 0)

/-- A value into an integer type (R282): rounded under rm, RNA included. -/
def toInt (t : VTy) (rm : Rm) : Num → Nat × Nat
  | .nan => (0, NV + SAT)
  | .inf neg => (intLane t (if neg then (intBounds t).1 else (intBounds t).2), NV + SAT)
  | .fin neg m e =>
    let (n, inexact) := shiftRound rm neg m (-e) false
    let x := sgn neg n
    let (r, fl) := clamp t x (NV + SAT)
    (r, if fl = 0 ∧ inexact then NX else fl)

/-- One converted lane of VCVT (R456). -/
def convert (src dst : VTy) (rm : Rm) (ftz : Bool) (x : Nat) : Nat × Nat :=
  if src = dst then (if src = .x19 then x % 2 ^ 19 else x, 0)
  else
    match fmtOf src, fmtOf dst with
    | some f, some g => g.pack rm ftz (f.read ftz x)
    | some f, none => toInt dst rm (f.read ftz x)
    | none, some g => g.pack rm ftz (ofSigned (laneInt src x) 0 false)
    | none, none => clamp dst (laneInt src x) SAT

/-! ### Decode tables (R286 to R290) -/

def Table.half (t : Table) : Nat := if t.c4 then 8 else 0x80
def Table.top (t : Table) : Nat := if t.c4 then 7 else 0x7F
def Table.entry (t : Table) (i : Nat) : Nat := (t.entries.getD i 0).toNat

/-- The code that a container holds (R288). -/
def Table.code (t : Table) (x : Nat) : Nat := if t.c4 then x % 16 else x % 256
def Table.decode (t : Table) (x : Nat) : Nat := t.entry (t.code x)

/-- The largest i up to `n` whose entry is at most m. -/
def Table.find (t : Table) (m : Nat) : Nat → Nat
  | 0 => 0
  | n + 1 => if t.entry (n + 1) ≤ m then n + 1 else t.find m n

/-- encode (R289): magnitudes of x19 order as their bits do. -/
def Table.encode (t : Table) (x : Nat) : Nat × Nat :=
  let x := x % 2 ^ 19
  let neg := x.testBit 18
  let m := x % 2 ^ 18
  let big := if t.inf then t.top - 1 else t.top
  let sign (code : Nat) : Nat :=
    if neg ∧ code ≠ 0 then code + t.half else if neg ∧ t.nan.isNone then t.half else code
  match Machine.x19.unpack x with
  | .nan => match t.nan with
    | some _ => (t.half, 0)
    | none => (0, NV)
  | .inf _ => if t.inf then (sign t.top, 0) else (sign big, OF + NX)
  | .fin .. =>
    if t.entry big ≤ m then (sign big, if t.entry big < m then OF + NX else 0)
    else
      let i := t.find m big
      if m = t.entry i then (sign i, 0)
      else
        match Machine.x19.unpack m, Machine.x19.unpack (t.entry i), Machine.x19.unpack (t.entry (i + 1)) with
        | .fin _ a e, .fin _ b g, .fin _ c h =>
          -- twice the value against the sum of its neighbours
          let q := min e (min g h)
          let two := 2 * a * 2 ^ (e - q).toNat
          let sum := b * 2 ^ (g - q).toNat + c * 2 ^ (h - q).toNat
          (sign (if sum < two ∨ (sum = two ∧ i % 2 = 1) then i + 1 else i), NX)
        | _, _, _ => (sign i, NX)

/-- The first failing entry of an image's header and entries (R287): none for a table that keeps the rules. `zero`: the
56 bytes after the header are zero. -/
def tableFault (header : Nat) (zero : Bool) (e : List Nat) : Option Nat :=
  let c4 := header.testBit 0
  let inf := header.testBit 1
  let nan := header.testBit 2
  let half := if c4 then 8 else 0x80
  let top := if c4 then 7 else 0x7F
  let at' (i : Nat) := e.getD i 0
  if 65536 ≤ header ∨ header / 8 % 32 ≠ 0 ∨ !zero ∨ (nan ∧ header / 256 ≠ half) then some 0
  else
    let bad (i : Nat) : Bool :=
      2 ^ 19 ≤ at' i ||
      (i == 0 && at' 0 != 0) ||
      (1 ≤ i && i ≤ top && (2 ^ 18 ≤ at' i || Machine.x19.unpack (at' i) == .nan || at' i ≤ at' (i - 1) ||
        (at' i == Machine.x19.inf && !(i == top && inf)))) ||
      (half ≤ i && i ≤ half + top && at' i != (if nan && i == half then Machine.x19.nan else at' (i - half) ||| 0x40000)) ||
      (c4 && 16 ≤ i && at' i != 0)
    (List.range 256).find? bad

/-- The table that an image gives. -/
def tableOf (header : Nat) (e : List Nat) : Table :=
  { c4 := header.testBit 0, inf := header.testBit 1,
    nan := if header.testBit 2 then some (header / 256 % 256) else none,
    entries := e.map (BitVec.ofNat 32), head := BitVec.ofNat 64 header }

end Sys2Proof.Machine
end

