-- ==== Sys2Proof/Machine/TileCommands.lean ====
section
/-! DEFINITION. The push of a tile command (spec/02 R56 to R61; spec/04 R115 to R117; spec/13 R256, R270; spec/21 R345 to
R348; spec/22 R396 to R399; spec/23 R412; spec/24 R437 to R446). What an engine does with it later stands in
Engines.lean. -/

namespace Sys2Proof.Machine

/-! ### Operands as captured (R59, R61) -/

/-- An operand descriptor with the values of its base and stride registers. -/
structure Arg where
  o : Opnd
  base : Word
  stride : Word
  deriving DecidableEq, Repr

/-- Take an operand's registers from the values of a command's sources, in the order of `Opnd.regs`. -/
def takeArg (o : Opnd) (l : List Word) : Arg × List Word :=
  match o with
  | .mem .. => (⟨o, l.getD 0 0, l.getD 1 0⟩, l.drop 2)
  | .berth .. => (⟨o, l.getD 0 0, 0⟩, l.drop 1)

/-- First address, modulo 2^64. -/
def Arg.addr (x : Arg) : Nat := (x.base.toNat + x.o.offset) % 2 ^ 64
/-- Row distance, `d` where the stride register is g0 (R291, R292, R296). -/
def Arg.step (x : Arg) (d : Nat) : Nat := if x.o.stride.toNat = 0 then d else x.stride.toNat
def Arg.row (x : Arg) (d r : Nat) : Nat := (x.addr + r * x.step d) % 2 ^ 64
/-- Row r of a matrix operand: in panel layout with side scales (R293), else at its stride. -/
def Arg.mrow (x : Arg) (side : Bool) (d r : Nat) : Nat :=
  if side then (x.addr + panelBytes * (r / 16) + 384 * (r % 16)) % 2 ^ 64 else x.row d r

/-- A command's operands and the values after them. -/
structure View where
  a : Option Arg := none
  b : Option Arg := none
  c : Option Arg := none
  rest : List Word := []
  deriving DecidableEq, Repr

def viewOf (i : Instr) (l : List Word) : View :=
  let one (o : Opnd) (l : List Word) := takeArg o l
  match i with
  | .mma _ _ a b _ | .mmas _ _ a b _ =>
    let (x, l) := one a l
    let (y, l) := one b l
    { a := some x, b := some y, rest := l }
  | .accld _ _ a | .tabld _ _ a => let (x, l) := one a l; { a := some x, rest := l }
  | .accst _ _ c .. | .tfill _ c .. | .tunsub _ c => let (x, l) := one c l; { c := some x, rest := l }
  | .tcopy _ a c _ | .tsub _ a c _ _ =>
    let (x, l) := one a l
    let (z, l) := one c l
    { a := some x, c := some z, rest := l }
  | .tgather _ a b c _ | .tscatter _ a b c _ =>
    let (x, l) := one a l
    let (y, l) := one b l
    let (z, l) := one c l
    { a := some x, b := some y, c := some z, rest := l }
  | _ => { rest := l }

def Cmd.view (c : Cmd) : View := viewOf c.instr c.vals

/-- The size of a type's element in bytes, 1 for c4 (R438). -/
def elemBytes (ty : Nat) : Nat :=
  match VTy.ofCode ty with
  | some t => max 1 (t.width / 8)
  | none => 1

/-- The count in bits 31:0 of a length register. -/
def lenOf (v : View) : Nat := bvBits (v.rest.getD 0 0) 31 0

/-- K-blocks of 32 elements of a matrix operand's type (R293). -/
def kBlocks (ty : Nat) : Nat := match matrixWidth ty with
  | some w => matrixK w / 32
  | none => 0

/-! ### The ranges of a command (R256) -/

/-- A range: address, bytes, is it written, may it lie in flash (R191)? -/
structure Range where
  va : Nat
  len : Nat
  write : Bool
  flash : Bool
  deriving DecidableEq, Repr

/-- The ranges that a matrix operand covers. -/
def matrixRanges (x : Arg) (n bytes : Nat) (side : Bool) : List Range :=
  if x.o.isBerth then []
  else if side then [⟨x.addr, panelBytes * (n / 16), false, false⟩]
  else (List.range n).map fun r => ⟨x.row bytes r, bytes, false, false⟩

def rangesOf (i : Instr) (v : View) : List Range :=
  let len := lenOf v
  let one (x : Option Arg) (f : Arg → List Range) : List Range := (x.map f).getD []
  match i with
  | .mma _ sh a _ sc =>
    let side := sc = .side
    one v.a (fun x => matrixRanges x sh.rows 384 side) ++ one v.b (fun x => matrixRanges x sh.cols 384 side) ++
      (match sc with
       | .regs .. => [⟨(v.rest.getD 0 0).toNat, sh.rows * kBlocks a.ty, false, false⟩,
                      ⟨(v.rest.getD 1 0).toNat, sh.cols * kBlocks a.ty, false, false⟩]
       | _ => [])
  | .mmas _ sh _ b sc =>
    one v.a (fun x => matrixRanges x sh.rows 256 false) ++ one v.b (fun x => matrixRanges x sh.cols 384 false) ++
      (match sc with
       | .regs .. => [⟨(v.rest.getD 0 0).toNat, sh.rows * kBlocks b.ty, false, false⟩,
                      ⟨(v.rest.getD 1 0).toNat, sh.cols * kBlocks b.ty, false, false⟩]
       | _ => [])
  | .accld _ sh _ => one v.a fun x => matrixRanges x sh.rows (4 * sh.cols) false
  | .accst _ sh _ _ _ out => one v.c fun x =>
      (List.range sh.rows).map fun r =>
        let n := sh.cols * elemBytes out.toNat
        ⟨x.row n r, n, true, false⟩
  | .tabld .. => one v.a fun x => [⟨x.addr, 1088, false, false⟩]
  | .tcopy .. => one v.a (fun x => [⟨x.addr, len, false, true⟩]) ++ one v.c fun x => [⟨x.addr, len, true, true⟩]
  | .tfill .. => one v.c fun x => [⟨x.addr, len, true, false⟩]
  | .tgather _ _ b c _ =>
    one v.a (fun x => [⟨x.addr, bvBits x.stride 31 0, false, true⟩]) ++
      one v.b (fun x => [⟨x.addr, len * elemBytes b.ty, false, true⟩]) ++
      one v.c fun x => [⟨x.addr, len * elemBytes c.ty, true, true⟩]
  | .tscatter _ a b _ _ =>
    one v.a (fun x => [⟨x.addr, len * elemBytes a.ty, false, true⟩]) ++
      one v.b (fun x => [⟨x.addr, len * elemBytes b.ty, false, true⟩]) ++
      one v.c fun x => [⟨x.addr, bvBits x.stride 31 0, true, true⟩]
  | .tsub _ _ _ _ pull =>
    one v.a fun x => ⟨x.addr, panelBytes * len, false, true⟩ ::
      (if pull then [⟨x.addr, panelBytes * len, true, false⟩] else [])
  | _ => []

/-! ### Translation at the push (R256) -/

/-- A trap of a push that keeps what the push has done so far: A and D bits set on the way stay set. -/
def trapKeep {α : Type} (id cause tval : Nat) : Act α := do
  throw (.over ((← get).takeTrap id cause (BitVec.ofNat 64 tval) 0))

/-- Does the range break R191 as a write of flash? -/
def Range.badFlash (r : Range) : Bool := r.write && (r.va % 4096 != 0 || r.len % 4096 != 0)

/-- Does a physical range meet a future table? -/
def State.meetsTable (s : State) (a n : Nat) : Bool :=
  s.vds.any fun x => a < x.2.futBase + 64 * x.2.futQuota && x.2.futBase < a + n

/-- Pin one page: walk, refuse, set A and D, keep the translation. The answer is the pins and the next address. The walk of a
257th page comes before the count, so that a malformed entry of it has its record: R256 gives the two rows no order
(notes/assumptions/100.md). -/
def pinPage (id : Nat) (t : Task) (r : Range) (fin a : Nat) (pins : List TlbEntry) : Act (List TlbEntry × Nat) := do
  let s ← get
  if 2 ^ 57 ≤ a then trapKeep id 0xF a
  if Config.windowBase ≤ a then
    if a < Config.windowBase + 2 ^ 36 then return (pins, Config.windowBase + 2 ^ 36)
    if Config.apertureBase ≤ a ∧ a < Config.apertureBase + 2 ^ 40 then
      match (s.vd t.vd).aperture (a - Config.apertureBase) with
      | some d => if r.write && !d.getLsbD 2 then trapKeep id 0xF a else return (pins, (a / 2 ^ 30 + 1) * 2 ^ 30)
      | none => trapKeep id 0xF a
    else trapKeep id 0xF a
  else
    match s.walk (s.vd t.vd).root a with
    | .error (level, pte) =>
      match s.faultRecord t 3 0xF a level pte with
      | some (_, _, s) => set s; trapKeep id 0xF a
      | none => parkOn (.ring (3, 0xF, a, level, pte))
    | .ok (e, level, pte) =>
      let next := (a / pageSize level + 1) * pageSize level
      let acc : Acc := if r.write then .store else .load
      let n := (if next ≤ fin then next else fin) - a
      let refused : Bool := (match pageRefuses e acc t.ctx.mode with
        | some 7 => !r.flash || r.badFlash || (r.write && !pteW e) || (t.ctx.mode == .task && pteS e)
        | some _ => true
        | none => false) || (s.meetsTable (pteFrame e + a % pageSize level) n && (r.write || t.ctx.mode == .task))
      if refused then trapKeep id 0xF a
      let e' := withAD e acc
      let x : TlbEntry := { vd := t.vd, vpn := a / pageSize level, level := level, leaf := e', pte := pte }
      let old := pins.find? fun y => y.vpn = x.vpn ∧ y.level = x.level
      if old.isNone ∧ 256 ≤ pins.length then trapKeep id 0xF a
      let s := if e' = e then s else s.writeDword pte e'
      set (s.setTile t.last.tile { s.tile t.last.tile with tlb := tlbFill (s.tile t.last.tile).tlb x s.draws })
      return (x :: pins.filter (fun y => !(y.vpn = x.vpn ∧ y.level = x.level)), next)

/-- Pin one page for each range of a list, which cover the same bytes. -/
def pinEach (id : Nat) (t : Task) (fin a : Nat) : List Range → List TlbEntry × Nat → Act (List TlbEntry × Nat)
  | [], x => return x
  | r :: l, x => do pinEach id t fin a l (← pinPage id t r fin a x.1)

/-- Pin every page of a run of bytes, for each of the ranges that cover it; a run of more than 256 pages fails on the way. -/
def pinRange (id : Nat) (t : Task) (l : List Range) (fin : Nat) : Nat → Nat → List TlbEntry → Act (List TlbEntry)
  | 0, _, pins => return pins
  | n + 1, a, pins => do
    if fin ≤ a then return pins
    let (pins, next) ← pinEach id t fin a l (pins, fin)
    pinRange id t l fin n next pins

def pinAll (id : Nat) (t : Task) : List (List Range) → List TlbEntry → Act (List TlbEntry)
  | [], pins => return pins
  | [] :: l, pins => pinAll id t l pins
  | (r :: m) :: l, pins => do
    pinAll id t l (← pinRange id t (r :: m) (r.va + r.len) 600 r.va pins)

/-- The ranges that a push translates together, page by page: the run that a TSUB with pull reads and writes (R444); each
other by itself. -/
def rangeRuns (i : Instr) (l : List Range) : List (List Range) :=
  match i with
  | .tsub .. => [l]
  | _ => l.map fun r => [r]

/-! ### Journal reservation (R194) -/

/-- The 256-byte lines of the written ranges that lie in ordinary memory. -/
def writtenLines (l : List Range) : List Nat :=
  (l.filter fun r => r.write && r.len != 0 && r.va < Config.windowBase).flatMap fun r =>
    (List.range ((r.va + r.len - 1) / 256 - r.va / 256 + 1)).map fun i => r.va / 256 + i

/-- Reserve an entry for every unjournalled region line, each once: the regions and lines reserved. -/
def reserveLines (vd : Nat) : List Nat → Act (List (Nat × Nat))
  | [] => return []
  | x :: l => do
    match ((← get).vd vd).regionOf (x * 256) with
    | none => reserveLines vd l
    | some (n, r) =>
      if x ∈ r.lines then reserveLines vd l
      else
        reserve vd (x * 256)
        return (n, x) :: (← reserveLines vd l)

/-- Reserve, or trap with SNAPFULL with nothing reserved. -/
def reserveAll (id vd : Nat) (l : List Range) : Act (List (Nat × Nat)) := do
  let s ← get
  if (s.vd vd).regions.isEmpty then return []
  match (reserveLines vd (writtenLines l).dedup) s with
  | .ok (r, s') => set s'; return r
  | .error (.trap c v _) => trapKeep id c v.toNat
  | .error e => throw e

/-! ### The push (R61, R115, R117, R270) -/

/-- The queue of a command. -/
def Instr.engine : Instr → EngQ
  | .tcopy .. | .tfill .. | .tgather .. | .tscatter .. => .copy
  | .txchg .. => .collective
  | .tsub .. | .tunsub .. => .stream
  | .qfence _ q _ => q
  | _ => .matrix

/-- Does the push take the accumulator partition (R345, R412, R446)? -/
def Instr.owns (i : Instr) : Bool := Instr.engine i = .matrix || match i with
  | .txchg .. => true
  | _ => false

/-- The named queues of a QFENCE's mask (R116). -/
def maskQueues (m : BitVec 4) : List EngQ :=
  (if m.getLsbD 0 then [.matrix] else []) ++ (if m.getLsbD 1 then [.copy] else []) ++
  (if m.getLsbD 2 then [.collective] else []) ++ (if m.getLsbD 3 then [.stream] else [])

/-- Commands that a core has pushed, or that have been restored to it, and that a save has taken away since: they have not
completed (R271, R412). -/
def State.savedOf (s : State) (p : Place) : List Cmd :=
  (s.tasks.flatMap fun x => match x.2.saved with
    | some sv => sv.cmds.map (·.2) ++ sv.sub.toList.map (·.cmd)
    | none => []).filter fun c => c.core = (p.tile, p.core)

/-- A command as it enters its queue: it binds every open link of the core's commands that names its queue and tag (R117),
and awaits, if it is a QFENCE, what the core has pushed to the named queues and has not completed, a pre-emption having
saved it or not (R116, R412). Of the commands that a save has taken away only those that had started bind: R271 frees the
successors of the others, whose open links wait for their task's return (notes/assumptions/90.md). -/
def State.enter (s : State) (p : Place) (q : EngQ) (c : Cmd) (tag : BitVec 8) : State :=
  let here := (s.core p.tile p.core).cmds
  let away := s.savedOf p
  let binds := ((here ++ away.filter fun x => x.started || x.paused).filter fun x => x.link = some (q, tag)).map (·.id)
  let awaits := match c.instr with
    | .qfence _ _ m => ((here ++ away).filter fun x => Instr.engine x.instr ∈ maskQueues m).map (·.id)
    | _ => []
  let s := if binds.isEmpty then s else s.mapCmds fun x => if x.id ∈ binds then { x with link := none } else x
  s.modCore p.tile p.core fun k =>
    k.setQueue q (k.queue q ++ [{ c with core := (p.tile, p.core), preds := binds, awaits := awaits }])

/-- The future of a command, in its handle register (R57); its record is made or waited for first (R82). Until the command
starts it shows PENDING: which state it shows then is not stated (notes/assumptions/30.md). -/
def cmdFuture (id vd : Nat) (hd : CmdHead) : Act (Option Nat) := do
  match hd.fut with
  | none => return none
  | some h =>
    let i ← newFut vd { kind := 2, state := 1, reach := 1 }
    modify fun s => s.putH id h (handleOf (s.fut vd i) i)
    return some i

/-- The push of a command whose own checks have passed, a release at tile scope (R209): translation, what `more` checks and carries once the pages are
pinned, the journal, the partition, the queue, the future. -/
def push (i : Instr) (hd : CmdHead) (id : Nat) (t : Task) (vals : List Word)
    (more : Cmd → Act (Option Table) := fun _ => return none) : Act Done := do
  let v := viewOf i vals
  let ranges := rangesOf i v
  modify fun s => s.release id .tile
  let pins ← pinAll id t (rangeRuns i ranges) []
  let s0 ← get
  let c : Cmd := { id := s0.nextCmd, task := id, vd := t.vd, instr := i, fctl := t.ctx.fctl, vals := vals, pins := pins,
                   fut := none, link := hd.chain }
  let table ← more c
  let before ← get
  let reserved ← reserveAll id t.vd ranges
  let p := t.last
  let q := Instr.engine i
  let core := (← get).core p.tile p.core
  let full := 16 ≤ (core.queue q).length
  let taken := Instr.owns i && (core.owner.isSome && core.owner != some id)
  let none' : Bool := hd.fut.isSome && ((before.vd t.vd).futQuota ≤ (before.vd t.vd).live)
  if taken then throw (.park .partition before)
  if full then throw (.park (.engine q) before)
  if none' then throw (.park .record before)
  let fut ← cmdFuture id t.vd hd
  modify fun s => { s with nextCmd := s.nextCmd + 1 }
  if Instr.owns i then modify fun s => s.modCore p.tile p.core fun k => { k with owner := some id }
  modify fun s => s.enter p q { c with fut := fut, table := table, reserved := reserved } hd.tag
  return {}

/-- The checks that trap with ILL report word 0 (R345, R397, R438, R446). -/
def illegal {α : Type} (i : Instr) : Act α := trap 1 (Instr.word i)

/-- The last block must not pass 63 (R292). -/
def checkRange (sh : Shape) : Act Unit := do
  if 63 < sh.acc.toNat + sh.blocks - 1 then trap 0xD (BitVec.ofNat 64 sh.acc.toNat)

/-! ### Matrix commands -/

/-- The first address of a task's window, by its original address. -/
def Window.va (w : Window) : Nat := Config.windowBase + w.lid * 2 ^ 24 + w.origOff

/-- The offset within the task's window of a ring of `n` berths at an address, none where it is not wholly inside
(R186). -/
def Task.ringAt (t : Task) (base n : Nat) : Option Nat :=
  match t.window with
  | some w => if w.va ≤ base ∧ base + berthOffset n ≤ w.va + w.size then some (base - w.va) else none
  | none => none

/-- A berth operand must lie inside the window. -/
def checkBerth (t : Task) (x : Option Arg) : Act Unit := do
  match x with
  | some ⟨.berth _ _ n, base, _⟩ =>
    if (t.ringAt base.toNat (n.toNat + 1)).isNone then trap 0xF (base + BitVec.ofNat 64 (8 * n.toNat))
  | _ => return

/-- A c8 or c4 operand needs its table: in its slot, or loaded by the latest queued TABLD to that slot (R290). -/
def checkTable (id : Nat) (p : Place) (ty slot : Nat) : Act Unit := do
  if ty = 12 ∨ ty = 13 then
    let core := (← get).core p.tile p.core
    let kind (x : Option Table) : Bool := match x with
      | some x => x.c4 == (ty == 13)
      | none => false
    let queued := (core.matrix.filterMap fun c => match c.instr with
      | .tabld _ n _ => if n.toNat = slot then c.table else none
      | _ => none).getLast?
    if !(kind (core.slots.toList.getD slot none) || kind queued) then trapKeep id 0xE (slot * 256)

def matrixPush (i : Instr) (hd : CmdHead) (sh : Shape) (a b : Opnd) (id : Nat) (t : Task) (vals : List Word) :
    Act Done := do
  checkRange sh
  let v := viewOf i vals
  checkBerth t v.a
  checkBerth t v.b
  push i hd id t vals fun _ => do
    checkTable id t.last a.ty 0
    checkTable id t.last b.ty 1
    return none

/-- MMA (R396, R397). -/
def execMma (hd : CmdHead) (sh : Shape) (a b : Opnd) (sc : ScaleMode) (s : State) : Result :=
  run (.mma hd sh a b sc) (matrixPush (.mma hd sh a b sc) hd sh a b) s

/-- MMAS (R399). -/
def execMmas (hd : CmdHead) (sh : Shape) (a b : Opnd) (sc : ScaleMode) (s : State) : Result :=
  run (.mmas hd sh a b sc) (matrixPush (.mmas hd sh a b sc) hd sh a b) s

/-- ACCZ (R348), ACCLD (R346), ACCST (R347): the checks of R345. -/
def execAccz (hd : CmdHead) (sh : Shape) (s : State) : Result :=
  run (.accz hd sh) (fun id t v => do checkRange sh; push (.accz hd sh) hd id t v) s

def execAccld (hd : CmdHead) (sh : Shape) (a : Opnd) (s : State) : Result :=
  run (.accld hd sh a) (fun id t v => do checkRange sh; push (.accld hd sh a) hd id t v) s

def execAccst (hd : CmdHead) (sh : Shape) (c : Opnd) (ta tb : GReg) (out : BitVec 4) (s : State) : Result :=
  run (.accst hd sh c ta tb out) (fun id t v => do
    checkRange sh
    push (.accst hd sh c ta tb out) hd id t v) s

/-- 32-bit words of a list of bytes. -/
def words32 : Nat → List Byte → List Nat
  | 0, _ => []
  | n + 1, l => ofBytes (l.take 4) :: words32 n (l.drop 4)

/-- TABLD (R437): the push reads and checks the image, and carries it. -/
def execTabld (hd : CmdHead) (slot : BitVec 2) (a : Opnd) (s : State) : Result :=
  run (.tabld hd slot a) (fun id t v => do
    let addr := ((viewOf (.tabld hd slot a) v).a.map Arg.addr).getD 0
    if addr % 64 ≠ 0 then trap 2 (BitVec.ofNat 64 addr)
    push (.tabld hd slot a) hd id t v fun c => do
      let (reads, s) := (← get).engineRead t.last.tile c addr 1088
      set s
      let bad (e : Nat) : Option Nat := reads.findIdx? fun (x : Except Nat (Nat × Byte)) => match x with
        | .error y => y == e
        | .ok _ => false
      match bad 3, bad 2 with
      | some n, _ => trapKeep id 0xF (addr + n)
      | none, some n => trapKeep id 8 (addr + n / 8 * 8)
      | none, none =>
        let l := plainBytes reads
        let header := ofBytes (l.take 8)
        let zero := (l.drop 8).take 56 |>.all (· == 0)
        let e := words32 256 (l.drop 64)
        match tableFault header zero e with
        | some n => trapKeep id 0xE (slot.toNat * 256 + n)
        | none => return some (tableOf header e)) s

/-! ### Copy commands (R438) -/

/-- Operand alignment: the first of the addresses that is not a multiple of its size. -/
def checkAlign : List (Nat × Nat) → Act Unit
  | [] => return
  | (a, n) :: l => do
    if a % n ≠ 0 then trap 2 (BitVec.ofNat 64 a)
    checkAlign l

def addrOf (x : Option Arg) : Nat := (x.map Arg.addr).getD 0

def execTcopy (hd : CmdHead) (a c : Opnd) (len : GReg) (s : State) : Result :=
  run (.tcopy hd a c len) (fun id t v => do
    let i := Instr.tcopy hd a c len
    let w := viewOf i v
    let z := elemBytes c.ty
    if 2 ^ 32 ≤ (w.rest.getD 0 0).toNat ∨ lenOf w % z ≠ 0 then illegal i
    checkAlign [(addrOf w.a, z), (addrOf w.c, z)]
    push i hd id t v) s

def execTfill (hd : CmdHead) (c : Opnd) (len val : GReg) (s : State) : Result :=
  run (.tfill hd c len val) (fun id t v => do
    let i := Instr.tfill hd c len val
    let w := viewOf i v
    let z := elemBytes c.ty
    if 2 ^ 32 ≤ (w.rest.getD 0 0).toNat ∨ lenOf w % z ≠ 0 then illegal i
    checkAlign [(addrOf w.c, z)]
    push i hd id t v) s

/-- The table's extent register must hold 32 bits (R441). -/
def extentFits (x : Option Arg) : Bool := match x with
  | some y => y.stride.toNat < 2 ^ 32
  | none => false

def execTgather (hd : CmdHead) (a b c : Opnd) (len : GReg) (s : State) : Result :=
  run (.tgather hd a b c len) (fun id t v => do
    let i := Instr.tgather hd a b c len
    let w := viewOf i v
    if 2 ^ 32 ≤ (w.rest.getD 0 0).toNat ∨ !extentFits w.a then illegal i
    checkAlign [(addrOf w.a, elemBytes a.ty), (addrOf w.b, elemBytes b.ty), (addrOf w.c, elemBytes c.ty)]
    push i hd id t v) s

def execTscatter (hd : CmdHead) (a b c : Opnd) (len : GReg) (s : State) : Result :=
  run (.tscatter hd a b c len) (fun id t v => do
    let i := Instr.tscatter hd a b c len
    let w := viewOf i v
    if 2 ^ 32 ≤ (w.rest.getD 0 0).toNat ∨ !extentFits w.c then illegal i
    checkAlign [(addrOf w.a, elemBytes a.ty), (addrOf w.b, elemBytes b.ty), (addrOf w.c, elemBytes c.ty)]
    push i hd id t v) s

/-! ### TXCHG, subscriptions, QFENCE -/

/-- TXCHG (R446). -/
def execTxchg (hd : CmdHead) (sh : Shape) (grp : GReg) (s : State) : Result :=
  run (.txchg hd sh grp) (fun id t v => do
    let i := Instr.txchg hd sh grp
    let g := (v.getD 0 0).toNat
    if 4095 < g then illegal i
    if !((← get).group t.vd g).member id then illegal i
    checkRange sh
    push i hd id t v) s

/-- The ring of a berth descriptor: its base and its number of berths (R186). -/
def ringOf (x : Option Arg) : Nat × Nat :=
  match x with
  | some ⟨.berth _ _ n, base, _⟩ => (base.toNat, n.toNat + 1)
  | _ => (0, 0)

/-- TSUB (R444). -/
def execTsub (hd : CmdHead) (a c : Opnd) (len : GReg) (pull : Bool) (s : State) : Result :=
  run (.tsub hd a c len pull) (fun id t v => do
    let i := Instr.tsub hd a c len pull
    let w := viewOf i v
    if 2 ^ 32 ≤ (w.rest.getD 0 0).toNat then illegal i
    let (ring, n) := ringOf w.c
    checkAlign [(ring, 256), (addrOf w.a, 256)]
    if (t.ringAt ring n).isNone then trap 0xF (BitVec.ofNat 64 ring)
    push i hd id t v) s

/-- TUNSUB (R190, R445) starts at its push: it acts on the subscription that is running with the same ring. -/
def execTunsub (hd : CmdHead) (c : Opnd) (s : State) : Result :=
  run (.tunsub hd c) (fun id t v => do
    let i := Instr.tunsub hd c
    let (ring, n) := ringOf (viewOf i v).c
    match t.ringAt ring n with
    | none => trap 0xF (BitVec.ofNat 64 ring)
    | some off =>
      let s ← get
      if hd.fut.isSome ∧ (s.vd t.vd).futQuota ≤ (s.vd t.vd).live then parkOn .record
      modify fun s => s.release id .tile
      let fut ← cmdFuture id t.vd hd
      let s ← get
      let hit := (List.range 4).find? fun k => match (s.core t.last.tile k).sub with
        | some u => u.cmd.task == id && u.ring == off
        | none => false
      match hit with
      | some k => modify fun s => s.modCore t.last.tile k fun x => { x with sub := x.sub.map fun u =>
          { u with ending := true, waiters := u.waiters ++ fut.toList } }
      | none =>
        match fut with
        | some f => modify fun s => (s.complete t.vd f 5 0 0 0).closeFut t.vd f
        | none => pure ()
      return {}) s

/-- QFENCE (R412). -/
def execQfence (hd : CmdHead) (q : EngQ) (mask : BitVec 4) (s : State) : Result :=
  run (.qfence hd q mask) (fun id t v => push (.qfence hd q mask) hd id t v) s

end Sys2Proof.Machine
end

