-- ==== Sys2Proof/Machine/Matrix.lean ====
section
/-! DEFINITION. The matrix unit's arithmetic (spec/15 R285 to R297; spec/21 R346, R347; spec/22 R398, R399): what a command
makes of the accumulator partition, and what ACCST writes. -/

namespace Sys2Proof.Machine

/-! ### The partition (R292) -/

/-- The index of element (i, j) of a range of shape M × N from a block. -/
def accIndex (sh : Shape) (i j : Nat) : Nat :=
  256 * (sh.acc.toNat + (i / 16) * (sh.cols / 16) + j / 16) + 16 * (i % 16) + j % 16

def accGet (l : List (Nat × Word32)) (k : Nat) : Word32 := (look l k).getD 0

/-- Write an element; +0 is not listed. -/
def accPut (l : List (Nat × Word32)) (k : Nat) (x : Word32) : List (Nat × Word32) :=
  if x = 0 then cut l k else put l k x

/-- The positions of a range, row by row. -/
def accCells (sh : Shape) : List (Nat × Nat) :=
  (List.range sh.rows).flatMap fun i => (List.range sh.cols).map fun j => (i, j)

/-! ### Elements as fetched (R288, R291) -/

/-- Codes of a row of bytes, by width in bits. -/
def codesOf (width : Nat) (l : List Byte) : List Nat :=
  if width = 4 then l.flatMap fun b => [b.toNat % 16, b.toNat / 16]
  else
    let n := width / 8
    (List.range (l.length / n)).map fun i => ofBytes ((l.drop (n * i)).take n)

/-- x19() of a code of a type: decode() for c8 and c4, an exact conversion, or for f32 a rounding under RNE. A slot that
holds no table gives a value that is open. -/
def x19Of (ty : Nat) (tab : Option Table) (draw x : Nat) : Num :=
  match ty with
  | 12 | 13 => match tab with
    | some t => Machine.x19.unpack (t.entry x)
    | none => Machine.x19.unpack ((Config.free draw).toNat % 2 ^ 19)
  | 0 => ofSigned (laneInt .s8 x) 0 false
  | 4 => .fin false x 0
  | 8 => Machine.f16.unpack x
  | 9 => Machine.bf16.unpack x
  | _ => Machine.x19.unpack (Machine.x19.pack .rne false (Machine.f32.unpack x)).1

/-- A row of a matrix operand: for each element the values that stand at it, and the block scales. -/
structure MRow where
  elems : List (List Num)
  scales : List Nat
  deriving DecidableEq, Repr

/-- Reads as a row needs them: every byte, or the detail of what went wrong. -/
def rowBytes (l : List (Except Nat (Nat × Byte))) : Except Nat (List Byte) :=
  if detailOf l ≠ 0 then .error (detailOf l) else .ok (plainBytes l)

/-- The scales of row r of an operand (R293): from its panel's side block, from an array, or 127. -/
def State.scalesOf (s : State) (c : Cmd) (x : Arg) (sc : ScaleMode) (array : Nat) (blocks r : Nat) :
    Except Nat (List Nat) :=
  match sc with
  | .none => .ok (List.replicate blocks 127)
  | .regs .. => (rowBytes (s.engineBytes c (array + r * blocks) blocks)).map fun l => l.map (·.toNat)
  | .side =>
    let panel := match x.o with
      | .berth _ _ n => x.base.toNat + berthOffset n.toNat
      | _ => x.addr + panelBytes * (r / 16)
    let read := rowBytes (s.engineBytes c (panel + 0x1800 + 12 * (r % 16)) 12)
    read.map fun l => (List.range blocks).map fun b => (l.getD (b * 12 / blocks) 0).toNat

/-- The address of a dense row. -/
def Arg.denseRow (x : Arg) (sc : ScaleMode) (r : Nat) : Nat :=
  match x.o with
  | .berth _ _ n => x.base.toNat + berthOffset n.toNat + 384 * r
  | _ => x.mrow (sc = .side) 384 r

/-- A row of a dense operand (R291). -/
def State.denseRow (s : State) (c : Cmd) (x : Arg) (sc : ScaleMode) (array : Nat) (tab : Option Table)
    (r : Nat) : Except Nat MRow := do
  let w := (matrixWidth x.o.ty).getD 8
  let data := rowBytes (s.engineBytes c (x.denseRow sc r) 384)
  let scales := s.scalesOf c x sc array (matrixK w / 32) r
  match data, scales with
  | .ok l, .ok k => return { elems := (codesOf w l).map fun y => [x19Of x.o.ty tab s.draws y], scales := k }
  | .error a, .error b => throw (worse a b)
  | .error a, _ => throw a
  | _, .error b => throw b

/-- The dense elements of one sparse line of 128 bytes (R296): at each of 192 positions the kept values, or zero. -/
def sparseLine (ty : Nat) (tab : Option Table) (draw : Nat) (l : List Byte) : List (List Num) :=
  let pos := ofBytes (l.take 24)
  let count := min 96 (l.getD 0x1B 0).toNat
  let kept := (List.range 96).map fun v =>
    (4 * (v / 2) + pos / 4 ^ v % 4,
     if v < count then x19Of ty tab draw (l.getD (0x20 + v) 0).toNat else Num.fin false 0 0)
  (List.range 192).map fun e =>
    let here := (kept.filter fun k => k.1 = e).map (·.2)
    if here.isEmpty then [Num.fin false 0 0] else here

/-- A row of a sparse A: two lines. -/
def State.sparseRow (s : State) (c : Cmd) (x : Arg) (sc : ScaleMode) (array : Nat) (tab : Option Table)
    (r : Nat) : Except Nat MRow := do
  let data := rowBytes (s.engineBytes c (x.row 256 r) 256)
  let scales := s.scalesOf c x sc array 12 r
  match data, scales with
  | .ok l, .ok k => return { elems := sparseLine x.o.ty tab s.draws (l.take 128) ++
                               sparseLine x.o.ty tab s.draws (l.drop 128), scales := k }
  | .error a, .error b => throw (worse a b)
  | .error a, _ => throw a
  | _, .error b => throw b

/-! ### The pipeline (R294) -/

/-- The exact sum of the products of one K-block: every value of A's element against every value of B's. -/
def blockSum (a b : List (List Num)) : Num :=
  let p := (a.zip b).foldl (fun p e =>
    e.1.foldl (fun p x => e.2.foldl (fun p y => (Num.add .rne p (x.mul y).1).1) p) p) (Num.fin false 0 0)
  match p with
  | .fin _ 0 _ => .fin false 0 0
  | p => p

/-- A value times the two block scales. -/
def scaled (p : Num) (sa sb : Nat) : Num :=
  if sa = 255 ∨ sb = 255 then .nan else
  match p with
  | .fin n m e => if m = 0 then .fin false 0 0 else .fin n m (e + (sa : Int) - 127 + ((sb : Int) - 127))
  | p => p

/-- One rounding into f32 under the captured rm and ftz. -/
def addF32 (fctl : Word) (a : Nat) (v : Num) : Nat :=
  (Machine.f32.finish (fctlRm fctl).arith (fctlFtz fctl) ((Machine.f32.unpack a).add (fctlRm fctl).arith v)).1

/-- The accumulator element after every K-block in order. -/
def pipeline (fctl : Word) (acc : Nat) (a b : MRow) : Nat :=
  ((List.range a.scales.length).map fun k =>
      scaled (blockSum ((a.elems.drop (32 * k)).take 32) ((b.elems.drop (32 * k)).take 32)) (a.scales.getD k 255)
        (b.scales.getD k 255)).foldl (addF32 fctl) acc

/-! ### Fetching the operands (R176, R210) -/

/-- The 256-byte lines of ordinary frames, and of host memory (R331), that the L2-kind operands of a matrix command cover
(R176). -/
def State.pinnedLines (s : State) (c : Cmd) : List Nat :=
  let v := c.view
  let one (x : Option Arg) (n bytes : Nat) (side : Bool) : List Nat := match x with
    | some x => match x.o with
      | .mem true .. => (matrixRanges x n bytes side).flatMap fun r => (rangeLines r.va r.len).filterMap fun l =>
          match s.engineTarget c (l.1 % 2 ^ 64) with
          | some (g, _) => g.l1Key.map (· / 256)
          | none => none
      | _ => []
    | none => []
  (match c.instr with
   | .mma _ sh _ _ sc => one v.a sh.rows 384 (sc = ScaleMode.side) ++ one v.b sh.cols 384 (sc = ScaleMode.side)
   | .mmas _ sh .. => one v.a sh.rows 256 false ++ one v.b sh.cols 384 false
   | .accld _ sh _ => one v.a sh.rows (4 * sh.cols) false
   | _ => []).dedup

/-- A matrix command that starts requests the lines of its operands; those of kind L2 are pinned until it completes. -/
def State.fetchOperands (s : State) (tile : Nat) (c : Cmd) : State :=
  match c.instr with
  | .mma .. | .mmas .. | .accld .. =>
    let s := (rangesOf c.instr c.view).foldl (fun s r => s.engineFetch tile c r.va r.len) s
    (s.pinnedLines c).foldl (fun s l => s.l2Pin l c.id) s
  | _ => s

/-! ### What a command makes of the partition -/

/-- The elements that a command writes, with its detail; `d`: a free number for what ACCLD leaves open. -/
def State.accWrites (s : State) (tile core : Nat) (c : Cmd) (d : Nat) : List (Nat × Word32) × Nat :=
  let k := s.core tile core
  let v := c.view
  let slot (n : Nat) := k.slots.toList.getD n none
  let product (sh : Shape) (ra rb : List (Except Nat MRow)) : List (Nat × Word32) × Nat :=
    let det := worse (detailOf ra) (detailOf rb)
    (((ra.zipIdx).flatMap fun x => (rb.zipIdx).filterMap fun y =>
      match x.1, y.1 with
      | .ok a, .ok b =>
        let i := accIndex sh x.2 y.2
        some (i, BitVec.ofNat 32 (pipeline c.fctl (accGet k.acc i).toNat a b))
      | _, _ => none), det)
  match c.instr with
  | .accz _ sh => ((accCells sh).map fun x => (accIndex sh x.1 x.2, 0), 0)
  | .accld _ sh _ =>
    match v.a with
    | none => ([], 0)
    | some a =>
      let rows := (List.range sh.rows).map fun i => (i, s.engineBytes c (a.row (4 * sh.cols) i) (4 * sh.cols))
      (rows.flatMap fun r => (List.range sh.cols).filterMap fun j =>
        let bytes := (r.2.drop (4 * j)).take 4
        let at' := accIndex sh r.1 j
        if detailOf bytes = 3 then none
        else
          let raw := bytes.mapIdx fun n x => match x with
            | .ok y => y.2
            | .error _ =>
              match s.engineTarget c ((a.row (4 * sh.cols) r.1 + 4 * j + n) % 2 ^ 64) with
              | some (_, key) => s.byteAt key
              | none => 0
          let x := BitVec.ofNat 32 (ofBytes raw)
          if detailOf r.2 = 2 ∧ Config.keeps (d + at') then none else some (at', x),
       detailOf (rows.flatMap fun r => r.2))
  | .mma _ sh _ _ sc =>
    match v.a, v.b with
    | some a, some b =>
      product sh
        ((List.range sh.rows).map (s.denseRow c a sc (v.rest.getD 0 0).toNat (slot 0)))
        ((List.range sh.cols).map (s.denseRow c b sc (v.rest.getD 1 0).toNat (slot 1)))
    | _, _ => ([], 0)
  | .mmas _ sh _ _ sc =>
    match v.a, v.b with
    | some a, some b =>
      product sh
        ((List.range sh.rows).map (s.sparseRow c a sc (v.rest.getD 0 0).toNat (slot 0)))
        ((List.range sh.cols).map (s.denseRow c b sc (v.rest.getD 1 0).toNat (slot 1)))
    | _, _ => ([], 0)
  | _ => ([], 0)

/-- Write elements of a core's partition. -/
def Core.writeAcc (c : Core) (l : List (Nat × Word32)) : Core :=
  { c with acc := l.foldl (fun a x => accPut a x.1 x.2) c.acc
           accErr := if c.accErr.isEmpty then [] else c.accErr.filter fun k => !(l.any fun x => x.1 = k) }

/-! ### ACCST (R295, R347) -/

/-- A tensor scale: 1.0 for g0. -/
def tensorScale (r : GReg) (x : Word) : Num :=
  if r.toNat = 0 then .fin false 1 0 else Machine.f32.unpack (bvBits x 31 0)

/-- One output: the exact triple product, rounded once. -/
def accOut (ty : VTy) (fctl : Word) (acc : Nat) (ta tb : Num) : Nat :=
  let p := (((Machine.f32.unpack acc).mul ta).1.mul tb).1
  match fmtOf ty with
  | some f => (f.pack (fctlRm fctl) (fctlFtz fctl) p).1
  | none => (toInt ty (fctlRm fctl) p).1

/-- Row i of an ACCST: its address and its bytes by offset, an errored element's left out; the detail. -/
def State.storeRow (s : State) (tile core : Nat) (c : Cmd) (i : Nat) : Nat × List (Nat × Byte) × Nat :=
  match c.instr, c.view.c with
  | .accst _ sh _ ga gb out, some x =>
    match VTy.ofCode out.toNat with
    | none => (0, [], 0)
    | some ty =>
      let k := s.core tile core
      let z := ty.width / 8
      let ta := tensorScale ga (c.view.rest.getD 0 0)
      let tb := tensorScale gb (c.view.rest.getD 1 0)
      let bad (j : Nat) : Bool := accIndex sh i j ∈ k.accErr
      (x.row (sh.cols * z) i,
       (List.range sh.cols).flatMap fun j =>
        if bad j then []
        else
          let v := accOut ty c.fctl (accGet k.acc (accIndex sh i j)).toNat ta tb
          ((toBytes z v).mapIdx fun n b => (z * j + n, b)),
       if (List.range sh.cols).any bad then 2 else 0)
  | _, _ => (0, [], 0)

end Sys2Proof.Machine
end

