-- ==== Sys2Proof/Machine/Engines.lean ====
section
/-! DEFINITION. What happens below the instructions of a core: store buffers drain (spec/09 R201), the vector queue (spec/04
R110 to R112), the engines start, perform and complete their commands (spec/04 R115 to R117; spec/09 R210; spec/24 R438 to
R449), berths fill and drain (spec/08 R188 to R190). -/

namespace Sys2Proof.Machine

/-! ### Store buffers (R201) -/

/-- The place among the packets of the n-th store that a tile has sent. -/
def State.nthStore (s : State) (tile n : Nat) : Option Nat :=
  ((s.packets.zipIdx.filter fun x => x.1.hdr.src == tile && match x.1.body with
    | .store .. => true
    | _ => false).map (·.2))[n]?

/-- A packet makes its next move, or does at its destination stop what it does there. -/
def State.advance (s : State) (k : Nat) : State :=
  match s.packets[k]? with
  | some p => if p.loc = .arrived then s.receive k else s.hop k
  | none => s

/-- STORE_BUFFER_DRAIN: with k = 0 the oldest store in a task's buffer drains into its tile's L1 and its packet leaves;
with k + 1 the packet of the k-th store on its way from the tile moves on, and at its home it is performed. -/
def execStoreBufferDrain (t k : Nat) (s : State) : Result :=
  event s (match s.task? t, k with
    | some x, 0 => if x.sbuf.isEmpty then none else some (s.drainOne t)
    | some x, n + 1 => (s.nthStore x.last.tile n).map s.advance
    | none, _ => none)

/-! ### The vector queue (R110 to R112) -/

/-- The weight of a core in VSHARE. -/
def Tile.weight (t : Tile) (c : Nat) : Nat := bvBits t.vshare (8 * c + 7) (8 * c)

/-- Vector and mask registers by one number: v0 to v31, then m1 to m7 from 33. -/
def maskNumber (m : MReg) : List Nat := if m.toNat = 0 then [] else [32 + m.toNat]

/-- The registers that a queued vector instruction writes. -/
def Instr.vwrites : Instr → List Nat
  | .vadd d .. | .vsub d .. | .vmul d .. | .vfma d .. | .vmin d .. | .vmax d .. | .vabs d .. | .vneg d .. | .vand d ..
  | .vor d .. | .vxor d .. | .vshl d .. | .vshr d .. | .vsra d .. | .vsel d .. | .vaddSat d .. | .vsubSat d .. | .vred d ..
  | .vscan d .. | .vcvt d .. | .vdec d .. | .venc d .. | .vrcp d .. | .vrsq d .. | .vexp2 d .. | .vlog2 d ..
  | .vbcast d .. | .vperm d .. | .vslide d .. | .viota d .. | .vld d .. | .vldx d .. => [d.toNat]
  | .vcmp _ m .. => maskNumber m
  | _ => []

/-- The registers that it reads; the inactive lanes of a destination are read too. -/
def Instr.vreads : Instr → List Nat
  | .vadd d a b k _ | .vsub d a b k _ | .vmul d a b k _ | .vfma d a b k _ | .vmin d a b k _ | .vmax d a b k _
  | .vand d a b k _ | .vor d a b k _ | .vxor d a b k _ | .vshl d a b k _ | .vshr d a b k _ | .vsra d a b k _
  | .vsel d a b k _ | .vaddSat d a b k _ | .vsubSat d a b k _ | .vperm d a b k _ =>
    d.toNat :: a.toNat :: b.toNat :: maskNumber k
  | .vabs d a k _ | .vneg d a k _ | .vred d a _ k _ | .vscan d a _ k _ | .vcvt d a _ k _ | .vdec d a _ k _ | .venc d a _ k _
  | .vrcp d a k _ | .vrsq d a k _ | .vexp2 d a k _ | .vlog2 d a k _ | .vslide d a _ k _ => d.toNat :: a.toNat :: maskNumber k
  | .vcmp _ m a b k _ => a.toNat :: b.toNat :: (maskNumber m ++ maskNumber k)
  | .vbcast d _ k _ | .viota d k _ | .vld d _ _ k _ | .vst d _ _ k _ => d.toNat :: maskNumber k
  | .vldx d _ b k _ | .vstx d _ b k _ => d.toNat :: b.toNat :: maskNumber k
  | .vmovs _ a _ _ => [a.toNat]
  | _ => []

/-- The first entry of a core's queue that no lane group has taken, where its operands are ready: no earlier entry of its
thread writes one. -/
def Core.vhead (c : Core) : Option Nat :=
  (c.vq.findIdx? fun e => e.bound.isNone).bind fun i => c.vq[i]?.bind fun x =>
    if (c.vq.take i).any fun e => e.task = x.task && (Instr.vwrites e.instr).any (· ∈ Instr.vreads x.instr) then none
    else some i

/-- The core that a free lane group serves: the smallest count by weight, the lower number on a tie; a core of weight 0
only when no other has a head. Among several of weight 0, for which R111's quotient is not defined, the model takes the
smallest count, then the lower number (notes/assumptions/89.md). -/
def Tile.vserve (t : Tile) : Option Nat :=
  let heads := (List.range 4).filter fun c => (t.core c).vhead.isSome
  let some' := heads.filter fun c => t.weight c ≠ 0
  let less (a b : Nat) : Bool :=
    -- count a / weight a < count b / weight b
    (t.core a).laneCount * t.weight b < (t.core b).laneCount * t.weight a
  let pick (l : List Nat) (lt : Nat → Nat → Bool) : Option Nat :=
    l.foldl (fun best c => match best with
      | none => some c
      | some b => if lt c b then some c else some b) none
  if some'.isEmpty then pick heads fun a b => (t.core a).laneCount < (t.core b).laneCount else pick some' less

/-- The number of halvings of a tile's lane counts that are due: one every 4,096 cycles. -/
def State.laneDue (s : State) (tile : Nat) : Nat := s.masterAt tile / 4096 - (s.tile tile).halved

/-- VECTOR_LANE_BIND: a free lane group takes a ready head. -/
def execVectorLaneBind (tile group : Nat) (s : State) : Result :=
  event s (
    let t := s.tile tile
    if (t.lanes.toList.getD group (some 0)).isSome ∨ s.laneDue tile ≠ 0 then none else
    match t.vserve with
    | none => none
    | some c =>
      match (t.core c).vhead with
      | none => none
      | some i =>
        let t' := { t with lanes := t.lanes.setIfInBounds group (some c) }
        some (s.setTile tile (t'.setCore c { t.core c with
          vq := (t.core c).vq.mapIdx fun n e => if n = i then { e with bound := some group } else e })))

/-- VECTOR_RETIRE: the oldest instruction of a core retires; its lane-group cycles, one or more, are counted. That they are
added when it retires, and none before, is the model's choice (notes/assumptions/89.md). -/
def execVectorRetire (tile core : Nat) (s : State) : Result :=
  event s (
    let t := s.tile tile
    match (t.core core).vq with
    | e :: r =>
      match e.bound with
      | some g =>
        let (d, s) := s.draw
        let t' := { t with lanes := t.lanes.setIfInBounds g none }
        some (s.setTile tile (t'.setCore core { t.core core with
          vq := r, laneCount := (t.core core).laneCount + 1 + Config.choose d }))
      | none => none
    | [] => none)

/-- LANE_COUNT_HALVING, every 4,096 cycles; those that are due come together. -/
def execLaneCountHalving (tile : Nat) (s : State) : Result :=
  event s (
    let n := s.laneDue tile
    if n = 0 then none else
    some (s.modTile tile fun t =>
      { t with halved := t.halved + n, cores := t.cores.map fun c => { c with laneCount := c.laneCount / 2 ^ n } }))

/-! ### Engine packets (R234, R249, R438) -/

/-- First address and bytes of the range that a copy command writes packed, none for the others. -/
def Cmd.packed (c : Cmd) : Nat × Nat :=
  let v := c.view
  let z := elemBytes ((v.c.map fun x => x.o.ty).getD 0)
  match c.instr with
  | .tcopy .. | .tfill .. => (addrOf v.c, lenOf v)
  | .tgather .. => (addrOf v.c, lenOf v * z)
  | _ => (0, 0)

/-- How many packets a command performs: one for each 256-byte line of a packed destination, one for each element of a
TSCATTER, one for each row of an ACCST. -/
def Cmd.packets (c : Cmd) : Nat :=
  match c.instr with
  | .tcopy .. | .tfill .. | .tgather .. =>
    let (a, n) := c.packed
    if n = 0 then 0 else (a + n - 1) / 256 - a / 256 + 1
  | .tscatter .. => lenOf c.view
  | .accst _ sh .. => sh.rows
  | _ => 0

/-- The offsets of packet p of a packed destination: from, and how many. -/
def packetSpan (a n p : Nat) : Nat × Nat :=
  let lo := max a ((a / 256 + p) * 256)
  let hi := min (a + n) ((a / 256 + p + 1) * 256)
  (lo - a, hi - lo)

/-- Bytes as an overlapping copy reads them: a byte that the command also writes has its value from before the command, or
the one that it has written there, each openly (R439, R441); `fresh`: what the packet that reads them has written, by
key. -/
def State.unspecBytes (s : State) (c : Cmd) (fresh : List (Nat × Byte)) (l : List (Except Nat (Nat × Byte))) :
    List (Except Nat Byte) × State :=
  if c.before.isEmpty then (l.map fun x => x.map (·.2), s)
  else
    (l.mapIdx fun n x => x.map fun y => match look c.before y.1 with
      | some old => if Config.keeps (s.draws + n) then old else (look fresh y.1).getD y.2
      | none => y.2,
     { s with draws := s.draws + l.length })

/-- What bytes become at the addresses from one up, added to what the packet has written, by key. -/
def State.freshen (s : State) (c : Cmd) (va : Nat) (l : List (Except Nat Byte)) (fresh : List (Nat × Byte)) :
    List (Nat × Byte) :=
  if c.before.isEmpty then [] else
  (l.zipIdx.filterMap fun x => match x.1, s.engineTarget c ((va + x.2) % 2 ^ 64) with
    | .ok b, some (_, k) => some (k, b)
    | _, _ => none) ++ fresh

/-- The parts of a packet, `n` of them, each made by `f` from what the parts made before it have written, in rising or falling
order, which of the two is open where the command overlaps (R439, R441); the bytes, part by part. -/
def State.inParts (s : State) (c : Cmd) (n : Nat)
    (f : State → List (Nat × Byte) → Nat → List (Except Nat Byte) × List (Nat × Byte) × State) :
    List (Except Nat Byte) × State :=
  let (up, s) := if c.before.isEmpty then (true, s) else (Config.keeps s.draws, { s with draws := s.draws + 1 })
  let order := if up then List.range n else (List.range n).reverse
  let r := order.foldl (fun (r : List (List (Except Nat Byte)) × List (Nat × Byte) × State) i =>
    let (l, fresh, s) := f r.2.2 r.2.1 i
    (if up then r.1 ++ [l] else l :: r.1, fresh, s)) ([], [], s)
  (r.1.flatMap id, r.2.2)

/-- The bytes of a list that were read, by offset. -/
def readable (l : List (Except Nat Byte)) : List (Nat × Byte) :=
  (l.zipIdx).filterMap fun x => match x.1 with
    | .ok b => some (x.2, b)
    | .error _ => none

/-- A number from bytes, none where one was not read. -/
def numberOf (l : List (Except Nat Byte)) : Option Nat :=
  if l.all fun x => x.isOk then some (ofBytes (l.map fun x => match x with | .ok b => b | .error _ => 0)) else none

/-- Is operand A of kind L2? -/
def Arg.isL2 (x : Option Arg) : Bool := match x with
  | some ⟨.mem true .., _, _⟩ => true
  | _ => false

/-- A copy command reads a range. -/
def State.copyRead (s : State) (tile : Nat) (c : Cmd) (fresh : List (Nat × Byte)) (va n : Nat) (l2 : Bool) :
    List (Except Nat Byte) × State :=
  let (l, s) := s.engineRead tile c va n l2
  s.unspecBytes c fresh l

/-- A copy command copies a range within a packet, byte by byte. -/
def State.copyRun (s : State) (tile : Nat) (c : Cmd) (src dst n : Nat) (l2 : Bool) : List (Except Nat Byte) × State :=
  let (l, s) := s.engineRead tile c src n l2
  if c.before.isEmpty then s.unspecBytes c [] l else
  s.inParts c n fun s fresh j =>
    let (b, s) := s.unspecBytes c fresh ((l.drop j).take 1)
    (b, s.freshen c (dst + j) b fresh, s)

/-- Element e of a gather: its bytes, and the detail. -/
def State.gathered (s : State) (tile : Nat) (c : Cmd) (fresh : List (Nat × Byte)) (z iz e : Nat) : List (Except Nat Byte) × State :=
  let v := c.view
  let ext := (v.a.map fun x => bvBits x.stride 31 0).getD 0
  let (ib, s) := s.copyRead tile c fresh (addrOf v.b + iz * e) iz false
  match numberOf ib with
  | none => ((List.range z).map fun _ => .error (detailOf ib), s)
  | some i =>
    if i * z + z ≤ ext then s.copyRead tile c fresh (addrOf v.a + i * z) z (Arg.isL2 v.a)
    else ((List.range z).map fun _ => .ok 0, s)

/-- The data of packet p: the address it is written at, its bytes by offset, and the detail of its reads. -/
def State.packetData (s : State) (tile core : Nat) (c : Cmd) (p : Nat) : Nat × List (Nat × Byte) × Nat × State :=
  let v := c.view
  match c.instr with
  | .tcopy .. =>
    let (a, n) := c.packed
    let (o, k) := packetSpan a n p
    let (l, s) := s.copyRun tile c (addrOf v.a + o) (a + o) k (Arg.isL2 v.a)
    (a + o, readable l, detailOf l, s)
  | .tfill _ x .. =>
    let (a, n) := c.packed
    let (o, k) := packetSpan a n p
    let z := elemBytes x.ty
    let pat := if x.ty = 13 then [BitVec.ofNat 8 (17 * bvBits (v.rest.getD 1 0) 3 0)]
      else toBytes z (v.rest.getD 1 0).toNat
    (a + o, (List.range k).map (fun i => (i, pat.getD ((o + i) % pat.length) 0)), 0, s)
  | .tgather _ _ b x _ =>
    let (a, n) := c.packed
    let (o, k) := packetSpan a n p
    let z := elemBytes x.ty
    let iz := elemBytes b.ty
    -- an element lies whole in one line
    let (l, s) := s.inParts c (k / z) fun s fresh i =>
      let (e, s) := s.gathered tile c fresh z iz ((o + z * i) / z)
      (e, s.freshen c (a + o + z * i) e fresh, s)
    (a + o, readable l, detailOf l, s)
  | .tscatter _ x b _ _ =>
    let z := elemBytes x.ty
    let iz := elemBytes b.ty
    let ext := (v.c.map fun u => bvBits u.stride 31 0).getD 0
    let (ib, s) := s.copyRead tile c [] (addrOf v.b + iz * p) iz false
    match numberOf ib with
    | none => (0, [], detailOf ib, s)
    | some i =>
      if i * z + z ≤ ext then
        let (l, s) := s.copyRun tile c (addrOf v.a + z * p) (addrOf v.c + i * z) z (Arg.isL2 v.a)
        (addrOf v.c + i * z, readable l, detailOf l, s)
      else (0, [], 0, s)
  | .accst .. =>
    let (a, l, d) := s.storeRow tile core c p
    (a, l, d, s)
  | _ => (0, [], 0, s)

/-- Change a command in its queue. -/
def State.modCmd (s : State) (tile core id : Nat) (f : Cmd → Cmd) : State :=
  let g (l : List Cmd) : List Cmd := l.map fun c => if c.id = id then f c else c
  s.modCore tile core fun c =>
    { c with matrix := g c.matrix, copy := g c.copy, collective := g c.collective, stream := g c.stream }

def State.findCmd (s : State) (tile core id : Nat) : Option Cmd := (s.core tile core).cmds.find? fun c => c.id = id

/-- Make one packet of a command: it leaves for its home, or is performed there at once. -/
def State.doPacket (s : State) (tile core id p : Nat) (posts : Bool := false) : State :=
  match s.findCmd tile core id with
  | none => s
  | some c =>
    if p ∈ c.done then s else
    let (a, l, d, s) := s.packetData tile core c p
    let (s, d') := if posts then s.enginePosts tile c a l else s.engineWrite tile c a l
    s.modCmd tile core id fun c => { c with done := p :: c.done, detail := worse c.detail (worse d d') }

/-- The packets of a command that are left. -/
def Cmd.left (c : Cmd) : List Nat := (List.range c.packets).filter fun p => !(p ∈ c.done)

/-- Perform every packet that is left. The elements of a TSCATTER that meet one another come in an open order (R441). -/
def State.doPackets (s : State) (tile core id : Nat) (open_ : Bool) : Nat → State
  | 0 => s
  | n + 1 =>
    match s.findCmd tile core id with
    | none => s
    | some c =>
      match c.left with
      | [] => s
      | [p] => s.doPacket tile core id p
      | p :: r =>
        if open_ then
          let (d, s) := s.draw
          (s.doPacket tile core id ((p :: r).getD (Config.choose d % (r.length + 1)) p)).doPackets tile core id open_ n
        else (s.doPacket tile core id p).doPackets tile core id open_ n

/-- What the bytes that a copy command both reads and writes hold at its start, by key. -/
def State.beforeOf (s : State) (c : Cmd) : List (Nat × Byte) :=
  let ranges := rangesOf c.instr c.view
  let keys (w : Bool) : List Nat := (ranges.filter fun r => r.write == w).flatMap fun r =>
    (List.range r.len).filterMap fun i => (s.engineTarget c ((r.va + i) % 2 ^ 64)).map (·.2)
  match c.instr with
  | .tcopy .. | .tgather .. | .tscatter .. =>
    let written := keys true
    if written.isEmpty then [] else
    (keys false).filterMap fun k => if k ∈ written then some (k, s.byteAt k) else none
  | _ => []

/-! ### Ready heads (R115 to R117, R189) -/

/-- The berths that a command's operands name: the ring's place in the task's window, and the berth, each once. -/
def State.berthsOf (s : State) (c : Cmd) : List (Nat × Nat) :=
  let one (x : Option Arg) : List (Nat × Nat) := match x with
    | some ⟨.berth _ _ n, base, _⟩ =>
      match (s.task? c.task).bind fun t => t.ringAt base.toNat (n.toNat + 1) with
      | some off => [(off, n.toNat)]
      | none => []
    | _ => []
  match c.instr with
  | .mma .. | .mmas .. => (one c.view.a ++ one c.view.b).dedup
  | _ => []

/-- Is the command of one of these numbers still to end? -/
def State.pendingAmong (s : State) (ids : List Nat) : Bool :=
  !ids.isEmpty && s.commands.any fun c => c.id ∈ ids

/-- May the command at the head of a queue start? -/
def State.ready (s : State) (c : Cmd) : Bool :=
  !c.started && !s.pendingAmong c.preds && (s.berthsOf c).all fun b =>
    match s.berthWord c.task b.1 b.2 with
    | some w => berthState w = 2
    | none => true

/-- Logical tiles whose windows a command's ranges touch, by another way than its task's own window. -/
def State.lidsOf (s : State) (c : Cmd) : List Nat :=
  ((rangesOf c.instr c.view).flatMap fun r =>
    if Config.windowBase ≤ r.va ∧ r.va < Config.windowBase + 2 ^ 36 ∧ r.len ≠ 0 then
      let lo := (r.va - Config.windowBase) / 2 ^ 24
      let hi := (r.va + r.len - 1 - Config.windowBase) / 2 ^ 24
      let own := match s.task? c.task with
        | some t => t.owns lo (r.va % 2 ^ 24)
        | none => false
      if own then [] else (List.range (hi - lo + 1)).map (lo + ·)
    else []).dedup

/-- A write packet of a command. -/
def Pkt.engineOf (id : Nat) (p : Pkt) : Bool := match p.body with
  | .engine _ c _ => c = id
  | _ => false

/-- Is a command held at a move (R158, R162), or are packets of it held by one? -/
def State.engineHeld (s : State) (tile : Nat) (c : Cmd) : Bool :=
  (s.lidsOf c).any (fun l => s.held c.vd l tile) || s.packets.any fun p => p.engineOf c.id && s.stuck p

/-! ### TXCHG (R297, R300, R446 to R449) -/

/-- Insert by key, ascending; of two equal keys the one that has joined the group earlier comes first: which of two members
that last ran on one core comes first is not stated (notes/assumptions/78.md). -/
def insertBy (key : Nat → Nat × Nat) (x : Nat) : List Nat → List Nat
  | [] => [x]
  | y :: r =>
    let a := key x
    let b := key y
    if a.1 < b.1 ∨ (a.1 = b.1 ∧ a.2 < b.2) then x :: y :: r else y :: insertBy key x r

/-- Members in the order of R297: by logical tile, then core, of the place each last ran on. -/
def State.chainOrder (s : State) (l : List Nat) : List Nat :=
  let key (id : Nat) : Nat × Nat := match s.task? id with
    | some t => (s.lidOf t, t.last.core)
    | none => (4096, 0)
  l.foldl (fun r x => insertBy key x r) []

/-- The group of a TXCHG. -/
def Cmd.groupId (c : Cmd) : Nat := (c.vals.getD 0 0).toNat
def Cmd.shape (c : Cmd) : Shape :=
  match c.instr with
  | .mma _ sh .. | .mmas _ sh .. | .accz _ sh | .accld _ sh _ | .accst _ sh .. | .txchg _ sh _ => sh
  | _ => ⟨0, .m16, 0⟩

/-- The round that a TXCHG takes part in: the earliest of its group that its task has not sent in. -/
def State.roundOf (s : State) (c : Cmd) : Option Round :=
  (s.group c.vd c.groupId).roundOf c.task

/-- A TXCHG starts: it joins its round, or begins one with the members of this cycle (R447). -/
def State.joinRound (s : State) (c : Cmd) : State :=
  let g := s.group c.vd c.groupId
  if !g.member c.task ∨ (s.roundOf c).isSome then s
  else
    let r : Round := { n := g.begun, order := s.chainOrder (g.members.map (·.1)) }
    s.setGroup c.vd c.groupId { g with rounds := g.rounds ++ [r], begun := g.begun + 1 }

def State.setRound (s : State) (c : Cmd) (r : Round) : State :=
  let g := s.group c.vd c.groupId
  s.setGroup c.vd c.groupId ({ g with rounds := g.rounds.map fun q => if q.n = r.n then r else q } : Group).prune

/-- The element of the partition that a TXCHG reads. While a matrix command that writes it is in progress, its value
before that command and its value after it are both open (R447). -/
def State.exchangeRead (s : State) (tile core : Nat) (c : Cmd) : (Nat → Word32) × State :=
  let k := s.core tile core
  let rival := k.matrix.find? fun m => m.started && !(m.id ∈ c.preds)
  match rival with
  | none => (fun i => if i ∈ k.accErr then 0x7FC00000 else accGet k.acc i, s)
  | some m =>
    let (w, _) := s.accWrites tile core m s.draws
    let now (i : Nat) : Word32 := if i ∈ k.accErr then 0x7FC00000 else accGet k.acc i
    (fun i => match look w i with
      | some x => if Config.keeps (s.draws + i) then x else now i
      | none => now i,
     if w.isEmpty then s else { s with draws := s.draws + 16384 })

/-- A message of a round leaves for the place of its member, as engine writes of up to 256 bytes do (R233,
notes/assumptions/69.md); the last of them has what the member receives. -/
def State.sendSum (s : State) (tile : Nat) (c : Cmd) (round dest : Nat) (m : Message) : State :=
  let bytes := 4 * m.sum.length
  let more := (bytes + 255) / 256 - 1
  let s := (List.range more).foldl (fun s _ =>
    s.send 0x06 8 tile 4 c.vd 0 0 (.member dest) (.request 0x03 0 0 []) { size := 256 }) s
  s.send 0x06 (flits (bytes - 256 * more)) tile 4 c.vd 0 0 (.member dest) (.txchg c.vd c.groupId round dest m)
    { size := bytes - 256 * more }

/-- What a started TXCHG can do now: nothing, or its part in its round; then it may complete. The flag says that its
part is done. -/
def State.exchange (s : State) (tile core : Nat) (c : Cmd) : State × Bool :=
  let g := s.group c.vd c.groupId
  let sh := c.shape
  match s.roundOf c with
  | none => (s, true)
  | some r =>
    if ¬ g.member c.task then (s, true) else
    let before := (r.order.takeWhile (· ≠ c.task)).filter fun m => !(m ∈ r.gone)
    let waits := before.any (fun m => !(m ∈ r.sent)) || s.packets.any (Pkt.isFor c.vd c.groupId r.n c.task)
    let next := r.after c.task
    let send (s : State) (m : Message) : State :=
      let s := s.setRound c { r with sent := c.task :: r.sent, msgs := cut r.msgs c.task }
      match next with
      | some d => s.sendSum tile c r.n d m
      | none => s
    let errs := (accCells sh).any fun x => accIndex sh x.1 x.2 ∈ (s.core tile core).accErr
    let note (s : State) : State := if errs then s.modCmd tile core c.id fun c => { c with detail := 2 } else s
    match look r.msgs c.task with
    | some m =>
      if m.rows ≠ sh.rows ∨ m.cols ≠ sh.cols then (send s m, true)
      else
        let (acc, s) := s.exchangeRead tile core c
        let sum := ((accCells sh).zip m.sum).map fun x =>
          BitVec.ofNat 32 (addF32 c.fctl x.2.toNat (Machine.f32.unpack (acc (accIndex sh x.1.1 x.1.2)).toNat))
        let s := note (send s { m with sum := sum })
        match next with
        | some _ => (s, true)
        | none => (s.modCore tile core fun k =>
            k.writeAcc ((accCells sh).zip sum |>.map fun x => (accIndex sh x.1.1 x.1.2, x.2)), true)
    | none =>
      if waits then (s, false)
      else
        match next with
        | none => (send s ⟨0, 0, []⟩, true)
        | some _ =>
          let (acc, s) := s.exchangeRead tile core c
          let m : Message := { rows := sh.rows, cols := sh.cols,
                               sum := (accCells sh).map fun x => acc (accIndex sh x.1 x.2) }
          (note (send s m), true)

/-- Has the successor of a member accepted its message (R300)? -/
def State.accepted (s : State) (c : Cmd) : Bool :=
  !(s.packets.any fun p => match p.body with
    | .txchg v g n d _ => v = c.vd && g = c.groupId &&
        ((s.group v g).rounds.any fun r => r.n = n && r.after c.task = some d &&
          (r.order.takeWhile (· ≠ c.task)).all fun m => m ∈ r.gone)
    | _ => false)

/-! ### Start (R115) -/

/-- Mark a command started: its future runs, its berths are taken, a TXCHG joins its round, a copy notes what its
overlapping bytes hold, a matrix command fetches its operands. -/
def State.startCmd (s : State) (tile core : Nat) (c : Cmd) : State :=
  let s := match c.fut with
    | some i => s.modFut c.vd i fun f => if finalState f.state then f else { f with state := 3 }
    | none => s
  let s := if Instr.copies c.instr then (rangesOf c.instr c.view).foldl (fun s r => s.engineSettle tile c r.va r.len) s else s
  let before := s.beforeOf c
  let bad := (s.berthsOf c).any fun b => match s.berthWord c.task b.1 b.2 with
    | some w => bvBits w 11 8 ≠ 0
    | none => false
  let s := (s.berthsOf c).foldl (fun s b => s.berthMove c.task b.1 b.2 2 (withState 3)) s
  let s := s.modCmd tile core c.id fun x =>
    { x with started := true, before := before, detail := if bad then 2 else x.detail }
  match c.instr with
  | .txchg .. => s.joinRound c
  | _ => s.fetchOperands tile c

/-- A subscription starts, or goes on from where a pre-emption paused it (R190, R273). A quay streamer of its die serves it:
which one is open (notes/assumptions/93.md). -/
def State.startSub (s : State) (tile core : Nat) (c : Cmd) : State :=
  match (s.core tile core).paused.find? fun u => u.cmd.id = c.id with
  | some u => s.modCore tile core fun k =>
      { k with sub := some u, paused := k.paused.filter fun x => x.cmd.id ≠ c.id }
  | none =>
    let (base, n) := ringOf c.view.c
    let off := ((s.task? c.task).bind fun t => t.ringAt base n).getD 0
    let pull := match c.instr with
      | .tsub _ _ _ _ p => p
      | _ => false
    let (d, s) := s.draw
    let u : Sub := { cmd := c, streamer := 8 * dieOf tile + Config.choose d % 8, ring := off, berths := n, src := addrOf c.view.a, pull := pull, total := lenOf c.view }
    s.modCore tile core fun k => { k with sub := some u, rings := (c.task, off, n) :: k.rings }

/-- The number of an engine among the three that serve one command at a time; the stream engine keeps no such turn. -/
def engineNumber : EngQ → Nat
  | .matrix => 0 | .copy => 1 | .collective => 2 | .stream => 3

/-- A QFENCE is never started: at the head of its queue it completes (R116). -/
def Cmd.isFence (c : Cmd) : Bool := match c.instr with
  | .qfence .. => true
  | _ => false

/-- The head of a core's queue that its engine may start. -/
def State.startable (s : State) (tile core : Nat) (q : EngQ) : Option Cmd :=
  match (s.core tile core).queue q with
  | c :: _ =>
    if !c.isFence && s.ready c && !(q = .stream && (s.core tile core).sub.isSome) then some c else none
  | [] => none

/-- What a turn of an engine makes of the state, where the byte budget of its tile's cluster affords it (R317). -/
def State.within? (s : State) (tile : Nat) (s' : State) : Option State := if s.afforded s' tile then some s' else none

/-- ENGINE_COMMAND_START: the engine of a queue serves the next ready head round-robin; the stream engine the first core
with one. A matrix command whose operands the byte budget does not grant waits (R317). -/
def execEngineCommandStart (tile : Nat) (q : EngQ) (s : State) : Result :=
  event s (
    let t := s.tile tile
    let busy := q ≠ .stream && (List.range 4).any fun c => ((t.core c).queue q).any fun x => x.started
    if busy then none else
    let last := t.served.toList.getD (engineNumber q) 3
    let order := if q = .stream then List.range 4 else (List.range 4).map fun i => (last + 1 + i) % 4
    match order.find? fun c => (s.startable tile c q).isSome with
    | none => none
    | some c =>
      match s.startable tile c q with
      | none => none
      | some x =>
        let s1 := s.modTile tile fun t => { t with served := t.served.setIfInBounds (engineNumber q) c }
        let s1 := s1.startCmd tile c x
        s.within? tile (if q = .stream then s1.startSub tile c { x with started := true } else s1))

/-! ### Completion (R210) -/

/-- Do the berths that a command took hold CONSUMING? Where one holds anything else, the matrix unit waits (R188). -/
def State.berthsTaken (s : State) (c : Cmd) : Bool :=
  (s.berthsOf c).all fun b => (s.berthWord c.task b.1 b.2).all fun w => berthState w = 3

/-- A matrix command gives back the berths that it took (R188, R189). -/
def State.leaveBerths (s : State) (tile core : Nat) (c : Cmd) : State :=
  (s.berthsOf c).foldl (fun s b =>
    let s := s.berthMove c.task b.1 b.2 3 (withState 4)
    s.modCore tile core fun k =>
      if k.rings.any fun r => r.1 = c.task && r.2.1 = b.1 && b.2 < r.2.2 then k
      else { k with rings := (c.task, b.1, b.2 + 1) :: k.rings }) s

/-- Have all the panels of a subscription been served? One that TUNSUB ends leaves no berth in DRAINING with the pull flag
(R445). -/
def State.subOver (s : State) (u : Sub) : Bool :=
  u.filling.isNone && if u.ending then !(u.pull && (List.range u.berths).any fun b =>
      s.isDraining u.cmd.task u.ring b && (u.panelIn b).isSome)
    else u.total ≤ u.next && (!u.pull || u.total ≤ u.drained)

/-- ENGINE_COMMAND_COMPLETE: the head of a core's queue performs what is left of it, where the byte budget has room for all of
that (R317), and ends. -/
def execEngineCommandComplete (tile core : Nat) (q : EngQ) (s : State) : Result :=
  event s (
    let s : State := { s with cur := ⟨tile, core, s.cur.thread⟩ }
    match (s.core tile core).queue q with
    | [] => none
    | c :: _ =>
      if c.isFence then
        if s.pendingAmong c.preds || s.pendingAmong (c.awaits.filter (· ≠ c.id)) then none
        else some (s.finishCmd c 0)
      else if !c.started || s.engineHeld tile c || !s.berthsTaken c then none
      else
      let s := s.flush (Pkt.engineOf c.id)
      match c.instr with
      | .tcopy .. | .tfill .. | .tgather .. | .accst .. | .tscatter .. =>
        let open_ := match c.instr with
          | .tscatter .. => true
          | _ => false
        let s1 := s.doPackets tile core c.id open_ c.packets
        if (s.cluster (clusterOf tile)).granted ≠ (s1.cluster (clusterOf tile)).granted ∧
          !(s1.cluster (clusterOf tile)).fits 0 then none
        else (s1.findCmd tile core c.id).map fun c => s1.finishCmd c c.detail
      | .tabld _ slot _ =>
        some ((s.modCore tile core fun k => { k with slots := k.slots.setIfInBounds slot.toNat c.table }).finishCmd c 0)
      | .mma .. | .mmas .. | .accz .. | .accld .. =>
        if c.detail = 2 then some ((s.leaveBerths tile core c).finishCmd c 2)
        else
          let (w, d) := s.accWrites tile core c s.draws
          let s := match c.instr with
            | .accld .. => { s with draws := s.draws + 16384 }
            | .mma .. | .mmas .. => { s with draws := s.draws + 1 }
            | _ => s
          let s := s.modCore tile core fun k => k.writeAcc w
          some ((s.leaveBerths tile core c).finishCmd c d)
      | .txchg .. =>
        let (s, fin) := if c.done.isEmpty then s.exchange tile core c else (s, true)
        let s := if fin then s.modCmd tile core c.id fun x => { x with done := [0] } else s
        if !fin then none
        else if s.accepted c then (s.findCmd tile core c.id).map fun c => s.finishCmd c c.detail
        else some s
      | .tsub .. =>
        match (s.core tile core).sub with
        | some u => if u.cmd.id = c.id ∧ s.subOver u then some (s.endSub tile core) else none
        | none => none
      | _ => none)

/-- A turn of the engines between start and completion: one packet of a started copy or store command of a core, where the
byte budget affords it. -/
def State.enginePacket (s : State) (tile core : Nat) : State :=
  let k := s.core tile core
  let works (l : List Cmd) : Option Cmd := match l with
    | c :: _ =>
      if c.started && !c.left.isEmpty && !s.engineHeld tile c then some c else none
    | [] => none
  let run1 (c : Cmd) : State :=
    let (d, s1) := s.draw
    (s.within? tile (s1.doPacket tile core c.id (c.left.getD (Config.choose d % c.left.length) 0) true)).getD s
  match works k.copy, works k.matrix with
  | some c, none => run1 c
  | none, some c => run1 c
  | some c, some m => if Config.keeps s.draws then run1 c else run1 m
  | none, none => s

/-- TXCHG_MESSAGE_ARRIVAL: the k-th packet, a message that has reached its stop, is held by its member's collective engine
(R300), or with the saved TXCHG (R449). -/
def execTxchgMessageArrival (k : Nat) (s : State) : Result :=
  event s (match s.packets[k]? with
    | none => none
    | some p =>
      match p.body with
      | .txchg v g n d m =>
        if !s.mayReceive k p then none else
        some ((({ s with packets := s.packets.eraseIdx k } : State).answer p 0x03 0).exchangeHere v g n d m)
      | _ => none)

/-! ### Berths (R188, R190) -/

/-- The subscription of a core whose next panel is due at an EMPTY berth; none while a pre-emption or a role move saves its
task (R271). -/
def State.fillDue (s : State) (tile core : Nat) : Option Sub :=
  match (s.core tile core).sub with
  | none => none
  | some u =>
    if u.filling.isSome ∨ u.ending ∨ u.total ≤ u.next ∨ u.berths = 0 ∨ s.isSaving u.cmd.task ∨ !s.computes u.cmd.vd tile then none
    else if (s.berthWord u.cmd.task u.ring (u.next % u.berths)).any fun w => berthState w = 0 then some u
    else none

/-- The core that a quay streamer serves next: of those of its die with a panel due from it, the one that comes first after
the core it served last (R115, R190). -/
def State.streamerNext (s : State) (n : Nat) : Option (Nat × Nat) :=
  let last := (s.dies.toList.getD (n / 8) {}).streamers.toList.getD (n % 8) 1023
  let due := (s.tiles.filter fun x => dieOf x.1 = n / 8).flatMap fun x => (List.range 4).filterMap fun c =>
    if (s.fillDue x.1 c).any fun u => u.streamer = n then some (x.1, c) else none
  smallest (fun x => (4 * (x.1 % 256) + x.2 + 1023 - last) % 1024) due

/-- BERTH_FILL_START: a quay streamer serves the panels of the running subscriptions that are its own round-robin by core
(R115). -/
def execBerthFillStart (tile core : Nat) (s : State) : Result :=
  event s (
    match s.fillDue tile core with
    | none => none
    | some u =>
      if s.streamerNext u.streamer ≠ some (tile, core) then none else
      let s := s.berthMove u.cmd.task u.ring (u.next % u.berths) 0 (withState 1)
      let s : State := { s with dies := s.dies.mapIdx fun i d => if i = u.streamer / 8 then
        { d with streamers := d.streamers.setIfInBounds (u.streamer % 8) (4 * (tile % 256) + core) } else d }
      some (s.modCore tile core fun k => { k with sub := some { u with filling := some u.next } }))

/-- BERTH_FILL_COMPLETE: the panel in flight, once its bytes are granted (R317) and the flash channels serve it (R23), is
written and its berth is FULL (R188, R298). -/
def execBerthFillComplete (tile core : Nat) (s : State) : Result :=
  event s (match (s.core tile core).sub with
    | some u =>
      if u.filling.isSome && !s.fillWaits u && !s.fillYields u then s.within? tile (s.fillDone tile core) else none
    | none => none)

/-- BERTH_DRAIN: a DRAINING berth of the running subscription's ring, or of a ring named before, becomes EMPTY; with the pull
flag its panel goes back first, one panel of the subscription at a time. -/
def execBerthDrain (tile core berth : Nat) (s : State) : Result :=
  event s (
    let other : Option State :=
      match (s.core tile core).rings.find? fun r => berth < r.2.2 && s.isDraining r.1 r.2.1 berth &&
          !(((s.core tile core).sub.toList ++ (s.core tile core).paused).any fun u => u.cmd.task = r.1 && u.ring = r.2.1) with
      | some r => some (s.berthMove r.1 r.2.1 berth 4 (withState 0))
      | none => none
    match (s.core tile core).sub with
    | some u =>
      if berth < u.berths && s.isDraining u.cmd.task u.ring berth then
        match (if u.pull then u.panelIn berth else none) with
        | some i =>
          if u.filling.isSome || s.isSaving u.cmd.task then none
          else s.within? tile (s.pullPanel tile core u berth i)
        | none => some (s.berthMove u.cmd.task u.ring berth 4 (withState 0))
      else other
    | none => other)

end Sys2Proof.Machine
end

