-- ==== Sys2Proof/Machine/Time.lean ====
section
/-! DEFINITION. The passing of time: CYCLES (R4), the thread-cycles that tasks use (R101), the count of idle cycles (R304,
R305), and a wake event of a device that is not idle any more (R308, R312). -/

namespace Sys2Proof.Machine

/-! ### Idleness (R304) -/

/-- Does a task that waits so keep its device from being idle? Those in MWAIT, EVWAIT, SLEEP and a pop of an empty queue
do not. -/
def Wait.busy : Wait → Bool
  | .monitor _ | .lines .. | .pop .. | .sleep _ => false
  | _ => true

/-- So for every status of a task. -/
def Status.busy : Status → Bool
  | .pending => false
  | .blocked w => w.busy
  | .ready | .running _ | .saving _ | .stopping _ => true

/-- Is a device idle in this cycle? -/
def State.deviceIdle (s : State) (vd : Nat) (v : Vd) : Bool :=
  !(s.tasks.any fun x => x.2.vd = vd && x.2.status.busy) && v.gangs.isEmpty &&
  !(s.tiles.any fun x => x.2.owner.any (fun o => o.1 = vd) &&
      x.2.cores.toList.any fun c => !c.cmds.isEmpty || c.sub.isSome || !c.paused.isEmpty) &&
  !(s.tasks.any fun x => x.2.vd = vd && x.2.saved.any fun sv => !sv.cmds.isEmpty || sv.sub.isSome) &&
  !(v.rolemap.any fun e => e.2.state = 2) &&
  !(v.futs.any fun f => (f.2.kind = 2 || f.2.kind = 3) && f.2.state ≠ 0 && !finalState f.2.state)

/-! ### Time -/

/-- The cycles that the running tasks of a device use while `n` timebase cycles pass, by cluster: master cycles of the
cluster's die (R4, R101). -/
def State.charge (s : State) (n vd : Nat) (used : List (Nat × Nat)) : List (Nat × Nat) :=
  s.tasks.foldl (fun u x => match x.2.status with
    | .running p =>
      let c := clusterOf p.tile
      let d := s.dies.toList.getD (dieOf p.tile) {}
      if x.2.vd = vd then put u c ((look u c).getD 0 + ((d.pass n).master - d.master)) else u
    | _ => u) used

/-- `n` cycles pass in this state: CYCLES and the master clocks (R4), the thread-cycles used (R101), the idle counts (R305)
and the cycles of full slots (R246). -/
def State.pass (s : State) (n : Nat) : State :=
  let f (x : Nat × Vd) : Nat × Vd := (x.1, { x.2 with
    used := s.charge n x.1 x.2.used
    idleSince := if x.2.pwr = 0 && s.deviceIdle x.1 x.2 then x.2.idleSince.or (some s.cycles) else none })
  ({ s with cycles := s.cycles + n, vds := s.vds.map f, dies := s.dies.map fun d => d.pass n } : State).countFull s

/-- Time passes, unless the clocks are stopped (R336). How long a step takes is open. -/
def State.tick (s : State) : State :=
  if s.freeze then s else ({ s with draws := s.draws + 1 } : State).pass (1 + Config.stall s.draws)

/-! ### Messages in order (R241) -/

/-- Has the sender's step of a later message of the k-th packet's path had its effect? -/
def State.passedBy (s : State) (k : Nat) (p : Pkt) : Bool :=
  s.carries p && p.loc != .drained && !s.blocked p && (s.packets.drop (k + 1)).any fun q =>
    q.hdr.message && q.body == .plain && s.samePath p q

/-- What an event or an enqueue's entry brings comes before the effect of a later message of its path, which its sender's step
has had (R241, notes/assumptions/69.md): it is brought within that step. -/
def State.settleMessages (s : State) : Nat → State
  | 0 => s
  | n + 1 =>
    let late := s.packets.zipIdx.filter fun x => s.passedBy x.2 x.1
    if late.isEmpty then s else
    let rest := (s.packets.zipIdx.filter fun x => !s.passedBy x.2 x.1).map Prod.fst
    let s1 : State := late.foldl (fun s x => s.countRest x.1) s
    let s2 : State := late.foldl (fun s x => s.messageHere x.1) { s1 with packets := rest }
    s2.settleMessages n

/-- The end of a step. -/
def State.finish (s : State) : State := (if s.packets.any s.carries then s.settleMessages s.packets.length else s).tick

def tickResult : Result → Result
  | .next s => .next s.finish
  | r => r

/-- No turn: time passes to a cycle. -/
def State.waitTill (s : State) (till : Nat) : State := if s.cycles < till then s.pass (till - s.cycles) else s

end Sys2Proof.Machine
end

