-- ==== Sys2Proof/Machine/Waits.lean ====
section
/-! DEFINITION. MWAIT and the event lines (spec/09 R212; spec/21 R364 to R367; spec/22 R401). -/

namespace Sys2Proof.Machine

/-- MWAIT (R401): compare at the home, or arm a monitor and park; once woken, it returns what the location then holds. -/
def execMwait (d a b : GReg) (dw : Bool) (c : Scope) (s : State) : Result :=
  run (.mwait d a b dw c) (fun id t v => do
    let n := width dw
    let va := (v.getD 0 0).toNat
    if va % n ≠ 0 then trap 2 (v.getD 0 0)
    let (g, p) ← resolve id t va .load
    match g with
    | .host _ | .peer .. => trap 6 (v.getD 0 0)
    | _ => pure ()
    let _ ← keyOf t va g
    budget t g 8
    modify fun s => (s.drain id).settlePath t.last.tile id (.place t.vd id g) g n
    let k ← keyOf t va g
    let x ← atomicRead va k n
    match g with
    | .phys a ms => modify fun s => if ms then s.l2Drop (a / 256) else s.l2Demand t.vd p.tier a n p.ret false
    | _ => pure ()
    modify fun s => s.traffic 4 0 0 t.vd id t.last va (v.getD 1 0) g { size := n, scope := c.code.toNat } (BitVec.ofNat 64 x)
    if t.woke ≠ some .done ∧ x = (v.getD 1 0).toNat % 2 ^ (8 * n) then parkOn (.monitor (k / 256))
    modify fun s => s.acquire id c
    return { vals := [extend false n x] }) s

/-! ### Event units (R364, R366) -/

/-- EVWAIT (R366): take the pending lines of the mask, or park. The test runs again at each resumption. -/
def execEvwait (d a : GReg) (s : State) : Result :=
  run (.evwait d a) (fun id t v => do
    let mask : Word32 := (v.getD 0 0).setWidth 32
    if mask = 0 then trap 1 0
    let s ← get
    let cl := clusterOf t.last.tile
    let p := (s.vd t.vd).pendingAt cl &&& mask
    if p = 0 then parkOn (.lines cl mask)
    set ((s.setPending t.vd cl ((s.vd t.vd).pendingAt cl &&& ~~~mask)).acquire id .module)
    return { vals := [p.setWidth 64] }) s

/-- The logical tile whose slot of the event window an address begins (R168). -/
def eventSlot (a : Nat) : Option Nat :=
  if Config.eventBase ≤ a ∧ a < Config.eventBase + 2 ^ 28 ∧ a % 65536 = 0 then some ((a - Config.eventBase) / 65536) else none

/-- EVSIG (R365): a release, then an event packet. One for a logical tile leaves its source within the step that checks the
tile's role, or the thread waits: the role counts when the packet leaves, and the trap is precise. -/
def execEvsig (a b : GReg) (s : State) : Result :=
  run (.evsig a b) (fun id t v => do
    let ga := v.getD 0 0
    let gb := v.getD 1 0
    if ga.getLsbD 31 then trap 6 ga
    let s ← get
    let goal ← (if gb = 0 then pure (.stop t.last.tile) else
      match eventSlot gb.toNat with
      | none => trap 6 gb
      | some l => do
        if s.held t.vd l t.last.tile then holdHere
        let e := s.entry t.vd l
        if e.role = 1 ∧ e.state ≠ 3 then pure (.tile t.vd l) else trap 6 gb : Act Goal)
    let mask : Word32 := ga.setWidth 32 &&& 0x7FFFFFFF
    modify fun s => s.release id .module
    if mask ≠ 0 then
      modify fun s => s.send 0x23 0 t.last.tile t.last.core t.vd ga (mask.setWidth 64) goal (.event t.vd id mask)
      if gb ≠ 0 then
        let s ← get
        let s' := s.hop (s.packets.length - 1)
        if s'.packets.getLast?.any fun p => p.loc == .queue then holdHere
        set s'
    return {}) s

end Sys2Proof.Machine
end

