-- ==== Sys2Proof/Machine/Sched.lean ====
section
/-! DEFINITION. The dispatchers (spec/03 R85, R86, R93 to R96; spec/04 R98 to R103), pre-emption (spec/13 R271 to R274),
reclamation (spec/05 R134, R136), and what reaches its home later: barriers, exchanges, events, pushes, enqueues, fault
records. -/

namespace Sys2Proof.Machine

/-! ### The order of dispatch (R99, R100) -/

/-- The mode bit as the dispatcher of a thread's cluster sees it: within 64 master cycles of its die after a change either
value (R4, R104). -/
def State.modeSeen (s : State) (vd : Nat) (p : Place) : Bool × State :=
  let v := s.vd vd
  if s.within v.modeChanged p.tile 64 then
    let (d, s) := s.draw
    (if Config.keeps d then v.depthFirst else !v.depthFirst, s)
  else (v.depthFirst, s)

/-- May a dispatcher take this READY task for a device? One for which a thread is kept takes that thread, unless it cannot
run there when the thread is idle. -/
def State.waitsFor (s : State) (vd : Nat) (t : Task) (p : Place) : Bool :=
  t.vd = vd && t.status = .ready && !t.doomed &&
  match t.direct with
  | some q => q = p || !s.computes vd q.tile || (s.isIdle q && !s.mayRun t q)
  | none => true

/-- A class-1 task that is not bound to a core and that its cluster cannot place (R100). -/
def State.holdsBack (s : State) (t : Task) : Bool :=
  t.status = .ready && !t.doomed && t.ran && t.bound.isNone &&
  !((s.computeTiles t.vd).any fun n => clusterOf n = t.home && (placesOf n).any fun p => s.mayRun t p)

/-- The clusters in the order in which a dispatcher probes them (R102). -/
def probeOrder (cluster : Nat) : List Nat :=
  let die := cluster / 64
  let dist (c : Nat) : Nat :=
    if c / 64 = die then
      let a (x : Nat) := 2 * (x % 64 / 8)
      let b (x : Nat) := 2 * (x % 8)
      ringHops (a cluster) (a c) + ringHops (b cluster) (b c)
    else 100 * bridges die (c / 64)
  let all := (List.range 256).filter (· ≠ cluster)
  (List.range 301).flatMap fun d => all.filter fun c => dist c = d

/-- The devices to which a thread's tile is offered. Here a tile changes its owner in one step, so that it is
offered to one at a time. -/
def State.offeredTo (s : State) (p : Place) : List Nat :=
  (s.vds.map (·.1)).filter fun v => s.computes v p.tile

/-- The device that the dispatcher of a thread's cluster serves: the one whose count of thread-cycles used there, divided by
its weight, is smallest; the lower number on a tie (R101). -/
def State.deviceAt (s : State) (p : Place) : Option Nat :=
  let used (v : Nat) : Nat := (look (s.vd v).used (clusterOf p.tile)).getD 0
  let less (a b : Nat) : Bool :=
    used a * (s.vd b).weight < used b * (s.vd a).weight || (used a * (s.vd b).weight == used b * (s.vd a).weight && a < b)
  (s.offeredTo p).foldl (fun best v => match best with
    | none => some v
    | some b => if less v b then some v else some b) none

/-- READY tasks anywhere that come before every task of this level or below that has not run: class-1 tasks that no cluster
can place (R100), and pre-empted ones (R94); nearest cluster first. -/
def State.heldBackBy (s : State) (vd : Nat) (p : Place) (level : Nat) (mode : Bool) : List (Nat × Task) :=
  let l := s.tasks.filter fun x => x.2.vd = vd && level ≤ x.2.prio && x.2.status = .ready && !x.2.doomed &&
    (x.2.preempted || s.holdsBack x.2)
  if l.isEmpty then [] else
  (clusterOf p.tile :: probeOrder (clusterOf p.tile)).flatMap fun c =>
    s.inOrder mode (l.filter fun x => x.2.home = c)

/-- The task to place on a thread, of READY ones in the order of R99. A task that has not run gives way to those that hold it
back, the first of them that may run there; where none may, it is passed over (R94, R99, R100). -/
def State.pick (s : State) (vd : Nat) (p : Place) (mode : Bool) : List (Nat × Task) → Option (Nat × Task)
  | [] => none
  | x :: r =>
    match (if x.2.cls = 1 then [] else s.heldBackBy vd p x.2.prio mode) with
    | [] => some x
    | l => (l.find? fun y => s.waitsFor vd y.2 p && s.mayRun y.2 p).or (s.pick vd p mode r)

/-- The READY tasks of its own cluster that a thread may take, in the order of R99. -/
def State.queueFor (s : State) (vd : Nat) (p : Place) (mode : Bool) : List (Nat × Task) :=
  (s.inOrder mode (s.tasks.filter fun x => s.waitsFor vd x.2 p && x.2.home = clusterOf p.tile)).filter fun x =>
    s.mayRun x.2 p

/-- DISPATCH: an idle thread takes a READY task of its cluster; a task that has not run gives way to those that hold it back.
One for which a pre-emption or a completion keeps the thread comes before any other task (R92, R93), but, where it has not
run, not before one that holds it back and that has not just left the thread (notes/assumptions/82.md). -/
def execDispatch (p : Place) (s : State) : Result :=
  event s (
    match s.deviceAt p with
    | none => none
    | some vd =>
      if !s.isIdle p then none else
      let (mode, s) := s.modeSeen vd p
      match s.tasks.find? fun x => x.2.direct = some p && s.waitsFor vd x.2 p && s.mayRun x.2 p with
      | some x =>
        match (if x.2.cls = 1 then [] else s.heldBackBy vd p x.2.prio mode).filter fun y => y.2.last != p with
        | [] => some (s.startOn x.1 p)
        | l => (l.find? fun y => s.waitsFor vd y.2 p && s.mayRun y.2 p).map fun y =>
            (s.startOn y.1 p).modTask x.1 fun t => { t with direct := none }
      | none => (s.pick vd p mode (s.queueFor vd p mode)).map fun x => s.startOn x.1 p)

/-- WORK_STEAL: a dispatcher with an idle thread and no READY task for it takes one from the nearest cluster that has
one (R102): the task that the victim would choose next, or one that holds it back (R94, R100). -/
def execWorkSteal (p : Place) (s : State) : Result :=
  event s (
    match s.deviceAt p with
    | none => none
    | some vd =>
      if !s.isIdle p || s.tasks.any fun x => x.2.direct = some p && s.waitsFor vd x.2 p && s.mayRun x.2 p then none else
      let (mode, s) := s.modeSeen vd p
      if !(s.queueFor vd p mode).isEmpty then none else
      let able (c : Nat) : List (Nat × Task) :=
        s.tasks.filter fun x => s.waitsFor vd x.2 p && x.2.home = c && x.2.bound.isNone
      match (probeOrder (clusterOf p.tile)).find? fun c => !(able c).isEmpty with
      | none => none
      | some c =>
        (s.pick vd p mode (s.inOrder mode (able c))).map fun x =>
          let s := s.modTask x.1 fun t => { t with home := clusterOf p.tile }
          if s.mayRun x.2 p then s.startOn x.1 p else s)

/-- TIME_SLICE_EXPIRY: a task that has held its thread for a slice is due (R93). -/
def execTimeSliceExpiry (p : Place) (s : State) : Result :=
  event s (match s.taskAt p with
    | some (id, t) =>
      if t.due ∨ s.cycles < t.since + Config.slice20 then none else some (s.modTask id fun t => { t with due := true })
    | none => none)

/-- AGING: a READY task rises one level for each 2^20 cycles since its readytime (R96, R103). -/
def execAging (t : Nat) (s : State) : Result :=
  event s (match s.task? t with
    | some x =>
      if x.status = .ready ∧ x.prio < 7 ∧ x.readytime + Config.slice20 * (x.prio - x.descPrio + 1) ≤ s.cycles then
        let s := s.modTask t fun y => { y with prio := y.prio + 1 }
        match x.ident with
        | .ordinary i => some (s.modFut x.vd i fun f => { f with prio := x.prio + 1 })
        | _ => some s
      else none
    | none => none)

/-- DISPATCH_COUNT_HALVING: the thread-cycles used in a cluster are halved every 2^20 cycles (R101); the halvings that are
due come together. -/
def execDispatchCountHalving (cluster : Nat) (s : State) : Result :=
  event s (
    let n := (s.dies.toList.getD (cluster / 64) {}).master / 2 ^ 20 - (s.cluster cluster).halved
    if n = 0 then none else
    let halve (u : Nat × Nat) : Nat × Nat := if u.1 = cluster then (u.1, u.2 / 2 ^ n) else u
    let s := s.modCluster cluster fun c => { c with halved := c.halved + n }
    some { s with vds := s.vds.map fun v => (v.1, { v.2 with used := v.2.used.map halve }) })

/-! ### Pre-emption (R93, R271 to R275) -/

/-- Free bytes for the parts of a context area whose layout the spec leaves open. -/
def State.freeCells (s : State) (base n : Nat) : List (Nat × Byte) × State :=
  ((List.range n).map fun i => (base + i, (Config.free (s.draws + i)).setWidth 8),
   { s with draws := s.draws + n })

/-- Does a command leave its queue where its task is quiesced (R271): one that has not begun, a copy between two packets, a
TXCHG without its message? -/
def State.pauses (s : State) (core : Core) (c : Cmd) : Bool :=
  -- a restored subscription that waits for the core's running one has begun (R273)
  !(core.paused.any fun u => u.cmd.id = c.id) && (!c.started || match c.instr with
    | .tcopy .. | .tfill .. | .tgather .. | .tscatter .. => true
    | .txchg .. => c.done.isEmpty && !((s.roundOf c).any fun r => (look r.msgs c.task).isSome)
    | _ => false)

/-- Commands of a task leave the queues of a tile: a paused copy finishes its packets in flight, and the links from those that
had not started to commands of other tasks are discarded (R271). -/
def State.takeCmds (s : State) (id : Nat) (cmds : List (EngQ × Cmd)) : State :=
  let ids := cmds.map fun c => c.2.id
  let s := (s.removeCmds ids).flush fun p => ids.any fun n => p.engineOf n
  let free := (cmds.filter fun c => !c.2.paused).map fun c => c.2.id
  if free.isEmpty then s else
  s.mapCmds fun c => if c.task = id then c else { c with preds := c.preds.filter fun n => !(n ∈ free) }

/-- A command as a save takes it: un-started. -/
def Cmd.away (c : Cmd) : Cmd := { c with started := false, paused := c.paused || c.started }

/-- Steps 1 to 4 of the quiesce (R271), as one: the thread stops, un-started commands leave their queues, started copies pause,
a TXCHG without its message is saved, the vector queue empties, the stores are performed and the XPUTs land. What another
tile's move holds is performed later: the save waits for it. -/
def State.quiesce (s : State) (id : Nat) (p : Place) : State :=
  match s.task? id with
  | none => s
  | some t =>
    if t.doomed then s.setTask id { t with status := .stopping (some p) }
    else
      let core := s.core p.tile p.core
      let take (q : EngQ) : List (EngQ × Cmd) :=
        ((core.queue q).filter fun c => c.task = id && s.pauses core c).map fun c => (q, c.away)
      let cmds := take .matrix ++ take .copy ++ take .collective ++ take .stream
      let s := (s.takeCmds id cmds).modCore p.tile p.core fun c => { c with vq := c.vq.filter fun e => e.task ≠ id }
      let s := s.modTile p.tile fun x =>
        let lost := (core.vq.filter fun e => e.task = id).filterMap fun e => e.bound
        { x with lanes := Vector.ofFn fun (i : Fin 4) => if i.val ∈ lost then none else x.lanes[i] }
      let s := s.modTask id fun t => { t with
        status := .saving p, saved := some { cmds := cmds }, heldTill := t.heldTill - s.masterAt p.tile }
      s.release id .module

/-- Does a started command of a task still run in a core? -/
def State.running (s : State) (id : Nat) : Bool :=
  s.tiles.any fun x => x.2.cores.toList.any fun c =>
    (c.cmds.any fun m => m.task = id && m.started && match m.instr with
      | .tsub .. => false
      | _ => true) ||
    (c.sub.any fun u => u.cmd.task = id && u.filling.isSome)

/-- Take what a task holds in its core and its banks into its save (R271 step 5, R272): window, partition and slots,
subscription, rings. -/
def State.saveAway (s : State) (id tile core : Nat) : State :=
  match s.task? id with
  | none => s
  | some t =>
    let sv := t.saved.getD {}
    let c := s.core tile core
    let cells := match t.window with
      | some w => match w.tile with
        | some n => s.mem.slice (sramKey n w.off) w.size 0 ++ s.mem.slice (sramKey n (Config.bankBytes + w.off)) w.size w.size
        | none => sv.window
      | none => []
    let s := match t.window with
      | some w => match w.tile with
        | some n => (s.moveMarks (sramKey n w.off) (savedKey id 0) w.size).moveMarks
            (sramKey n (Config.bankBytes + w.off)) (savedKey id Config.bankBytes) w.size
        | none => s
      | none => s
    let own := c.owner = some id
    let sub := (c.sub.filter fun u => u.cmd.task = id).orElse fun _ =>
      (c.paused.find? fun u => u.cmd.task = id).orElse fun _ => sv.sub
    let mine (r : Nat × Nat × Nat) : Bool := r.1 = id
    let sv := { sv with window := cells, sub := sub, rings := (c.rings.filter mine).map (·.2) ++ sv.rings,
                        acc := if own then some c.acc else sv.acc,
                        accErr := if own then c.accErr else sv.accErr,
                        slots := if own then c.slots else sv.slots }
    let s := match sub with
      | some u => (s.modCore tile core fun c =>
          { c with sub := c.sub.filter (fun x => x.cmd.id ≠ u.cmd.id), paused := c.paused.filter fun x => x.cmd.id ≠ u.cmd.id,
                   stream := c.stream.filter fun x => x.id ≠ u.cmd.id }).wakeWhere (fun t w =>
            decide (w = Wait.engine .stream) && decide (t.last.tile = tile) && decide (t.last.core = core)) none
      | none => s
    let s := if (c.rings.any mine) then s.modCore tile core fun c => { c with rings := c.rings.filter fun r => !mine r } else s
    let s := if own then s.freePartition tile core else s
    s.modTask id fun t => { t with saved := some sv, window := t.window.map fun w => { w with tile := none } }

/-- Write the context area of a saved task whole (R272). The layout of the commands and of the subscription is open. The
message is that of a saved TXCHG; one that waits for a TXCHG not yet pushed stays with its round, for R272 has no place for
it (notes/assumptions/103.md). -/
def State.writeContext (s : State) (id : Nat) (preempted : Bool) : State :=
  match (s.task? id).bind fun t => t.context.map fun a => (t, a) with
  | none => s
  | some (t, a) =>
    let sv := t.saved.getD {}
    let msg : Option Message := sv.cmds.findSome? fun c => match c.2.instr with
      | .txchg .. => (s.roundOf c.2).bind fun r => look r.msgs id
      | _ => none
    let word := (if preempted then 0x20 else 0) + (if sv.acc.isSome then 2 ^ 8 else 0) +
      (if sv.sub.isSome then 2 ^ 9 else 0) + (if msg.isSome then 2 ^ 10 else 0) + sv.cmds.length * 2 ^ 16
    let s := s.saveCtx t word
    let (cmds, s) := s.freeCells 0x800 (32 * sv.cmds.length)
    let (sub, s) := if sv.sub.isSome then s.freeCells 0x1000 64 else ([], s)
    let slots := if sv.acc.isSome then
        (List.range 4).flatMap fun k =>
          let tb := sv.slots.toList.getD k none
          cellsAt (0x1100 + 0x240 * k) (toBytes 8 ((tb.map fun x => x.head.toNat).getD 0)) ++
          cellsAt (0x1140 + 0x240 * k) (((tb.map fun x => x.entries.take 128).getD []).flatMap fun e => toBytes 4 e.toNat)
      else []
    let acc := (sv.acc.getD []).flatMap fun e => cellsAt (0x2000 + 4 * e.1) (toBytes 4 e.2.toNat)
    let win := sv.window.map fun c => (0x12000 + c.1, c.2)
    let size := (t.window.map fun w => w.size).getD 0
    let m := (msg.map fun m => m.cells.map fun c => (0x12000 + 2 * size + c.1, c.2)).getD []
    let all := (cmds ++ sub ++ slots ++ acc ++ win ++ m).filter fun c => c.2 ≠ 0
    s.replaceRange (a + 0x800) (contextBytes - 0x800) (all.map fun c => (a + c.1, c.2))

/-- The home of a task that leaves a tile: its cluster, or that of the nearest other compute tile where the tile no
longer computes (R98, R274). Where the device has none it keeps its cluster (notes/assumptions/79.md). -/
def State.homeAfter (s : State) (vd tile : Nat) : Nat :=
  if s.computes vd tile then clusterOf tile
  else match s.nearestTile vd tile with
    | some n => clusterOf n
    | none => clusterOf tile

/-- A parked task's window and partition are saved with its context, after its stores, and it is unbound (R72, R215, R274,
R310). -/
def State.saveParked (s : State) (id : Nat) : State :=
  match s.task? id with
  | none => s
  | some t =>
    let s := (s.release id .module).saveAway id t.last.tile t.last.core
    let s := s.modTask id fun t => { t with bound := none, home := s.homeAfter t.vd t.last.tile }
    s.writeContext id false

/-- May a waiting task run on a thread once its victim has left it: is there room for its window, and no partition of
another task where it brings one? A due task whose thread the waiting one could not use is no candidate: the rule does
not say what happens with such a victim (notes/assumptions/26.md). -/
def State.mayFollow (s : State) (x : Task) (victim : Nat) (p : Place) : Bool :=
  let rest := { s with tasks := cut s.tasks victim }
  let room (size : Nat) : Bool := size = 0 || (lowestFit (rest.windows p.tile) size).isSome
  (match x.window with
   | some w => w.tile.isSome || room w.size
   | none => room x.scratch) &&
  (match x.saved with
   | some sv => sv.acc.isNone || (s.core p.tile p.core).owner.all (· = victim)
   | none => true)

/-- PREEMPTION: for a READY task with no idle thread, the dispatchers quiesce one due task of its device (R93); for one that
has not run not before a pre-empted task of its level or above that waits (R94). -/
def execPreemption (w : Nat) (s : State) : Result :=
  event s (match s.task? w with
    | none => none
    | some x =>
      if x.status ≠ .ready ∨ x.doomed ∨ x.direct.isSome then none else
      if !x.ran && !(s.overdue x.vd x.prio).isEmpty then none else
      if (s.computeTiles x.vd).any fun n => (placesOf n).any fun p => s.mayRun x p then none else
      let due := s.tasks.filterMap fun y => match y.2.status with
        | .running p =>
          if y.2.vd = x.vd ∧ y.2.due ∧ y.2.descPrio ≤ x.prio ∧ s.computes x.vd p.tile ∧
              (x.bound.isNone ∨ x.bound = some (p.tile, p.core)) ∧ s.mayFollow x y.1 p then some (y.1, y.2, p) else none
        | _ => none
      let order := x.home :: probeOrder x.home
      let key (v : Nat × Task × Place) : Nat :=
        ((order.idxOf (clusterOf v.2.2.tile) * 8 + v.2.1.descPrio) * 2 ^ 64 + v.2.1.since % 2 ^ 64) * 2 ^ 14 +
          v.2.2.tile * 16 + v.2.2.core * 4 + v.2.2.thread
      match smallest key due with
      | none => none
      | some (id, _, p) => some ((s.quiesce id p).modTask w fun t => { t with direct := some p }))

/-- Has a save to wait for stores and exchanges that a move holds (R215, R271)? Not on a tile that is to be the new home of a
moving entry, whose move waits for the save (notes/assumptions/69.md). -/
def State.saveWaits (s : State) (vd id tile : Nat) : Bool :=
  s.heldStores id && !((s.vd vd).rolemap.any fun x => x.2.state = 2 && x.2.target = some tile)

/-- SAVE_TRANSFER_COMPLETE: a quiesced task's save ends, and it is READY; one doomed meanwhile is stopped (R131,
R271). -/
def execSaveTransferComplete (t : Nat) (s : State) : Result :=
  event s (match s.task? t with
    | none => none
    | some x =>
      match x.status with
      | .saving p =>
        if x.doomed then some (s.setTask t { x with status := .stopping (some p) })
        else if s.running t || s.saveWaits x.vd t p.tile then none
        else
          let s := (s.release t .module).saveAway t p.tile p.core
          let s := s.writeContext t true
          let s := s.modTask t fun y => { y with home := s.homeAfter y.vd p.tile, bound := none, prio := y.descPrio,
                                                 extTable := [], due := false, preempted := true }
          some (s.makeReady t x.woke)
      | _ => none)

/-! ### Gangs (R85, R86) -/

/-- Tiles of the 4 × 4 window of a die that starts at a row and column, in order of number. -/
def windowTiles (die row col : Nat) : List Nat :=
  (List.range 4).flatMap fun i => (List.range 4).map fun j => die * 256 + (row + i) * 16 + col + j

/-- The first window that can hold the gang: its lowest tiles with enough idle threads and room. -/
def State.gangTiles (s : State) (vd : Nat) (g : GangWait) : Option (List Nat) :=
  let d : Desc := { entry := g.entry, scratch := g.scratch, prio := g.prio, extents := g.extents }
  let able (n : Nat) : Bool := g.threads ≤ (s.idleThreads vd d n).length
  (List.range 4).findSome? fun die => (List.range 13).findSome? fun row => (List.range 13).findSome? fun col =>
    let l := ((windowTiles die row col).filter able).take g.groups
    if l.length = g.groups then some l else none

/-- The lowest group id not in use, up to 4,095. -/
def Vd.freeGroup (v : Vd) : Option Nat :=
  (List.range (v.groups.length + 1)).find? fun n => n < 4096 && (look v.groups n).isNone

/-- Start the threads of a gang. -/
def State.gangStart (s : State) (vd : Nat) (g : GangWait) (gid : Nat) (l : List (Nat × Nat × Place)) : State :=
  l.foldl (fun s x =>
    let (gi, ti, p) := x
    let d : Desc := { entry := g.entry, scratch := g.scratch, prio := g.prio, extents := g.extents }
    let c := (({} : Ctx).setG 1 (BitVec.ofNat 64 (gid + gi * 2 ^ 16 + ti * 2 ^ 20))).setG 2 g.arg
    let (id, s) := s.addTask vd (.gangThread g.fut gi ti) d .ready (clusterOf p.tile) c
    let x := s.group vd gid
    let s := s.setGroup vd gid { x with members := x.members ++ [(id, x.begun)] }
    s.startOn id p) s

/-- GANG_PLACEMENT: the first waiting gang of a device is placed, every thread as one action; not before a pre-empted task
of its level or above (R94). -/
def execGangPlacement (vd : Nat) (s : State) : Result :=
  event s (match (s.vd vd).gangs with
    | [] => none
    | g :: rest =>
      if (s.vd vd).pwr ≠ 0 ∨ (s.vd vd).destroying ∨ s.overdue vd g.prio ≠ [] then none else
      match s.gangTiles vd g, (s.vd vd).freeGroup with
      | some tiles, some gid =>
        let d : Desc := { entry := g.entry, scratch := g.scratch, prio := g.prio, extents := g.extents }
        let l := (tiles.zipIdx).flatMap fun x =>
          (((s.idleThreads vd d x.1).take g.threads).zipIdx).map fun y => (x.2, y.2, y.1)
        let n := g.groups * g.threads
        let s := s.modVd vd fun v => { v with gangs := rest }
        let s := s.modFut vd g.fut fun f => { f with state := 3, ran := true, made := n, left := n }
        some (s.gangStart vd g gid l)
      | _, _ => none)

/-! ### Reclamation (R134, R136) -/

/-- DOOMED_FLAG_DELIVERY: the flag reaches the core of a running task; a waiting one is stopped where it stands. -/
def execDoomedFlagDelivery (t : Nat) (s : State) : Result :=
  event s (match s.task? t with
    | none => none
    | some x =>
      if !x.doomed then none else
      match x.status with
      | .running _ => if x.delivered then none else some (s.setTask t { x with delivered := true })
      | .pending | .ready | .blocked _ => some (s.setTask t { x with status := .stopping none })
      | .saving _ | .stopping _ => none)

/-- The first steps of a reclaim (R136): what stands in the vector queue has been performed, and the stores and exchanges of
the task are. -/
def State.settleStopped (s : State) (id : Nat) (t : Task) : State :=
  let n := t.last.tile
  let lost := ((s.core n t.last.core).vq.filter fun e => e.task = id).filterMap fun e => e.bound
  let s := s.modTile n fun x =>
    let x := { x with lanes := Vector.ofFn fun (i : Fin 4) => if i.val ∈ lost then none else x.lanes[i] }
    x.setCore t.last.core { x.core t.last.core with vq := (x.core t.last.core).vq.filter fun e => e.task ≠ id }
  s.release id .module

/-- The commands of a task that have not started. -/
def State.unstarted (s : State) (id : Nat) : List Nat :=
  (s.commands.filter fun c => c.task = id && !s.begun c).map (·.id)

/-- The reclaim of a task of a device that is being destroyed (R329): as that of a doomed one, but nothing is written in the
future table, of which the handles, the commands and the subscriptions of the task are let go. -/
def State.quietDown (s : State) (id : Nat) (t : Task) : State :=
  let s := s.settleStopped id t
  let s := s.removeCmds (s.unstarted id)
  let s := s.departAll t.vd id (s.lidOf t) .reclaimed
  let s := (s.dropPopper t.vd id).muteSubs id
  (s.endSubs id).modTask id fun t => { t with torn := true }

/-- Steps 1 to 7 of the reclaim (R136). The final state that follows is a release, so its exchanges land too (R137, R205). -/
def State.tearDown (s : State) (id : Nat) : State :=
  match s.task? id with
  | none => s
  | some t =>
    let s := s.settleStopped id t
    let s := s.dropCmds (s.unstarted id)
    let s := s.dropHandles id
    let s := s.dropReachers id
    let s := s.departAll t.vd id (s.lidOf t) .reclaimed
    let s := s.freeLeases t.vd id
    let s := s.dropPopper t.vd id
    let s := s.endSubs id
    s.modTask id fun t => { t with torn := true, ctx := { t.ctx with q := Vector.replicate 8 {} } }

/-- Steps 8 and 9: the window is freed, the future settled, the thread idle. The record of a task doomed by its count is freed
(R131), also where the task has pinned its own handle since, and the count stands above zero, of which R137 says that it
keeps the future alive (notes/assumptions/98.md). -/
def State.reclaimed (s : State) (id : Nat) : State :=
  match s.task? id with
  | none => s
  | some t =>
    let s := s.freePartitions id
    let s : State := { s with tasks := cut s.tasks id }
    match t.ident with
    | .ordinary i =>
      let f := s.fut t.vd i
      if finalState f.state then s.closeFut t.vd i
      else if f.cancel ∧ f.reach ≠ 0 then (s.complete t.vd i 6 0 0 0).closeFut t.vd i else s.freeFut t.vd i
    | .recruit f _ | .gangThread f _ _ => s.joinEnd t.vd f none

/-- RECLAIM: a stopped task is torn down, once no move holds its stores or exchanges; its window and its future wait for its
started commands. Of a device that is being destroyed it stays until the device goes. -/
def execReclaim (t : Nat) (s : State) : Result :=
  event s (match s.task? t with
    | none => none
    | some x =>
      match x.status with
      | .stopping _ =>
        if s.saveWaits x.vd t x.last.tile then none
        else if (s.vd x.vd).destroying then (if x.torn then none else some (s.quietDown t x)) else
        let s1 := if x.torn then s else s.tearDown t
        if s1.running t then (if x.torn then none else some s1) else some (s1.reclaimed t)
      | _ => none)

/-! ### Barriers and exchanges (R183, R184) -/

def execBarrierFire (vd group : Nat) (s : State) : Result :=
  event s (if s.canFire vd group then some (s.fire vd group) else none)

/-- XPUT_LANDING: the k-th packet, an XPUT that has reached its tile, lands, with no store of its task before it (R202), and no
XPUT of the task to that tile (R183, R205, R241). -/
def execXputLanding (k : Nat) (s : State) : Result :=
  event s (match s.packets[k]? with
    | none => none
    | some p =>
      match p.body with
      | .xput _ vd t lid off x =>
        let earlier := s.packets.zipIdx.any fun q => (q.2 < k || q.1.forwards) && q.1.sameIssuer p
        if earlier ∨ p.forwards ∨ s.astray p ∨ !s.mayReceive k p then none
        else some ((({ s with packets := s.packets.eraseIdx k } : State).land vd t lid off x).answer p 0x03 0)
      | _ => none)

/-! ### Events, pushes and enqueues -/

/-- EVENT_ARRIVAL: the k-th packet, an event that has reached its stop, is applied at the unit of that stop's cluster; events
from one task to one unit in order (R365). -/
def execEventArrival (k : Nat) (s : State) : Result :=
  event s (match s.packets[k]? with
    | none => none
    | some p =>
      match p.body with
      | .event vd t _ =>
        let cluster := clusterOf p.hdr.dst
        let earlier := (s.packets.take k).any fun q => match q.body with
          | .event v u _ => v = vd && u = t && clusterOf (s.dstOf q) = cluster
          | _ => false
        if earlier ∨ !s.mayReceive k p then none
        else some (({ s with packets := s.packets.eraseIdx k } : State).messageHere p)
      | _ => none)

/-- What the acceptance of a held push does for the one who made it; a task goes on once all of its instruction's are settled. -/
def State.acceptedFor (s : State) (vd : Nat) (h : Word32) : Pusher → State
  | .task t => match s.pushOf t h with
    | some (_, left, done, before) => s.pushSettled t left done before none
    | none => s
  | .enqueue f => s.answerHere vd f h false
  | .peer _ => { s with response := [0] }
  | .gone => s

/-- HELD_PUSH_ACCEPT: the first push held at a queue is made, to a parked popper or where room has been freed (R407). A
delivery is a wake write, and waits for an ACTIVE device (R308); to a device that is being destroyed none is made (R329). -/
def execHeldPushAccept (vd lid slot : Nat) (s : State) : Result :=
  event s (match look (s.vd vd).queues (lid, slot) with
    | none => none
    | some q =>
      match q.held with
      | [] => none
      | (x, who) :: rest =>
        if (s.vd vd).pwr = 3 ∨ (s.vd vd).destroying then none else
        let h : Word32 := BitVec.ofNat 32 (lid * 2 ^ 20 + slot * 2 ^ 12 + ((s.vd vd).slotGen lid slot).toNat)
        if (s.firstPopper q).isNone ∧ !s.hasRoom vd h q then none else
        let s1 := s.wakeEvent vd
        if (s.vd vd).pwr ≠ 0 then some s1 else
        match s.firstPopper q with
        | some id =>
          let s := s1.setQueue vd h { q with held := rest, poppers := q.poppers.filter (· ≠ id) }
          some ((s.hand id x).acceptedFor vd h who)
        | none => some ((s1.setQueue vd h { q with held := rest, entries := q.entries ++ [x] }).acceptedFor vd h who))

/-- Is an earlier enqueue of the same task to the same queue in flight? -/
def State.enqueueBefore (s : State) (k : Nat) (vd t : Nat) (m : BitVec 16) (h : Word32) : Bool :=
  (s.packets.take k).any fun p => match p.body with
    | .enqueue v _ u n q _ _ => v = vd && u = t && n = m && q = h
    | _ => false

/-- The k-th packet, an enqueue that stands at its stop, is taken: one to this module reaches its queue; one to another has its
answer, delivered or not, from outside (R332, R411). -/
def State.takeEnqueue (s : State) (k : Nat) (p : Pkt) (delivered : Bool) : Option State :=
  let s1 : State := { s with packets := s.packets.eraseIdx k }
  match p.body with
  | .enqueue vd f _ m h _ _ =>
    some (if m = s.moduleId then s1.messageHere p else s1.answerEnqueue p.hdr.dst vd f h !delivered)
  | _ => none

/-- ENQUEUE_REPLY: the k-th packet, an enqueue that has reached its stop, behind the earlier ones of its task to its queue. -/
def execEnqueueReply (k : Nat) (delivered : Bool) (s : State) : Result :=
  event s (match s.packets[k]? with
    | none => none
    | some p =>
      match p.body with
      | .enqueue vd _ t m h _ _ =>
        if s.enqueueBefore k vd t m h ∨ p.forwards ∨ s.astray p ∨ !s.mayReceive k p then none
        else s.takeEnqueue k p delivered
      | _ => none)

/-- REMOTE_ENQUEUE_ARRIVAL: an enqueue of a peer module reaches its queue; the answer is 0 delivered, 1 refused; none
while it is held (R332). -/
def execRemoteEnqueueArrival (src : BitVec 16) (vd : Nat) (handle : BitVec 32) (value : BitVec 64) (s : State) : Result :=
  event s (
    if (look s.vds vd).isNone ∨ (s.vd vd).destroying then some { s with response := [1] }
    else if (s.vd vd).pwr = 0 ∧ s.queueHeld vd handle then none
    else match s.holdFor vd (.enqueue handle value none) with
      | .inl s => some { s with response := [] }
      | .inr s =>
        match s.queue? vd handle with
        | none => some { s with response := [1] }
        | some q =>
          let (s, held) := s.push vd handle q value (.peer src)
          some { s with response := if held then [] else [0] })

/-- FAULT_RECORD_DEFERRED: a thread that waits on a full fault ring writes its record once room frees: none is dropped
(R259). It then waits on its entry and its record, unless the entry has been mended meanwhile; a push traps, as it would
have. -/
def execFaultRecordDeferred (t : Nat) (s : State) : Result :=
  event s (match s.task? t with
    | none => none
    | some x =>
      match x.status with
      | .blocked (.ring (access, cause, va, level, pte)) =>
        (s.faultRecord x access cause va level pte).map fun (n, rec0, s) =>
          if access = 3 then
            (s.modTask t fun y => { y with woke := some (.trap cause (BitVec.ofNat 64 va)) }).makeReady t none
          else
            let s := s.modTask t fun y => { y with fault := some { n := n, record := rec0, va := va },
                                                   status := .blocked (.fault (pte / 256) (rec0 / 256)) }
            match s.walk (s.vd x.vd).root va with
            | .ok _ => s.makeReady t none
            | .error _ => s
      | _ => none)

end Sys2Proof.Machine
end

