-- ==== Sys2Proof/Machine/Census.lean ====
section
/-! DEFINITION. The census: samples, the decisions of an epoch, notices (spec/07 R149 to R157, R165; spec/10 R225; spec/12
R238; spec/04 R101; R470, R316). -/

namespace Sys2Proof.Machine

/-! ### The pool (R19, R315, R470) -/

/-- Is a tile in the pool and dark, and not chosen for a change that is on its way? -/
def State.inPool (s : State) (n : Nat) : Bool :=
  let t := s.tile n
  t.owner.isNone && !t.retired &&
  !(s.vds.any fun v => (v.2.rolemap.any fun e => e.2.target == some n) || v.2.decisions.any fun d => d.pool == some n)

/-- May the census give the tile to a device? -/
def State.lendable (s : State) (vd n : Nat) : Bool :=
  s.inPool n && !(s.vds.any fun v => v.1 ≠ vd && n ∈ v.2.reserve)

def State.poolTiles (s : State) (vd : Nat) : List Nat := (List.range 1024).filter (s.lendable vd)

/-- The pool tile fewest hops from a tile, the lower number on a tie. -/
def State.poolNear (s : State) (vd near : Nat) : Option Nat :=
  smallest (fun n => hops near n * 1024 + n) (s.poolTiles vd)

/-- The physical tile of the device's lowest logical tile in compute role: of a dark entry, the one that it last held. -/
def State.lowestCompute (s : State) (vd : Nat) : Option Nat :=
  (smallest (fun (x : Nat × Entry) => x.1) ((s.vd vd).rolemap.filter fun x => x.2.role = 1)).map fun x => x.2.phys

/-- Of some pool tiles, the one that the last item of R470 gives. -/
def State.poolAmong (s : State) (vd : Nat) (l : List Nat) : Option Nat :=
  match s.lowestCompute vd with
  | some n => smallest (fun m => hops n m * 1024 + m) l
  | none => l.head?

/-- The pool tile that the last item of R470 gives. -/
def State.poolFor (s : State) (vd : Nat) : Option Nat := s.poolAmong vd (s.poolTiles vd)

/-- Tiles not retired (R101, R316). -/
def State.soundTiles (s : State) : Nat := 1024 - (s.tiles.filter fun x => x.2.retired).length

/-- The physical tiles that count against a device's quota: those it owns and those on their way to it. -/
def State.tilesOf (s : State) (vd : Nat) : Nat :=
  let own := (s.tiles.filter fun x => x.2.owner.any fun o => o.1 = vd).length
  let v := s.vd vd
  let coming := (v.rolemap.filterMap fun e => e.2.target).filter fun n => (s.tile n).owner.isNone
  own + coming.length + (v.decisions.filter fun d => d.pool.isSome).length

/-- Does a device have a READY or RUNNING task? -/
def State.busy (s : State) (vd : Nat) : Bool :=
  s.tasks.any fun x => x.2.vd = vd && match x.2.status with
    | .ready | .running _ => true
    | _ => false

/-- The tile share of a device (R101). -/
def State.tileShare (s : State) (vd : Nat) : Nat :=
  let w := ((s.vds.filter fun v => v.1 = vd || (v.2.pwr ≠ 2 && s.busy v.1)).map fun v => v.2.weight).sum
  min (s.vd vd).tileQuota (s.soundTiles * (s.vd vd).weight / max w 1)

/-- The weighted share of a device in threads (R101): of the threads of the module's compute tiles, by weight among the
devices that are neither collapsed nor empty of READY and RUNNING tasks, up to its tile quota. The census apportions it in
tiles, and a dispatcher by its counts of thread-cycles. -/
def State.threadShare (s : State) (vd : Nat) : Nat :=
  let w := ((s.vds.filter fun v => v.2.pwr ≠ 2 && s.busy v.1).map fun v => v.2.weight).sum
  let threads := 16 * (s.tiles.filter fun x => x.2.owner.isSome && x.2.role = 1).length
  min (16 * (s.vd vd).tileQuota) (threads * (s.vd vd).weight / max w 1)

/-! ### Samples (R150) -/

/-- One sample of a device. -/
def State.sample (s : State) (vd : Nat) : State :=
  let v := s.vd vd
  let held := v.rolemap.filter fun x => x.2.role ≠ 0 && x.2.state ≠ 3 && !x.2.backed && (s.tile x.2.phys).owner == some (vd, x.1)
  let compute := (held.filter fun x => x.2.role = 1).length
  let storage := held.filter fun x => x.2.role = 2
  let live := (storage.map fun x => (s.tile x.2.phys).live.length).sum
  let ready := (s.tasks.filter fun x => x.2.vd = vd && x.2.status = .ready).length
  s.modVd vd fun v => { v with pressure := { v.pressure with
    samples := v.pressure.samples + 1
    readySum := v.pressure.readySum + ready
    computeSum := v.pressure.computeSum + compute
    anyReady := v.pressure.anyReady || ready ≠ 0
    liveSum := v.pressure.liveSum + live
    storageSum := v.pressure.storageSum + storage.length
    occupied := v.pressure.occupied + (held.map fun x => s.dataTaken x.2.phys).sum
    slots := v.pressure.slots + (held.map fun x => s.dataSlots x.2.phys).sum } }

/-- CENSUS_SAMPLE: every 4,096 cycles, for each device that is not collapsed; they are counted in CYCLES, as the model takes
R4 here (notes/assumptions/92.md). -/
def execCensusSample (s : State) : Result :=
  event s (
    if s.cycles / 4096 ≤ s.clock.sample then none else
    let s : State := { s with clock := { s.clock with sample := s.clock.sample + 1 } }
    some (s.vds.foldl (fun s v => if v.2.pwr ≠ 2 then s.sample v.1 else s) s))

/-! ### Pressures (R150, R151) -/

/-- A pressure divided by its high threshold, as a fraction. -/
structure Ratio where
  num : Nat
  den : Nat
  deriving DecidableEq, Repr

def Ratio.lt (a b : Ratio) : Bool := a.num * b.den < b.num * a.den
def Ratio.high (a : Ratio) : Bool := a.den ≤ a.num
/-- A fraction, 0 where nothing was measured. -/
def ratio (n d : Nat) : Ratio := if d = 0 then ⟨0, 1⟩ else ⟨n, d⟩

/-- What the decisions rest on for a role: its tiles, its normalised pressure, high and low. -/
structure Gauge where
  role : Nat
  tiles : Nat
  norm : Ratio
  high : Bool
  low : Bool
  deriving DecidableEq, Repr

/-- Physical tiles of a device by role. -/
def State.roleTiles (s : State) (vd role : Nat) : List (Nat × Entry) :=
  (s.vd vd).rolemap.filter fun x => x.2.role = role && x.2.state ≠ 3 && !x.2.backed

/-- The three gauges, in the order compute, storage, routing. -/
def State.gauges (s : State) (vd : Nat) : List Gauge :=
  let p := (s.vd vd).pressure
  let n (r : Nat) := (s.roleTiles vd r).length
  let c := ratio p.readySum (4 * p.computeSum)
  let t := ratio (4 * (p.liveSum + p.misses * p.samples)) (3 * 40960 * p.storageSum)
  let r := ratio (5 * p.occupied) (3 * p.slots)
  let compute : Gauge :=
    if n 1 = 0 then { role := 1, tiles := 0, norm := if p.anyReady then ⟨1, 1⟩ else ⟨0, 1⟩, high := p.anyReady, low := !p.anyReady }
    -- Pc < 0.5 is an eighth of the threshold
    else { role := 1, tiles := n 1, norm := c, high := c.high, low := Ratio.lt c ⟨1, 8⟩ }
  let storage : Gauge :=
    let any : Bool := p.misses ≠ 0
    if n 2 = 0 then { role := 2, tiles := 0, norm := if any then ⟨1, 1⟩ else ⟨0, 1⟩, high := any, low := !any }
    else { role := 2, tiles := n 2, norm := t, high := t.high, low := Ratio.lt t ⟨1, 3⟩ }
  let routing : Gauge :=
    { role := 3, tiles := n 3, norm := if n 3 = 0 ∧ r.high then ⟨1, 1⟩ else r, high := r.high, low := Ratio.lt r ⟨1, 3⟩ }
  [compute, storage, routing]

/-- By descending normalised pressure; the first of equals stays first. -/
def byPressure (l : List Gauge) : List Gauge :=
  let rec ins (g : Gauge) : List Gauge → List Gauge
    | [] => [g]
    | y :: r => if Ratio.lt y.norm g.norm then g :: y :: r else y :: ins g r
  l.foldl (fun r g => ins g r) []

/-- The gauge with the lowest normalised pressure, the first of equals. -/
def lowestOf (l : List Gauge) : Option Gauge :=
  l.foldl (fun best g => match best with
    | none => some g
    | some b => if Ratio.lt g.norm b.norm then some g else some b) none

/-- How many tiles a role whose pressure is high seeks (R151). -/
def Gauge.seeks (g : Gauge) : Nat :=
  if g.tiles = 0 then 1 else max 1 ((g.tiles * (g.norm.num - g.norm.den) + g.norm.den - 1) / g.norm.den)

/-! ### What the census may not change (R152, R225) -/

/-- Records of the notice ring that pending and decided changes do not need: is there room for two more (R156)? -/
def State.noticeRoom (s : State) (vd : Nat) : Bool :=
  let v := s.vd vd
  s.noticeUsed v + v.noticeReserved + 2 * (v.decisions.length + 1) ≤ 256

/-- Does a thread of a gang run on a tile? -/
def State.gangOn (s : State) (n : Nat) : Bool :=
  s.tasks.any fun x => (match x.2.status with
    | .running p | .saving p => p.tile = n
    | _ => false) && match x.2.ident with
      | .gangThread .. => true
      | _ => false

/-- Compute tiles that would stay, with the changes decided and noticed. -/
def State.staying (s : State) (vd : Nat) : Nat :=
  ((s.vd vd).rolemap.filter fun x => x.2.role = 1 && x.2.state = 0 &&
    !((s.vd vd).decisions.any fun d => d.lid = x.1)).length

/-- Storage entries with a tile that a change has selected. -/
def State.selected (s : State) (vd : Nat) : Nat :=
  let v := s.vd vd
  (v.rolemap.filter fun x => x.2.role = 2 && !x.2.backed && (x.2.state = 1 || x.2.state = 2 ||
    v.decisions.any fun d => d.lid = x.1)).length

/-- Has the HBM quota room for the backing pages of one more entry, beside those that the storage tiles already selected may
come to need (R225)? What the control plane has allocated is known (R329); what the device's own pages take is open. -/
def State.backingRoom (s : State) (vd : Nat) : Bool × State :=
  let v := s.vd vd
  let taken := 64 * v.futQuota + 8 * 4096 + v.tileQuota * Config.storageBytes +
    Config.storageBytes * ((v.rolemap.filter fun x => x.2.backed).length + s.selected vd)
  let (d, s) := s.draw
  (taken + Config.storageBytes ≤ v.hbmQuota * 2 ^ 30 && Config.keeps d, s)

/-- May the census re-cast an entry or take its tile back? -/
def State.mayChange (s : State) (vd lid : Nat) (e : Entry) : Bool :=
  e.lease = 0 && e.state = 0 && e.notice.isNone && !((s.vd vd).decisions.any fun d => d.lid = lid) &&
  !s.gangOn e.phys && (s.vd vd).pwr = 0 &&
  !(e.role = 1 && (s.tasks.any fun x => x.2.vd = vd) && s.staying vd ≤ 1)

/-- Tasks that run on a tile or are bound to it. -/
def State.tasksOn (s : State) (n : Nat) : Nat :=
  (s.tasks.filter fun x => (match x.2.status with
    | .running p | .saving p => p.tile = n
    | _ => false) || x.2.bound.any fun b => b.1 = n).length

/-- May a tile of the pool be the new home of a storage entry? It counts against the tile quota beside the old tile, unless
that leaves the device (R225; notes/assumptions/36.md). -/
def State.homeRoom (s : State) (vd : Nat) (leaving : Bool) : Bool :=
  s.tilesOf vd < (s.vd vd).tileQuota + if leaving then 1 else 0

/-- The entry of a role that a change takes first (R151 step 2), and, for a storage tile that has no room for backing pages,
the pool tile kept as its new home: it is not selected without either (R225). -/
def State.pickTile (s : State) (vd role : Nat) (leaving : Bool) : Option (Nat × Option Nat) × State :=
  let l := (s.roleTiles vd role).filter fun x => s.mayChange vd x.1 x.2
  let load (x : Nat × Entry) : Nat :=
    if role = 1 then s.tasksOn x.2.phys
    else if role = 2 then (s.tile x.2.phys).live.length
    else s.dataTaken x.2.phys
  match smallest (fun x => load x * 4096 + x.1) l with
  | none => (none, s)
  | some x =>
    if role ≠ 2 then (some (x.1, none), s) else
    match s.backingRoom vd with
    | (true, s) => (some (x.1, none), s)
    | (false, s) =>
      if !s.homeRoom vd leaving then (none, s) else
      ((s.poolNear vd x.2.phys).map fun n => (x.1, some n), s)

/-! ### The decisions of an epoch (R151) -/

/-- The lowest logical tile whose entry is role none and stable. One that a decided change has chosen already, or that a
notice names, is passed over: R160 does not say whether it counts (notes/assumptions/99.md). -/
def State.freeLid (s : State) (vd : Nat) : Option Nat :=
  let v := s.vd vd
  (List.range 4096).find? fun l =>
    (v.entry l).role = 0 && (v.entry l).state = 0 && (v.entry l).notice.isNone && !(v.decisions.any fun d => d.lid = l)

/-- Where a tile from the pool goes: an entry of that role that a wake left dark (R315), a backed entry that openly
takes it (R226), else the lowest free logical tile. -/
def State.castLid (s : State) (vd role : Nat) : Option Nat × State :=
  let v := s.vd vd
  let free (x : Nat × Entry) : Bool := x.2.notice.isNone && !(v.decisions.any fun d => d.lid = x.1)
  match smallest (fun (x : Nat × Entry) => x.1) (v.rolemap.filter fun x => x.2.role = role && x.2.state = 3 && free x) with
  | some x => (some x.1, s)
  | none =>
    match smallest (fun (x : Nat × Entry) => x.1)
        (v.rolemap.filter fun x => role = 2 && x.2.backed && x.2.state = 0 && x.2.lease = 0 && free x) with
    | some x =>
      let (d, s) := s.draw
      (if Config.keeps d then some x.1 else s.freeLid vd, s)
    | none => (s.freeLid vd, s)

def State.decide (s : State) (vd : Nat) (d : Decision) : State :=
  s.modVd vd fun v => { v with decisions := v.decisions ++ [d] }

/-- Changes decided so far; retirements do not count among the eight. -/
def Vd.decided (v : Vd) : Nat := (v.decisions.filter fun d => d.kind ≠ 3).length

/-- Step 1 for one role: tiles from the pool, as many as it seeks; the answer is how many it still seeks. -/
def State.takeFor (s : State) (vd role : Nat) : Nat → Nat × State
  | 0 => (0, s)
  | n + 1 =>
    if s.tileShare vd ≤ s.tilesOf vd ∨ 8 ≤ (s.vd vd).decided ∨ !s.noticeRoom vd then (n + 1, s) else
    match s.poolFor vd, s.castLid vd role with
    | some p, (some l, s) => (s.decide vd ⟨l, role, some p, 0⟩).takeFor vd role n
    | _, _ => (n + 1, s)

/-- Step 2 for one role: tiles of the device's least pressed role whose pressure is low. -/
def State.recastFor (s : State) (vd role : Nat) (gs : List Gauge) : Nat → State
  | 0 => s
  | n + 1 =>
    if 8 ≤ (s.vd vd).decided ∨ !s.noticeRoom vd then s else
    match lowestOf (gs.filter fun g => g.low && g.tiles ≠ 0 && g.role ≠ role) with
    | none => s
    | some g =>
      match s.pickTile vd g.role false with
      | (some (l, p), s) => (s.decide vd ⟨l, role, p, 0⟩).recastFor vd role gs n
      | (none, s) => s

/-- Step 3: tiles above the share go back to the pool. -/
def State.giveBack (s : State) (vd : Nat) (gs : List Gauge) : Nat → State
  | 0 => s
  | n + 1 =>
    let going := ((s.vd vd).decisions.filter fun d => d.newrole = 0).length
    if s.tilesOf vd ≤ s.tileShare vd + going ∨ 8 ≤ (s.vd vd).decided ∨ !s.noticeRoom vd then s else
    match lowestOf (gs.filter fun g => g.tiles ≠ 0) with
    | none => s
    | some g =>
      match s.pickTile vd g.role true with
      | (some (l, p), s) => (s.decide vd ⟨l, 0, p, 0⟩).giveBack vd gs n
      | (none, s) => s

/-- The three steps for a device. -/
def State.decisionsOf (s : State) (vd : Nat) : State :=
  let gs := s.gauges vd
  let high := byPressure (gs.filter fun g => g.high)
  let (left, s) := high.foldl (fun (r : List (Gauge × Nat) × State) g =>
    let (n, s) := r.2.takeFor vd g.role (min 8 g.seeks)
    (r.1 ++ [(g, n)], s)) ([], s)
  let s := left.foldl (fun s x => s.recastFor vd x.1.role gs x.2) s
  s.giveBack vd gs 8

/-! ### Retirement (R20, R165, R316) -/

/-- The tiles test of R316 for the devices that are not degraded. -/
def State.tilesTest (s : State) : Bool :=
  ((s.vds.filter fun v => !v.2.degraded).map fun v => if v.2.wakeClass = 3 then 1 else v.2.tileQuota).sum ≤ s.soundTiles

/-- Degrade the most recently created devices until the test holds for the others. -/
def State.degrade (s : State) : Nat → State
  | 0 => s
  | n + 1 =>
    if s.tilesTest then s else
    match smallest (fun (v : Nat × Vd) => 2 ^ 64 - v.2.serial) (s.vds.filter fun v => !v.2.degraded) with
    | some v => (s.modVd v.1 fun v => { v with degraded := true }).degrade n
    | none => s

/-- A tile leaves the pool for good. A pool tile that R470 gives stands in for one of a collapsed device's reserve (R315). -/
def State.retire (s : State) (n : Nat) : State :=
  let t : Tile := { failing := true, retired := true }
  let s := ({ s with mem := s.mem.clear (sramKey n 0) (2 ^ 24) } : State).setTile n t
  let s := s.vds.foldl (fun s v => if n ∈ v.2.reserve then
      match s.poolAmong v.1 ((s.poolTiles v.1).filter fun m => !(m ∈ v.2.reserve)) with
      | some m => s.modVd v.1 fun v => { v with reserve := v.reserve.map fun k => if k = n then m else k }
      | none => s.modVd v.1 fun v => { v with reserve := v.reserve.filter (· ≠ n) }
    else s) s
  s.degrade s.vds.length

/-- Where a notice or a move had chosen a tile that has been retired, it takes another of the pool, or none: a storage entry
that only such a tile could serve is then backed past the HBM quota, for R225 does not say what becomes of it
(notes/assumptions/91.md). -/
def State.retarget (s : State) (n : Nat) : State :=
  s.vds.foldl (fun s v => v.2.rolemap.foldl (fun s x =>
    if x.2.target = some n then
      let m := if x.2.role = 2 ∧ !x.2.backed then s.poolNear v.1 x.2.phys else s.poolFor v.1
      s.modEntry v.1 x.1 fun e => { e with target := m }
    else s) s) s

/-- A failing tile of the pool is retired; what had chosen it takes another, or none. -/
def State.retirePool (s : State) (n : Nat) : State := (s.retire n).retarget n

/-- The retirements that an epoch boundary brings to a device: the entries of its failing tiles, not already moving or
retiring. -/
def State.retirements (s : State) (vd : Nat) : List Nat :=
  ((s.vd vd).rolemap.filter fun x => x.2.role ≠ 0 && !x.2.backed && (x.2.state = 0 || x.2.state = 1) &&
    (s.tile x.2.phys).failing && !(x.2.notice.any fun n => n.kind = 3)).map (·.1)

/-- Leases at an epoch boundary (R149). -/
def Entry.lapse (e : Entry) : Entry :=
  if e.lease = 0 then e else if e.lease = 1 then { e with lease := 0, owner := none } else { e with lease := e.lease - 1 }

/-- CENSUS_EPOCH: leases count down, failing tiles are to be retired, and the changes of each device are decided. -/
def execCensusEpoch (s : State) : Result :=
  event s (
    if s.cycles / Config.epoch ≤ s.clock.epoch then none else
    let s : State := { s with clock := { s.clock with epoch := s.clock.epoch + 1 } }
    let s : State := { s with vds := s.vds.map fun v => (v.1, { v.2 with decisions := [] }) }
    -- failing tiles of the pool; one that a move is casting waits for the end of the move
    let casting (n : Nat) : Bool := s.vds.any fun v => v.2.rolemap.any fun e => e.2.target == some n && e.2.state == 2
    let s := s.tiles.foldl (fun (s : State) x =>
      if x.2.failing && x.2.owner.isNone && !x.2.retired && !casting x.1 then s.retirePool x.1 else s) s
    some (s.vds.foldl (fun s v =>
      let s := if v.2.pwr ≠ 0 then s else
        let s := s.modVd v.1 fun v => { v with rolemap := v.rolemap.map fun x => (x.1, x.2.lapse) }
        let s := (s.retirements v.1).foldl (fun s l => s.decide v.1 ⟨l, (s.entry v.1 l).role, none, 3⟩) s
        s.decisionsOf v.1
      s.modVd v.1 fun v => { v with pressure := {} }) s))

/-! ### Notices (R153 to R156) -/

/-- Event line 31 fires in every cluster with a compute tile of the device: the census sends an event to each unit (R154,
R234). -/
def State.roleLine (s : State) (vd : Nat) : State :=
  let l := ((s.vd vd).rolemap.filter fun x => x.2.role = 1 && x.2.state ≠ 3).map fun x => x.2.phys
  (l.pwFilter fun a b => clusterOf a ≠ clusterOf b).foldl (fun s n =>
    s.send 0x23 0 (Config.censusStop % 1024) 7 vd 0 0x80000000 (.stop n) (.event vd 0 0x80000000)) s

/-- The effective tide of a notice issued in a cycle. -/
def tideOf (cycles : Nat) : Nat := (cycles + 2 * Config.tide - 1) / Config.tide * Config.tide

/-- Is a decided change still one that the census may make? -/
def State.stands (s : State) (vd : Nat) (d : Decision) : Bool :=
  let v := s.vd vd
  let e := v.entry d.lid
  -- without the decision itself, which no longer waits
  let s' := s.modVd vd fun v => { v with decisions := v.decisions.filter fun x => x ≠ d }
  v.pwr = 0 && s'.noticeUsed v + v.noticeReserved + 2 ≤ 256 && e.notice.isNone &&
  match d.pool with
  | some n => s'.lendable vd n &&
    (if e.role = 2 && e.state = 0 && !e.backed then s'.mayChange vd d.lid e
     else e.role = 0 && e.state = 0 || e.state = 3 || e.backed && e.lease = 0 && e.state = 0)
  | none => s'.mayChange vd d.lid e

/-- Issue a notice of kind 0: its record and the one that will end it are reserved, the record is published, then line
31 fires. A dark entry stays dark until its tide. -/
def State.issue (s : State) (vd : Nat) (d : Decision) : State :=
  let n : Notice := { kind := 0, noticed := s.cycles, tide := tideOf s.cycles }
  let s := s.modVd vd fun v => { v with noticeReserved := v.noticeReserved + 2 }
  let s := s.modEntry vd d.lid fun e =>
    if e.state = 3 then { e with notice := some n, target := d.pool }
    else { e with state := 1, newrole := d.newrole, notice := some n, target := d.pool }
  let e := s.entry vd d.lid
  let phys := if e.state = 3 then none else e.tile
  let r := noticeRecord 0 d.lid e.gen.toNat d.newrole e.role n.tide n.noticed none none phys
  (s.noticeReservedPut vd r).roleLine vd

/-- Issue a retirement notice in place of any other: its records wait at the census where the ring has no room, and the line
fires once its own is written (R154, R156). -/
def State.issueRetirement (s : State) (vd lid : Nat) : State :=
  let e := s.entry vd lid
  -- what the notice that it replaces had reserved
  let s := if e.notice.any (fun n => n.reserved) then
      s.modVd vd fun v => { v with noticeReserved := v.noticeReserved - 1 } else s
  let v := s.vd vd
  let room := 256 - (s.noticeUsed v + v.noticeReserved)
  let now : Bool := v.deferred.isEmpty && 1 ≤ room
  let n : Notice := { kind := 3, noticed := s.cycles, tide := tideOf s.cycles, reserved := now && 2 ≤ room }
  let s := s.modEntry vd lid fun e => { e with state := 1, newrole := e.role, notice := some n, target := none }
  let r := noticeRecord 3 lid e.gen.toNat e.role e.role n.tide n.noticed none none e.tile
  let s := if n.reserved then s.modVd vd fun v => { v with noticeReserved := v.noticeReserved + 1 } else s
  if now then (s.noticePut vd r).roleLine vd else s.modVd vd fun v => { v with deferred := v.deferred ++ [r] }

/-- Does an entry still hold a tile that is to be retired (R165)? -/
def State.stillFails (s : State) (vd lid : Nat) : Bool :=
  let e := s.entry vd lid
  e.role ≠ 0 && e.state ≤ 1 && !e.backed && (s.tile e.phys).failing && (s.tile e.phys).owner = some (vd, lid)

/-- NOTICE: the next of a device's decided changes is noticed, unless it may no longer be made, as a retirement of a tile that
the entry has left since; in a drain a notice waits for its end (R244). -/
def execNotice (vd : Nat) (s : State) : Result :=
  event s (if s.draining then none else match (s.vd vd).decisions with
    | [] => none
    | d :: r =>
      let t := s.modVd vd fun v => { v with decisions := r }
      if d.kind = 3 then
        if s.stillFails vd d.lid ∧ (s.vd vd).pwr = 0 then some (t.issueRetirement vd d.lid) else some t
      else if s.stands vd d then some (t.issue vd d) else some t)

/-- NOTICE_RECORD_DEFERRED: the first record that waits at the census is written where a record is free; line 31 follows the
record of a notice. -/
def execNoticeRecordDeferred (vd : Nat) (s : State) : Result :=
  event s (
    let v := s.vd vd
    match v.deferred with
    | [] => none
    | r :: l =>
      if s.draining ∨ 256 ≤ s.noticeUsed v + v.noticeReserved then none else
        let s := (s.modVd vd fun v => { v with deferred := l }).noticePut vd r
        some (if bvBits r.1 19 16 = 3 then s.roleLine vd else s))

end Sys2Proof.Machine
end

