-- ==== Sys2Proof/Machine/Moves.lean ====
section
/-! DEFINITION. The tide drain and the moves of the role map (spec/07 R158 to R166; spec/10 R225 to R227; spec/11 R236 to
R246; spec/21 R364). -/

namespace Sys2Proof.Machine

/-! ### The drain (R236, R237, R242 to R246) -/

/-- TIDE_DRAIN: at a tide boundary every die begins to drain its message packets, which ends at once where its message slots
are empty; what a drain counts begins anew. -/
def execTideDrain (s : State) : Result :=
  event s (if s.draining ∨ s.cycles / Config.tide ≤ s.clock.tide then none
    else some ({ s with
      draining := true
      dies := s.dies.map fun d => { d with draining := true, shifts := 0, sidePeak := 0, vertPeak := 0 }
      stops := s.stops.map fun x => (x.1, { x.2 with peak := 0 }) } : State).endDrains)

/-- INJECTION_STARVATION: an entry of a stop into a direction that has been refused for 1,024 cycles of its die has the second
rank for its link, until it is made. Of several such entries each has it in turn, the one that came first to the network
first (notes/assumptions/44.md). -/
def execInjectionStarvation (stop dir : Nat) (s : State) : Result :=
  event s (
    (s.packets.findIdx? fun p =>
      !p.starved && p.stop == stop && decide (nextMove stop (s.dstOf p) = .ring dir) &&
        p.since.any fun c => c + 1024 ≤ s.masterAt stop).map fun k =>
      { s with packets := s.packets.modify k fun p => { p with starved := true } })

/-! ### Tiles and their contents -/

/-- A tile is cast anew: everything in it is zero or empty (R143, R254, R285). -/
def State.castTile (s : State) (n : Nat) (owner : Option (Nat × Nat)) (role : Nat) : State :=
  let old := s.tile n
  let s : State := { s with mem := s.mem.clear (sramKey n 0) (2 ^ 24),
                            errored := s.errored.filter fun k => k / 2 ^ 16 ≠ sramKey n 0 / 2 ^ 24 }
  s.setTile n { owner := owner, role := role, dark := owner.isNone, failing := old.failing, retired := old.retired,
                halved := old.halved }

/-- A tile goes back to the pool, dark (notes/assumptions/68.md). -/
def State.toPool (s : State) (n : Nat) : State := s.castTile n none (s.tile n).role

/-- Move a range of bytes from one key to another, with its errored lines and the monitors armed on it; the old range
reads zero. Both keys and the length are multiples of 256. -/
def State.moveRange (s : State) (old new len : Nat) : State :=
  if old = new then s else
  let cells := s.mem.slice old len new
  ({ s with mem := (s.mem.clear old len).replace new len cells } : State).moveMarks old new len

/-! ### Where tasks and events go (R159, R274, R364) -/

/-- Does a task that has no thread hold something of a tile: its window, a partition, commands? -/
def State.holdsOn (s : State) (id : Nat) (t : Task) (n : Nat) : Bool :=
  (t.window.any fun w => w.tile = some n) ||
  (s.tile n).cores.toList.any fun c => c.owner = some id || c.cmds.any (fun m => m.task = id) ||
    (c.sub.toList ++ c.paused).any fun u => u.cmd.task = id

/-- A parked task of a compute tile that begins to move is quiesced as a running one is (R159, R215, R271): its un-started
commands leave their queues, its stores are performed and its XPUTs land. Its window and its partition stay until what it has
started has ended. -/
def State.quiesceParked (s : State) (id n : Nat) : State :=
  match s.task? id with
  | none => s
  | some t =>
    let take (c : Core) (q : EngQ) : List (EngQ × Cmd) := ((c.queue q).filter fun m => m.task = id && s.pauses c m).map fun m =>
      (q, m.away)
    let cmds := (s.tile n).cores.toList.flatMap fun c =>
      take c .matrix ++ take c .copy ++ take c .collective ++ take c .stream
    let sv := t.saved.getD {}
    let s := if cmds.isEmpty then s else (s.takeCmds id cmds).modTask id fun t =>
      { t with saved := some { sv with cmds := sv.cmds ++ cmds } }
    s.release id .module

/-- An EVWAIT whose task goes to another cluster waits at a unit that it can no longer be reached at: it runs again (R366). -/
def State.rearm (s : State) (id : Nat) : State :=
  match s.task? id with
  | none => s
  | some t => match t.status with
    | .blocked (.lines c _) => if t.home ≠ c then s.makeReady id none else s
    | _ => s

/-- Take every task of a compute tile that begins to move off it: running and parked ones are quiesced; a parked one that
holds nothing of the tile is homed elsewhere. Of several moves of one tide each is begun in turn, so that a tile whose own
move begins after still counts as the nearest (notes/assumptions/79.md). -/
def State.leaveTile (s : State) (vd n : Nat) : State :=
  s.tasks.foldl (fun s x =>
    match s.task? x.1 with
    | none => s
    | some t =>
      if t.vd ≠ vd then s else
      match t.status with
      | .running p => if p.tile = n then s.quiesce x.1 p else s
      | .saving p | .stopping (some p) => if p.tile = n then s.release x.1 .module else s
      | _ =>
        if s.holdsOn x.1 t n then s.quiesceParked x.1 n
        else if t.bound.any fun b => b.1 = n then
          ((s.release x.1 .module).modTask x.1 fun t => { t with bound := none, home := s.homeAfter vd n }).rearm x.1
        else s) s

/-- What parked tasks still hold of a tile that leaves compute role is saved with their contexts, and they are homed elsewhere
(R159, R274). -/
def State.saveOff (s : State) (vd n : Nat) : State :=
  s.tasks.foldl (fun s x =>
    match s.task? x.1 with
    | none => s
    | some t =>
      if t.vd = vd && (s.holdsOn x.1 t n || t.bound.any fun b => b.1 = n) then (s.saveParked x.1).rearm x.1 else s) s

/-- Are the stores and exchanges of those tasks performed, but for what their saves need not wait for (R215)? -/
def State.settledOff (s : State) (vd n : Nat) : Bool :=
  s.tasks.all fun x => x.2.vd ≠ vd || !(s.holdsOn x.1 x.2 n || x.2.bound.any fun b => b.1 = n) || !s.saveWaits vd x.1 n

/-! ### A move begins (R158 to R162, R244) -/

/-- Exchanges that have left for a logical tile land before its banks are saved (R163). -/
def State.landAt (s : State) (vd lid : Nat) : State :=
  s.flush fun p => p.loc != .queue && match p.body with
    | .xput _ v _ l _ _ => v = vd && l = lid
    | _ => false

/-- A compute or routing entry that is being re-cast to storage at this tide, whose tile no other move has taken (R160). Which
of several serves is not stated: the model takes the first of the role map's list (notes/assumptions/91.md). -/
def State.recastAtTide (s : State) (vd boundary : Nat) : Option (Nat × Nat) :=
  ((s.vd vd).rolemap.find? fun x => (x.2.role = 1 || x.2.role = 3) && x.2.newrole = 2 && (x.2.state = 1 || x.2.state = 2) &&
    (x.2.notice.any fun n => n.kind = 0 && n.tide ≤ boundary)).map fun x => (x.1, x.2.phys)

/-- Does an entry's old tile leave the device with its move? -/
def Entry.leaving (e : Entry) : Bool := e.newrole = 0 || e.notice.any fun n => n.kind = 3

/-- The new home of a storage entry: the pool tile kept for it or one within the quota, a tile re-cast to storage at this
tide, or none, which is backing pages (R160, R225). -/
def State.newHome (s : State) (vd lid boundary : Nat) : State :=
  let e := s.entry vd lid
  match e.target.or (if s.homeRoom vd e.leaving then s.poolNear vd e.phys else none) with
  | some n => (s.castTile n (some (vd, lid)) 2).modEntry vd lid fun e => { e with target := some n }
  | none =>
    match s.recastAtTide vd boundary with
    | some (l, n) =>
      -- that entry gives its tile up
      (s.modEntry vd l fun e => { e with newrole := 0 }).modEntry vd lid fun e => { e with target := some n }
    | none => s

/-- An entry that a wake left dark is cast: it is stable at once on its tile (R158, R315); its generation rises where that
is not the one it last held. Where its tile has been retired meanwhile it stays dark. -/
def State.relight (s : State) (vd lid : Nat) : State :=
  let e := s.entry vd lid
  let e' : Entry := { e with newrole := 0, notice := none, target := none }
  let said (s : State) (e' : Entry) (phys : Option Nat) : State := match e.notice with
    | some n => s.endRecord vd n (noticeRecord 2 lid e'.gen.toNat e.role e.role s.cycles n.noticed none phys none)
    | none => s
  match e.target with
  | none => said (s.modEntry vd lid fun _ => e') e' none
  | some n =>
    let e' := { e' with state := 0, phys := n, gen := if n = e.phys then e.gen else e.gen + 1 }
    (said ((s.castTile n (some (vd, lid)) e.role).modEntry vd lid fun _ => e') e' (some n)).migrateEvents vd

/-- ROLE_MOVE_BEGIN for one entry. What has left for its home still reaches it there, and is applied, until the move completes,
which is when the model has the home copy; after that the home sends it on (R162). -/
def State.beginMove (s : State) (vd lid boundary : Nat) : State :=
  let e := s.entry vd lid
  if e.state = 3 then s.relight vd lid else
  let s := s.modEntry vd lid fun e => { e with state := 2 }
  if e.role = 1 then (s.landAt vd lid).leaveTile vd e.phys
  else if e.role = 2 ∧ !e.backed then s.newHome vd lid boundary
  else s

/-- The entries whose effective tide has come: storage entries first, for a re-cast tile of the same tide may serve
them. -/
def State.dueMoves (s : State) (boundary : Nat) : List (Nat × Nat) :=
  let due (x : Nat × Entry) : Bool := (x.2.state = 1 || x.2.state = 3) && x.2.notice.any fun n => n.tide ≤ boundary
  let all := s.vds.flatMap fun v => (v.2.rolemap.filter due).map fun x => (v.1, x.1, x.2.role)
  ((all.filter fun x => x.2.2 = 2) ++ all.filter fun x => x.2.2 ≠ 2).map fun x => (x.1, x.2.1)

/-- TIDE_DRAIN_END: the drains of every die have ended; the moves of this tide begin. -/
def execTideDrainEnd (s : State) : Result :=
  event s (if !s.draining ∨ !s.drained then none else
    let s : State := { s with draining := false, clock := { s.clock with tide := s.clock.tide + 1 } }
    let boundary := s.clock.tide * Config.tide
    some ((s.dueMoves boundary).foldl (fun s x => s.beginMove x.1 x.2 boundary) s))

/-! ### A move completes (R158 to R161, R165) -/

/-- The last part of every move: the entry as it is to be, its record, and the events that lose their unit. -/
def State.finishMove (s : State) (vd lid : Nat) (e' : Entry) (newlid newphys oldphys : Option Nat) (said : Nat) : State :=
  let e := s.entry vd lid
  let e' := { e' with gen := e.gen + 1, state := 0, newrole := 0, notice := none, target := none }
  let s := s.modVd vd fun v => v.setEntry lid e'
  let s := match e.notice with
    | some n => s.endRecord vd n
        (noticeRecord 2 lid e'.gen.toNat said e.role s.cycles n.noticed newlid newphys oldphys)
    | none => s
  s.migrateEvents vd

/-- The old tile of a move takes the lowest free logical tile in its new role, or goes to the pool. -/
def State.giveLid (s : State) (vd n role : Nat) : Option Nat × State :=
  if role = 0 then (none, s.toPool n) else
  match s.freeLid vd with
  | none => (none, s.toPool n)
  | some l =>
    let s := s.castTile n (some (vd, l)) role
    (some l, s.modEntry vd l fun e =>
      { e with gen := e.gen + 1, role := role, phys := n, state := 0, backed := false })

/-- A compute or routing entry: in place in its new role, to the pool, or, when it retires, to a pool tile of the same
role (R165). -/
def State.completeInPlace (s : State) (vd lid : Nat) : State :=
  let e := s.entry vd lid
  let old := e.phys
  let retiring := e.notice.any fun n => n.kind = 3
  -- the tile has become the new home of a storage entry (R160)
  let taken := (s.tile old).owner ≠ some (vd, lid) || (s.vd vd).rolemap.any fun x => x.2.target = some old
  -- only a retirement clears a lease (R149, R165)
  let none' : Entry := if retiring then { e with role := 0, phys := 0, lease := 0, owner := none } else { e with role := 0, phys := 0 }
  if taken then s.finishMove vd lid none' none none (some old) 0
  else if retiring then
    let pool := if s.tilesOf vd ≤ (s.vd vd).tileQuota then s.poolFor vd else none
    match pool with
    | some n =>
      let s := (s.castTile n (some (vd, lid)) e.role).retire old
      s.finishMove vd lid { e with phys := n } none (some n) (some old) e.role
    | none => (s.retire old).finishMove vd lid none' none none (some old) 0
  else if e.newrole = 0 then (s.toPool old).finishMove vd lid none' none none (some old) 0
  else (s.castTile old (some (vd, lid)) e.newrole).finishMove vd lid { e with role := e.newrole } none (some old) (some old) e.newrole

/-- A storage entry: its words, live lines, errors and monitors go to its new home; its queues are held under its
logical tile. -/
def State.completeStorage (s : State) (vd lid : Nat) : State :=
  let e := s.entry vd lid
  let old := e.phys
  let live := (s.tile old).live
  let retiring := e.notice.any fun n => n.kind = 3
  let s := match e.target with
    | some n =>
      let s := s.castTile n (some (vd, lid)) 2
      (s.moveRange (sramKey old 0) (sramKey n 0) (2 ^ 24)).modTile n fun t => { t with live := live }
    | none => s.moveRange (sramKey old 0) (backedKey vd lid 0) (2 ^ 24)
  let e' : Entry := match e.target with
    | some n => { e with phys := n }
    | none => { e with phys := 0, backed := true, live := live }
  let (newlid, s) := if retiring then (none, s.retire old) else s.giveLid vd old e.newrole
  s.finishMove vd lid e' newlid e.target (some old) (if retiring then 2 else e.newrole)

/-- An entry that a pool tile fills: one that had none, one a wake left dark, or a backed one. -/
def State.completeCast (s : State) (vd lid n : Nat) : State :=
  let e := s.entry vd lid
  let s := s.castTile n (some (vd, lid)) e.newrole
  let s := if e.backed then
      (s.moveRange (backedKey vd lid 0) (sramKey n 0) (2 ^ 24)).modTile n fun t => { t with live := e.live }
    else s
  s.finishMove vd lid { e with role := e.newrole, phys := n, backed := false, live := [] } none (some n) none e.newrole

/-- Does nothing run or end on a tile any more? A subscription between two panels can be saved. -/
def State.quiet (s : State) (n : Nat) : Bool :=
  !(s.tasks.any fun x => match x.2.status with
    | .running p | .saving p | .stopping (some p) => p.tile = n
    | _ => false) && (List.range 4).all fun c =>
      !((s.core n c).sub.any fun u => u.filling.isSome) && (s.core n c).cmds.all fun m => match m.instr with
        | .tsub .. => true
        | _ => false

/-- Have the 42 extra slots of a routing tile drained in each direction (R161)? -/
def State.routed (s : State) (n : Nat) : Bool := (List.range 4).all fun d => s.taken n d false ≤ 6

/-- Does the tile that a storage entry waits for still serve in its old role? -/
def State.targetBusy (s : State) (e : Entry) : Bool :=
  e.target.any fun n => ((s.tile n).role = 1 && !s.quiet n) || ((s.tile n).role = 3 && !s.routed n)

/-- ROLE_MOVE_COMPLETE. A moving entry whose pool tile has been retired with no other left has no end of its move in R158:
here it is stable with the next generation and a record of kind 2, its role and tile what they were
(notes/assumptions/91.md). -/
def execRoleMoveComplete (vd lid : Nat) (s : State) : Result :=
  event s (
    let e := s.entry vd lid
    if e.state ≠ 2 then none
    else if e.role = 1 ∧ e.target.isNone then
      if (s.tile e.phys).owner ≠ some (vd, lid) ∨ (s.quiet e.phys && s.settledOff vd e.phys) then
        some ((s.saveOff vd e.phys).completeInPlace vd lid)
      else none
    else if e.role = 3 ∧ e.target.isNone then
      if (s.tile e.phys).owner ≠ some (vd, lid) ∨ s.routed e.phys then some (s.completeInPlace vd lid) else none
    else if e.role = 2 ∧ !e.backed ∧ (s.tile e.phys).owner = some (vd, lid) then
      if s.targetBusy e then none else
        -- a compute tile that becomes the new home keeps nothing of its tasks
        let s := match e.target with
          | some n => if (s.tile n).role = 1 then s.saveOff vd n else s
          | none => s
        some (s.completeStorage vd lid)
    else match e.target with
      | some n => some (s.completeCast vd lid n)
      | none => some (s.finishMove vd lid e none none none e.role))

/-- FORWARD: the k-th packet, which an old home has sent on and which has reached the new one, is applied there, the first of
its logical tile first (R162), and its sender has its answer. -/
def execForward (k : Nat) (s : State) : Result :=
  event s (match s.packets[k]? with
    | none => none
    | some p =>
      if !p.forwards || s.astray p || !s.mayReceive k p ||
          (s.packets.take k).any fun q => q.forwards && q.homed == p.homed then none
      else
        let taken : State := { s with packets := s.packets.eraseIdx k }
        match p.body with
        | .store .. | .engine .. | .xput .. => some ((taken.deliver p).answer p 0x03 0)
        | .request kind len x _ => some (taken.answer p kind len x)
        | .enqueue .. => s.takeEnqueue k p true
        | _ => some (taken.deliver p))

/-! ### Failing tiles (R165) -/

/-- TILE_FAILING_MARK: the management plane marks a tile; it is retired at the next epoch boundary. -/
def execTileFailingMark (tile : Nat) (s : State) : Result :=
  event s (if 1024 ≤ tile ∨ (s.tile tile).retired then none
    else some (s.modTile tile fun t => { t with failing := true }))

/-- What a parked task held on a failed tile is lost: its window and its partition hold open values. The stores that have left
the tile are performed. -/
def State.loseParked (s : State) (id n : Nat) : State :=
  match s.task? id with
  | none => s
  | some t =>
    let owned := (List.range 4).any fun c => (s.core n c).owner = some id
    let sv := t.saved.getD {}
    let s := s.release id .module
    match t.window with
    | some w =>
      if w.tile = some n then
        let (cells, s) := s.freeCells 0 (2 * w.size)
        let d := s.draws
        let acc := if owned then some ((List.range 16384).map fun i => (i, (Config.free (d + i)).setWidth 32)) else none
        ({ s with draws := d + 16384 } : State).modTask id fun t => { t with
          saved := some { sv with window := cells, acc := acc }, window := some { w with tile := none }, bound := none,
          home := s.homeAfter t.vd n }
      else s
    | none =>
      if owned then
        let d := s.draws
        let acc := (List.range 16384).map fun i => (i, (Config.free (d + i)).setWidth 32)
        ({ s with draws := d + 16384 } : State).modTask id fun t => { t with
          saved := some { sv with acc := some acc }, bound := none, home := s.homeAfter t.vd n }
      else if t.bound.any fun b => b.1 = n then
        s.modTask id fun t => { t with bound := none, home := s.homeAfter t.vd n }
      else s

/-- The tasks of a failed tile: commands end with a data error, running tasks fail with cause 0x08, doomed ones are
reclaimed, parked ones lose what they held there. Of a device that is being destroyed no future is written (R329). -/
def State.failTasks (s : State) (vd n : Nat) : State :=
  let subs := (List.range 4).flatMap fun c => (s.core n c).sub.toList ++ (s.core n c).paused
  let s := (List.range 4).foldl (fun s c => s.modCore n c fun k => { k with sub := none, paused := [] }) s
  let s := subs.foldl (fun s u => s.settleSub { u with detail := 2 }) s
  let s := ((List.range 4).flatMap fun c => (s.core n c).cmds).foldl (fun s c => s.finishCmd c 2) s
  s.tasks.foldl (fun s x =>
    match s.task? x.1 with
    | none => s
    | some t =>
      if t.vd ≠ vd then s else
      match t.status with
      | .running p | .saving p =>
        if p.tile ≠ n then s
        else if (s.vd vd).destroying then (s.quietDown x.1 t).modTask x.1 fun t => { t with status := .stopping none }
        else s.endTask x.1 (.failed 8)
      | .stopping (some p) =>
        if p.tile ≠ n then s
        else if (s.vd vd).destroying then (if t.torn then s else s.quietDown x.1 t)
        else (if t.torn then s else s.tearDown x.1).reclaimed x.1
      | _ => s.loseParked x.1 n) s

/-- Does a move hold stores or exchanges of tasks that a failed tile ends, whose final states release them (R205)? -/
def State.endsHeld (s : State) (vd n : Nat) : Bool :=
  s.tasks.any fun x => x.2.vd = vd && s.heldStores x.1 && match x.2.status with
    | .running p | .saving p | .stopping (some p) => p.tile = n
    | _ => false

/-- The storage entry of a failed tile whose move runs towards a tile that still serves in another role takes the pool's, or
backing pages, for it moves at once (R160, R165); of a compute tile that nothing runs on any more, what its tasks hold is
saved. -/
def State.rehome (s : State) (vd lid : Nat) : State :=
  let e := s.entry vd lid
  if s.targetBusy e then
    s.modEntry vd lid fun e => { e with target := if s.homeRoom vd e.leaving then s.poolNear vd e.phys else none }
  else match e.target with
    | some n => if (s.tile n).role = 1 then s.saveOff vd n else s
    | none => s

/-- The 256-byte blocks of a storage tile's live lines. -/
def liveBlocks (n : Nat) (l : List Nat) : List Nat := l.map fun i => sramKey n 0 / 256 + i

/-- TILE_FAILURE: a tile fails before its contents can move, and is retired at once. A notice that was pending ends with
its record. A tile that a notice or a move has chosen is replaced; the new home of a storage move that runs holds no line
yet (notes/assumptions/91.md). It fails once no move holds what its tasks' ends release (R205). -/
def execTileFailure (tile : Nat) (s : State) : Result :=
  event s (
    let t := s.tile tile
    if 1024 ≤ tile ∨ t.retired ∨ t.owner.any (fun o => t.role = 1 && s.endsHeld o.1 tile) then none else
    match t.owner with
    | none => some (s.retirePool tile)
    | some (vd, lid) =>
      let e := s.entry vd lid
      if e.target = some tile then some (s.retirePool tile) else
      let s := s.modTile tile fun t => { t with failing := true }
      if t.role = 2 then
        let s : State := { s with errored := (s.errored ++ liveBlocks tile t.live).dedup }
        let s := s.modEntry vd lid fun e =>
          { e with notice := e.notice.map (fun n => { n with kind := 3 }), newrole := if e.notice.isSome then e.newrole else 0 }
        -- a move that runs has its home
        let s := if e.state = 2 then s.rehome vd lid else s.newHome vd lid 0
        let s := s.completeStorage vd lid
        some ((if (s.tile tile).retired then s else s.retire tile).retarget tile)
      else
        let s := s.modEntry vd lid fun e => { e with state := 2, target := none }
        let s := if t.role = 1 then s.failTasks vd tile else s
        let pool := if s.tilesOf vd ≤ (s.vd vd).tileQuota then s.poolFor vd else none
        match pool with
        | some n =>
          let s := (s.castTile n (some (vd, lid)) t.role).retire tile
          some ((s.finishMove vd lid { e with phys := n } none (some n) (some tile) t.role).retarget tile)
        | none =>
          some (((s.retire tile).finishMove vd lid { e with role := 0, phys := 0, lease := 0, owner := none }
            none none (some tile) 0).retarget tile))

end Sys2Proof.Machine
end

