-- ==== Sys2Proof/Machine/System.lean ====
section
/-! DEFINITION. System registers, traps by instruction, ERET, TINV and SLEEP (spec/02 R42, R43; spec/13 R257, R266 to
R268; spec/21 R358, R363; spec/23 R424, R432, R433; spec/24 R442, R443). -/

namespace Sys2Proof.Machine

/-! ### System registers -/

/-- WHERE (R247): the logical tile, core and thread. -/
def State.whereWord (s : State) (p : Place) : Word :=
  let lid := match (s.tile p.tile).owner with
    | some (_, l) => l
    | none => 0
  BitVec.ofNat 64 (p.thread * 2 ^ 14 + p.core * 2 ^ 12 + lid)

/-- What SRRD reads, none for a reserved number (R42). -/
def State.readSys (s : State) (t : Task) (r : Nat) : Option Word :=
  match r with
  | 0x000 => some t.ctx.fctl
  | 0x001 => some t.ctx.fstat
  | 0x002 => some (s.tile t.last.tile).vshare
  | 0x003 => some (BitVec.ofNat 64 s.cycles)
  | 0x004 => some (s.whereWord t.last)
  | 0x100 => some t.ctx.tcause
  | 0x101 => some t.ctx.tval
  | 0x102 => some t.ctx.tepc
  | 0x103 => some t.ctx.tstatus
  | 0x104 => some (s.vd t.vd).tvec
  | 0x200 => some (s.vd t.vd).l2bypass
  | _ => none

/-- The fields that a write of each register keeps (R112, R267, R281); every other bit reads zero. -/
def sysMask (r : Nat) : Word :=
  match r with
  | 0x001 => 0x3F
  | 0x002 => 0xFFFFFFFF
  | 0x100 => 0x0FFF00FF
  | 0x101 => 0xFFFFFFFFFFFFFFFF
  | 0x102 => 0xFFFFFFFFFFFFFFFC
  | 0x103 => 0xFFF3
  | 0x104 => 0x01FFFFFFFFFFFFFC
  | _ => 0

/-- What SRWR does, none for a number that is reserved or read-only (R43). -/
def State.writeSys (s : State) (id : Nat) (t : Task) (r : Nat) (x : Word) : Option State :=
  let y := x &&& sysMask r
  let ctx (f : Ctx → Ctx) : Option State := some (s.modTask id fun t => { t with ctx := f t.ctx })
  match r with
  | 0x000 => ctx fun c => { c with fctl := fctlWrite c.fctl x }
  | 0x001 => ctx fun c => { c with fstat := y }
  | 0x002 => some (s.modTile t.last.tile fun t =>
      { t with vshare := y, cores := t.cores.map fun c => { c with laneCount := 0 } })
  | 0x100 => ctx fun c => { c with tcause := y }
  | 0x101 => ctx fun c => { c with tval := y }
  | 0x102 => ctx fun c => { c with tepc := y }
  | 0x103 => ctx fun c => { c with tstatus := y }
  | 0x104 => some (s.modVd t.vd fun v => { v with tvec := y, tvecOld := v.tvec, tvecChanged := s.masters })
  | _ => none

def execSrrd (d : GReg) (r : BitVec 12) (s : State) : Result :=
  run (.srrd d r) (fun _ t _ => do
    match (← get).readSys t r.toNat with
    | some x => return { vals := [x] }
    | none => trap 1 (Instr.word (.srrd d r))) s

def execSrwr (a : GReg) (r : BitVec 12) (s : State) : Result :=
  run (.srwr a r) (fun id t v => do
    match (← get).writeSys id t r.toNat (v.getD 0 0) with
    | some s => set s; return {}
    | none => trap 1 (Instr.word (.srwr a r))) s

/-! ### Traps by instruction, and the return -/

def execTrap (c : BitVec 12) (s : State) : Result :=
  run (.trap c) (fun _ _ _ => throw (.trap 0x11 0 c.toNat)) s

def execBrk (c : BitVec 12) (s : State) : Result :=
  run (.brk c) (fun _ _ _ => throw (.trap 0x10 0 c.toNat)) s

/-- ERET (R363). -/
def execEret (s : State) : Result := run .eret (fun id _ _ => do throw (.over ((← get).eret id))) s

/-! ### TINV (R257, R442) -/

/-- Commands of the module that hold pinned translations: in queues, saved, or a subscription's. -/
def State.pinners (s : State) : List Cmd :=
  s.commands ++ (s.tiles.flatMap fun x => x.2.cores.toList.flatMap fun c =>
      (c.sub.toList ++ c.paused).map fun u => u.cmd) ++
    (s.tasks.filterMap fun x => x.2.saved.bind fun sv => sv.sub.map fun u => u.cmd)

/-- The stores of a device that have not been performed: in the store buffers and on their way. -/
def State.storesOf (s : State) (vd : Nat) : List Store :=
  (s.tasks.flatMap fun x => if x.2.vd = vd then x.2.sbuf else []) ++ s.packets.filterMap fun p => match p.body with
    | .store v _ st | .engine v _ st => if v = vd then some st else none
    | _ => none

/-- The largest page that holds an address, among the translations a device still holds, those that its commands pin, those
that its stores on their way were made with (R257), and the one its tables give. -/
def State.pageAround (s : State) (vd va : Nat) : Nat :=
  let held := (s.tiles.flatMap fun x => x.2.tlb) ++ (s.tasks.flatMap fun x => x.2.extTable) ++
    s.pinners.flatMap fun c => c.pins
  let here := match s.walk (s.vd vd).root va with
    | .ok (_, level, _) => level
    | .error _ => 0
  let l := ((held.filter fun x => x.covers vd va).map fun x => x.level) ++
    ((s.storesOf vd).filter fun st => st.va / pageSize st.level == va / pageSize st.level).map fun st => st.level
  l.foldl max here

/-- Forget translations in every TLB and extent table. -/
def State.forget (s : State) (p : TlbEntry → Bool) : State :=
  { s with tiles := s.tiles.map fun x => (x.1, { x.2 with tlb := x.2.tlb.filter fun y => !p y })
           tasks := s.tasks.map fun x => (x.1, { x.2 with extTable := x.2.extTable.filter fun y => !p y }) }

/-- Perform every store of a device that a predicate on virtual addresses names, with what must come before it. -/
def State.performWhere (s : State) (vd : Nat) (p : Nat → Bool) : State :=
  let s := s.tasks.foldl (fun s x =>
    if x.2.vd ≠ vd then s
    else s.drainN x.1 (x.2.sbuf.reverse.dropWhile fun st => !p st.va).length) s
  s.flush fun y => match y.body with
    | .store v _ st => v == vd && p st.va
    | _ => false

/-- TINV of the translations that a predicate names: they are gone, the stores translated with them are performed, and the
thread is held while one of the commands that pinned them is still to end (R257). Once it is held it does nothing more:
translations that are made meanwhile stay. -/
def invalidate (id : Nat) (t : Task) (gone : TlbEntry → Bool) (within : Nat → Bool) : Act Done := do
  let s ← get
  match t.tinv with
  | some ids =>
    if s.pinners.any fun c => c.id ∈ ids then throw (.over s)
    set (s.modTask id fun t => { t with tinv := none })
    return {}
  | none =>
    let ids := (s.pinners.filter fun c => c.pins.any gone).map fun c => c.id
    let s := (s.forget gone).performWhere t.vd within
    if ids.isEmpty then
      set s
      return {}
    else throw (.over (s.modTask id fun t => { t with tinv := some ids }))

def execTinv (a : GReg) (s : State) : Result :=
  run (.tinv a) (fun id t v => do
    let va := (v.getD 0 0).toNat
    let z := pageSize ((← get).pageAround t.vd va)
    invalidate id t (fun x => x.vd = t.vd && (x.vpn * pageSize x.level) / z == va / z)
      (fun w => w / z == va / z)) s

def execTinvAll (s : State) : Result :=
  run .tinvAll (fun id t _ => invalidate id t (fun x => x.vd = t.vd) (fun _ => true)) s

/-! ### SLEEP (R424) -/

def execSleep (a : GReg) (s : State) : Result :=
  run (.sleep a) (fun id t v => do
    let n := (v.getD 0 0).toNat
    let s ← get
    if n = 0 then return {}
    else if n < 1024 then
      set (s.modTask id fun t => { t with heldTill := s.masterAt t.last.tile + n })
      return {}
    else if t.delivered then throw .doomed
    else
      let s := s.modTask id fun t =>
        { t.unkeep with ctx := { t.ctx.clearLatches [a] with pc := t.ctx.pc + 4 }, woke := none, fault := none }
      throw (.over (s.park id (.sleep (s.cycles + n))))) s

end Sys2Proof.Machine
end

