-- ==== Sys2Proof/Machine/Idle.lean ====
section
/-! DEFINITION. Accesses of hosts and peers at their homes (spec/09 R216; spec/19 R330), idle collapse and wake (spec/18 R304
to R315; spec/07 R166; spec/23 R425). -/

namespace Sys2Proof.Machine

/-! ### Accesses from outside (R216, R308, R309, R330) -/

/-- The groups that hold the 64 KiB frame of a physical address. -/
def groupsOf (a : Nat) : List Nat :=
  let f := a / 65536 * 65536
  [f / Config.groupBytes, (f + 65535) / Config.groupBytes].dedup

/-- The pseudo-channels that hold it. -/
def channelsOf (a : Nat) : List Nat :=
  let f := a / 65536 * 65536
  [f / (3 * 10 ^ 9), (f + 65535) / (3 * 10 ^ 9)].dedup

/-- The device whose exclusive groups hold the frame of an address; those of the frames of a run of bytes. -/
def State.deviceOf (s : State) (a : Nat) : Option Nat :=
  (s.vds.find? fun v => (groupsOf a).any fun g => g ∈ v.2.exclusive).map (·.1)
def State.devicesOf (s : State) (a n : Nat) : List Nat :=
  ((s.deviceOf a).toList ++ (s.deviceOf (a + n - 1)).toList).dedup

/-- Devices with a task whose monitor a write to the address would wake. -/
def State.watchers (s : State) (a n : Nat) : List Nat :=
  (s.tasks.filterMap fun x => match x.2.status with
    | .blocked (.monitor b) => if b = a / 256 ∨ b = (a + n - 1) / 256 then some x.2.vd else none
    | _ => none).dedup

/-- Does an access write? -/
def AccessOp.writes : AccessOp → Bool
  | .load => false
  | _ => true

/-- What the location holds after an access that found `x` there; none where it writes nothing. -/
def accessResult (op : AccessOp) (bytes x : Nat) : Option Nat :=
  match op with
  | .load => none
  | .store v | .swap v => some v
  | .amoAdd v => some ((x + v) % 2 ^ (8 * bytes))
  | .cas e v => if x = e % 2 ^ (8 * bytes) then some v else none

/-- An access performed at its home, through the L2 for an address of HBM (R178, R216): the answer is 0 and the value found
there, or 1 where its data has an uncorrectable error. A store reads nothing. -/
def State.access (s : State) (a : MemAccess) : State :=
  let x := ofBytes (s.readKey a.addr a.bytes)
  let bad := (rangeLines a.addr a.bytes).any fun r => r.1 / 256 ∈ s.errored
  let plain : Bool := match a.op with
    | .store _ => true
    | _ => false
  let s := (rangeLines a.addr a.bytes).foldl (fun s r =>
    if r.1 < Config.hbmBytes then (s.l2Access r.1 r.2 0 (AccessOp.writes a.op)).1 else s) s
  if bad ∧ !plain then { s with response := [1] }
  else
    let s := match accessResult a.op a.bytes x with
      | some y => s.write (cellsAt a.addr (toBytes a.bytes y))
      | none => s
    { s with response := 0 :: if plain then [] else (List.range ((a.bytes + 7) / 8)).map fun i => BitVec.ofNat 64 (x / 2 ^ (64 * i)) }

/-- An access of a host or a peer to module memory is an event of each device that it is for or whose parked MWAIT it would
wake (R308); it is held, with the first of them that is not ACTIVE, until that is, else performed. -/
def State.outside (s : State) (a : MemAccess) : State :=
  let writes := (accessResult a.op a.bytes (ofBytes (s.readKey a.addr a.bytes))).isSome
  let all := (s.devicesOf a.addr a.bytes ++ if writes then s.watchers a.addr a.bytes else []).dedup
  match all.find? fun v => (s.vd v).pwr ≠ 0 with
  | some v =>
    match ((all.filter (· ≠ v)).foldl (fun s v => s.wakeEvent v) s).holdFor v (.access a) with
    | .inl s => { s with response := [] }
    | .inr s => s
  | none => (all.foldl (fun s v => s.wakeEvent v) s).access a

/-! ### Wake writes (R306, R307) -/

/-- Store a wake write's value to the mailbox's doubleword; an address that no writable page holds receives nothing. -/
def State.mailboxStore (s : State) (vd : Nat) (value : Word) : State :=
  let v := s.vd vd
  if v.mailbox = 0 ∨ Config.windowBase ≤ v.mailbox.toNat then s else
  match s.walk v.root v.mailbox.toNat with
  | .ok (e, level, _) =>
    if pteW e ∧ pteTier e ≠ 2 then s.writeDword (pteFrame e + v.mailbox.toNat % pageSize level) value else s
  | .error _ => s

/-- A wake write of a device. -/
def State.wakeWrite (s : State) (vd : Nat) (value : Word) : State :=
  match s.holdFor vd (.mailbox value) with
  | .inl s => s
  | .inr s => s.mailboxStore vd value

/-- Does a device answer at its control block? From the cycle that destroy begins, writes are ignored (R329). -/
def State.answers (s : State) (vd : Nat) : Bool := (look s.vds vd).isSome && !(s.vd vd).destroying

/-- WAKE: a host or peer writes the WAKE register. -/
def execWake (vd : Nat) (value : BitVec 64) (s : State) : Result :=
  event s (if s.answers vd then some ((s.modVd vd fun v => { v with wake := value }).wakeWrite vd value) else none)

/-- WAKETIME: a value that has passed already fires at once. -/
def execWaketime (vd : Nat) (value : BitVec 64) (s : State) : Result :=
  event s (
    if !s.answers vd then none
    else if value ≠ 0 ∧ value.toNat ≤ s.cycles then some ((s.modVd vd fun v => { v with waketime := 0 }).wakeWrite vd 0)
    else some (s.modVd vd fun v => { v with waketime := value }))

/-- WAKETIME_EXPIRY: the device timer fires. -/
def execWaketimeExpiry (vd : Nat) (s : State) : Result :=
  event s (
    let t := (s.vd vd).waketime
    if s.answers vd ∧ t ≠ 0 ∧ t.toNat ≤ s.cycles then
      some ((s.modVd vd fun v => { v with waketime := 0 }).wakeWrite vd 0)
    else none)

/-- IDLECTL: bit 32 permits collapse; a delay of 0 stores 1. -/
def execIdlectl (vd : Nat) (value : BitVec 64) (s : State) : Result :=
  event s (
    if !s.answers vd then none
    else some (s.modVd vd fun v => { v with
      idleEn := value.getLsbD 32, idleDelay := if bvBits value 31 0 = 0 then 1 else bvBits value 31 0 }))

/-- SLEEP_EXPIRY: a parked SLEEP reaches its wake cycle; while its device is collapsing or collapsed, that wakes the
device, and the task is READY once it is ACTIVE (R425). -/
def execSleepExpiry (t : Nat) (s : State) : Result :=
  event s (match s.task? t with
    | none => none
    | some x =>
      match x.status with
      | .blocked (.sleep till) =>
        if s.cycles < till then none
        else match (s.vd x.vd).pwr with
          | 0 => some (s.makeReady t none)
          | 1 | 2 => some (s.wakeEvent x.vd)
          | _ => none
      | _ => none)

/-! ### Collapse (R305, R310, R312) -/

/-- IDLE_COLLAPSE, once a device has been idle for its delay, counted in CYCLES as the model takes R4 here
(notes/assumptions/92.md): dispatch stops, and the notices that have not reached their tide are withdrawn (R166). -/
def execIdleCollapse (vd : Nat) (s : State) : Result :=
  event s (
    let v := s.vd vd
    match v.idleSince with
    | none => none
    | some since =>
      if v.pwr ≠ 0 ∨ !v.idleEn ∨ v.destroying ∨ s.cycles < since + v.idleDelay * 4096 ∨ !s.deviceIdle vd v then none
      else
        let s := s.modVd vd fun v => { v with pwr := 1, idleSince := none, decisions := [], collapseStep := 0 }
        some (v.rolemap.foldl (fun s x =>
          match x.2.notice with
          | none => s
          | some n =>
            if n.tide ≤ s.cycles then s
            else if x.2.state = 1 then s.withdraw vd x.1 6
            else (s.modEntry vd x.1 fun e => { e with notice := none, target := none }).endRecord vd n
                (noticeRecord 6 x.1 x.2.gen.toNat x.2.role x.2.role n.tide n.noticed none none none)) s))

/-! #### The collapse area (R309, R310) -/

/-- Storage entries of the frozen map on tiles below a logical tile: the place of its words in the collapse area. -/
def Vd.areaSlot (v : Vd) (lid : Nat) : Nat :=
  (v.frozen.filter fun x => x.2.role = 2 && !x.2.backed && x.1 < lid).length

/-- The collapse area's part of each group of a device, in 256-byte lines: where it begins, openly, with room for the future
table above it, and how many they are. Neither uses the first or the last 64 KiB, whose frames a neighbouring group may
share (R309). -/
def Vd.area (v : Vd) (vd : Nat) : Nat × Nat :=
  let share := (v.tileQuota * Config.storageBytes + 8 * 4096) / 256 / max v.exclusive.length 1 + 1
  (256 + Config.collapseBase vd % (Config.groupBytes / 256 - 512 - share - (v.futQuota / 4 + 1)), share)

/-- The address of a 256-byte line of the collapse area, which is striped across the device's groups line by line. -/
def Vd.areaLine (v : Vd) (vd i : Nat) : Nat :=
  let g := max v.exclusive.length 1
  (v.exclusive.getD (i % g) 0 * Config.groupBytes + 256 * ((v.area vd).1 + i / g)) / 256

/-- A line is copied, with its error, to another place. -/
def State.copyLine (s : State) (old new : Nat) : State :=
  let kept := s.errored.filter (· ≠ new)
  { s with mem := s.mem.replace (256 * new) 256 (s.mem.slice (256 * old) 256 (256 * new)),
           errored := if old ∈ s.errored then new :: kept else kept }

/-- The live lines of an entry go to the collapse area, or back from it to a place. -/
def State.toArea (s : State) (vd lid tile : Nat) (live : List Nat) : State :=
  let v := s.vd vd
  live.foldl (fun s i =>
    s.copyLine (sramKey tile (256 * i) / 256) (v.areaLine vd (v.areaSlot lid * (Config.storageBytes / 256) + i))) s
def State.fromArea (s : State) (vd lid place : Nat) (live : List Nat) : State :=
  let v := s.vd vd
  live.foldl (fun s i =>
    s.copyLine (v.areaLine vd (v.areaSlot lid * (Config.storageBytes / 256) + i)) (place / 256 + i)) s

/-- The frozen role map goes to the collapse area, behind the storage contents (R309), as the words that RLOOK reads, eight
bytes to an entry, by logical tile (notes/assumptions/52.md). -/
def State.freezeMap (s : State) (vd : Nat) : State :=
  let v := s.vd vd
  (List.range 128).foldl (fun s i =>
    let a := 256 * v.areaLine vd (v.tileQuota * (Config.storageBytes / 256) + i)
    { s with mem := s.mem.replace a 256 ((List.range 32).flatMap fun j =>
        cellsAt (a + 8 * j) (toBytes 8 (v.entry (32 * i + j)).word.toNat)) }) s

/-- Steps 2 and 6 for the tasks: windows and partitions are saved, and no task is bound to a core that will be gone. -/
def State.collapseTasks (s : State) (vd : Nat) : State :=
  s.tasks.foldl (fun s x =>
    match s.task? x.1 with
    | none => s
    | some t =>
      if t.vd ≠ vd then s else
      let s := s.release x.1 .system
      let holds := (t.window.any fun w => w.tile.isSome) ||
        s.tiles.any fun n => n.2.cores.toList.any fun c => c.owner = some x.1
      if holds then s.saveParked x.1 else s.modTask x.1 fun t => { t with bound := none }) s

/-- Steps 3, 4 and 6 for one entry: a storage tile's live lines go to the collapse area, the tile is gated and goes to the
pool; the entry is dark; one that a wake left dark stays as it is. A monitor armed on its words stays armed for the entry. -/
def State.collapseEntry (s : State) (vd lid : Nat) : State :=
  let e := s.entry vd lid
  if e.role = 0 ∨ e.state = 3 then s else
  let s := if e.backed then s else
    let live := (s.tile e.phys).live
    let s := if e.role = 2 then
        ((s.toArea vd lid e.phys live).moveArms (sramKey e.phys 0) (backedKey vd lid 0) (2 ^ 24)).modEntry vd lid fun e =>
          { e with live := live }
      else s
    s.toPool e.phys
  s.modEntry vd lid fun e => { e with state := 3, newrole := 0 }

/-- Does a 256-byte line lie in an exclusive group of a device? -/
def Vd.holdsLine (v : Vd) (line : Nat) : Bool := (groupsOf (256 * line)).any fun g => g ∈ v.exclusive

/-- Step 5: the L2 lines of the device's groups are written back and dropped. -/
def State.collapseL2 (s : State) (vd : Nat) : State :=
  ((s.l2.filter fun x => (s.vd vd).holdsLine x.line).map fun x => x.line).foldl State.l2Drop s

/-- The leaves of the page table below a node, each with its level. -/
def State.leavesAt (s : State) : Nat → Nat → List (Word × Nat)
  | 0, node => (List.range 32).filterMap fun i =>
      let e := s.dwordAt (node + 8 * i)
      if leafOk 0 e then some (e, 0) else none
  | l + 1, node => (List.range 512).flatMap fun i =>
      let e := s.dwordAt (node + 8 * i)
      if l + 1 ≤ 2 ∧ e.getLsbD 9 then (if leafOk (l + 1) e then [(e, l + 1)] else [])
      else if nodeOk e then s.leavesAt l (bvBits e 47 12 * 4096) else []

/-- Does a group hold a pinned page of a device (R170)? A frame that holds no page counts as free: the collapse area has some
in every group (notes/assumptions/80.md). -/
def State.pinnedGroup (s : State) (vd g : Nat) : Bool :=
  (s.leavesAt 4 (s.vd vd).root).any fun x =>
    pteP x.1 && pteTier x.1 ≠ 2 && pteFrame x.1 < (g + 1) * Config.groupBytes &&
      g * Config.groupBytes < pteFrame x.1 + pageSize x.2

/-- Where in flash the copy of a group lies. -/
def flashPlace (g : Nat) : Nat :=
  Config.flashBase + Config.flashCopy % ((Config.flashBytes - 128 * Config.groupBytes) / 65536 + 1) * 65536 +
    g * Config.groupBytes

/-- The bytes of one group's size are copied from one place to another. -/
def State.copyGroup (s : State) (old new : Nat) : State :=
  { s with mem := s.mem.replace new Config.groupBytes (s.mem.slice old Config.groupBytes new) }

/-- Steps 7 and 8: of class 3 each group without a pinned page is copied to the flash allowance and powered off; every other
group enters self-refresh, fast for class 1 and deep for the others (R315). No access reaches the bytes of a powered-off
group before they are refilled (R308, R314): the list of memory keeps them. -/
def State.groupsDown (s : State) (vd : Nat) : State :=
  let v := s.vd vd
  v.exclusive.foldl (fun s g =>
    let off := v.wakeClass = 3 && !s.pinnedGroup vd g
    let s := if off then s.copyGroup (g * Config.groupBytes) (flashPlace g) else s
    { s with groupPower := put s.groupPower g (if off then 3 else if v.wakeClass = 1 then 1 else 2) }) s

/-- The groups are on again: those that were powered off are refilled from flash into the same frames (R314). -/
def State.groupsUp (s : State) (vd : Nat) : State :=
  (s.vd vd).exclusive.foldl (fun s g =>
    let s := if look s.groupPower g = some 3 then s.copyGroup (flashPlace g) (g * Config.groupBytes) else s
    { s with groupPower := cut s.groupPower g }) s

/-- The tiles that wait for a collapsed device (R315): those it held, or for class 3 one of them, its lowest compute
tile. -/
def State.reserveOf (s : State) (vd : Nat) : List Nat :=
  let v := s.vd vd
  let held := (v.rolemap.filter fun x => x.2.role ≠ 0 && x.2.state ≠ 3 && !x.2.backed).map fun x => x.2.phys
  if v.wakeClass = 3 then ((s.litCompute vd).toList ++ held).take 1 else held

/-- COLLAPSE_COMPLETE: once every move in progress has completed, the steps of R310 to its last. A failing tile that is gated
leaves the pool, and another stands in for it in the reserve (R166, R315). -/
def execCollapseComplete (vd : Nat) (s : State) : Result :=
  event s (
    let v := s.vd vd
    if v.pwr ≠ 1 ∨ v.rolemap.any (fun x => x.2.state = 2 || x.2.notice.isSome) then none
    else
      let reserve := s.reserveOf vd
      let failing := (v.rolemap.filter fun x => x.2.role ≠ 0 && x.2.state ≠ 3 && !x.2.backed && (s.tile x.2.phys).failing).map
        fun x => x.2.phys
      let s := (s.modVd vd fun v => { v with pwr := 4 }).collapseTasks vd
      let s := (s.modVd vd fun v => { v with frozen := v.rolemap, reserve := reserve }).freezeMap vd
      let s := (v.rolemap.foldl (fun s x => s.collapseEntry vd x.1) s).collapseL2 vd
      let s := failing.foldl (fun s n => s.retire n) s
      some ((s.groupsDown vd).modVd vd fun v => { v with pwr := 2, ncoll := v.ncoll + 1 }))

/-! ### Wake (R314, R315, R470) -/

/-- Does an entry take a tile at a wake: a dark one, of class 3 only the first compute entry (R315)? -/
def Vd.takesTile (v : Vd) (first : Option Nat) (x : Nat × Entry) : Bool :=
  x.2.state = 3 && x.2.role ≠ 0 && !x.2.backed && (v.wakeClass ≠ 3 || first = some x.1)

/-- The tile an entry takes at a wake (R470): the one it held, where it is in the device's reserve or free; else what the last
item gives, of the tiles that no other entry takes back at this wake. -/
def State.wakeTile (s : State) (vd lid : Nat) (first : Option Nat) : Option Nat :=
  let e := s.entry vd lid
  if s.lendable vd e.phys then some e.phys
  else s.poolAmong vd ((s.poolTiles vd).filter fun n =>
    !((s.vd vd).rolemap.any fun x => x.1 ≠ lid && (s.vd vd).takesTile first x && x.2.phys = n))

/-- An entry is restored on a tile: the generation rises where the tile is another one; storage contents return. -/
def State.restoreEntry (s : State) (vd lid n : Nat) : State :=
  let e := s.entry vd lid
  let s := s.castTile n (some (vd, lid)) e.role
  let s := if e.role = 2 then
      ((s.fromArea vd lid (sramKey n 0) e.live).moveArms (backedKey vd lid 0) (sramKey n 0) (2 ^ 24)).modTile n fun t =>
        { t with live := e.live }
    else s
  s.modEntry vd lid fun e => { e with
    gen := if n = e.phys then e.gen else e.gen + 1, phys := n, state := 0, live := [] }

/-- A storage entry is restored as a backed one. -/
def State.restoreBacked (s : State) (vd lid : Nat) : State :=
  (s.fromArea vd lid (backedKey vd lid 0) (s.entry vd lid).live).modEntry vd lid fun e => { e with
    gen := e.gen + 1, phys := 0, backed := true, state := 0 }

/-- One dark entry at a wake; `first`: the one compute entry that a class 3 device takes a tile for. -/
def State.wakeEntry (s : State) (vd lid : Nat) (first : Option Nat) : State :=
  let e := s.entry vd lid
  let c3 := (s.vd vd).wakeClass = 3
  if e.state ≠ 3 then s
  else if e.backed then s.modEntry vd lid fun e => { e with state := 0 }
  else if e.role = 2 ∧ c3 then s.restoreBacked vd lid
  else if c3 ∧ first ≠ some lid then s
  else match s.wakeTile vd lid first with
    | some n => s.restoreEntry vd lid n
    | none => if e.role = 2 then s.restoreBacked vd lid else s

/-- A held item is made. -/
def State.makeHeld (s : State) (vd : Nat) : HeldItem → State
  | .mailbox x => s.mailboxStore vd x
  | .access a => s.outside a
  | .enqueue h x (some f) => s.enqueue vd h x f
  | .enqueue h x none =>
    match s.queue? vd h with
    | none => { s with response := [1] }
    | some q =>
      let (s, held) := s.push vd h q x (.peer 0)
      { s with response := if held then [] else [0] }
  | .event c mask => s.arrive vd c mask

/-- Is a held item answered? -/
def HeldItem.answered : HeldItem → Bool
  | .access _ | .enqueue _ _ none => true
  | _ => false

/-- Held items are made in order; their answers stand one after another. -/
def State.makeAll (s : State) (vd : Nat) : List HeldItem → State
  | [] => s
  | x :: r =>
    let a := s.makeHeld vd x
    let b := a.makeAll vd r
    if x.answered && r.any HeldItem.answered then { b with response := a.response ++ b.response } else b

/-- After a collapse the bits of every pending word are those of the cluster of the lowest compute logical tile (R364). -/
def State.gatherEvents (s : State) (vd : Nat) : State :=
  match s.litCompute vd with
  | none => s
  | some n =>
    let all := (s.vd vd).pending
    if all.isEmpty then s else
    (s.modVd vd fun v => { v with pending := [] }).setPending vd (clusterOf n) (all.foldl (fun b x => b ||| x.2) 0)

/-- Steps 2 and 4 of R314 after a collapse: tiles are cast back, the pending event bits move, and what was held is made;
tasks parked in EVWAIT run their test again (R366). -/
def State.resume (s : State) (vd : Nat) : State :=
  let v := s.vd vd
  let s := s.groupsUp vd
  let first := (smallest (fun (x : Nat × Entry) => x.1) (v.rolemap.filter fun x => x.2.role = 1 && x.2.state = 3)).map (·.1)
  let s := v.rolemap.foldl (fun s x => s.wakeEntry vd x.1 first) s
  let s := ((s.modVd vd fun v => { v with frozen := [], reserve := [] }).gatherEvents vd).migrateEvents vd
  s.wakeWhere (fun t w => t.vd = vd && match w with
    | .lines .. => true
    | _ => false) none

/-- An abort (R312): nothing has left its place but what a step past the sixth had gated, which is restored as it was, and
its groups are on again; the L1s and the TLBs are empty after the fourth step, its L2 lines are dropped after the fifth. -/
def State.abort (s : State) (vd : Nat) : State :=
  let step := (s.vd vd).collapseStep
  let mine (t : Tile) : Bool := t.owner.any fun o => o.1 = vd
  let s : State := if step < 4 then s else
    { s with tiles := s.tiles.map fun x => if mine x.2 then (x.1, { x.2 with l1 := [], tlb := [] }) else x }
  let s := if step < 5 then s else s.collapseL2 vd
  -- the acquire of the resumption
  { s.groupsUp vd with tiles := s.tiles.map fun x => if mine x.2 then (x.1, { x.2 with l1 := [] }) else x }

/-- WAKE_COMPLETE: what was restored is restored, what was held is made in order of arrival, and the device is ACTIVE. -/
def execWakeComplete (vd : Nat) (s : State) : Result :=
  event s (
    let v := s.vd vd
    if v.pwr ≠ 3 then none
    else
      let s := if v.collapseStep = 9 then s.resume vd else s.abort vd
      let s := s.modVd vd fun v => { v with heldItems := [], pwr := 0, collapseStep := 0, idleSince := none }
      some (((s.makeAll vd v.heldItems).modVd vd fun v => { v with idleSince := none }).migrateEvents vd))

end Sys2Proof.Machine
end

