-- ==== Sys2Proof/Machine/Power.lean ====
section
/-! DEFINITION. Power control (spec/18 R317 to R323) and freezing (spec/19 R336). -/

namespace Sys2Proof.Machine

/-! ### Patterns and reasons (R318, R319) -/

/-- The applied k: the smallest of the five patterns. -/
def Cluster.smallest (c : Cluster) : Nat := min c.current (min c.thermal (min c.slew (min c.cap c.reliability)))

/-- The reasons that are asserted, in the order of THROTTLE: thermal, current, slew, cap, reliability. -/
def Cluster.reasons (c : Cluster) : Nat :=
  let on (p bit : Nat) : Nat := if p < 16 ∧ p = c.applied then 2 ^ bit else 0
  on c.thermal 0 + on c.current 1 + on c.slew 2 + on c.cap 3 + on c.reliability 4

/-- THROTTLE with the live reasons of a new interval, or with more of them in the present one; sticky bits are set with
them (R320). -/
def Cluster.assert_ (c : Cluster) (fresh : Bool) : Cluster :=
  let now := c.reasons
  let live := if fresh then now else bvBits c.throttle 12 8 ||| now
  { c with throttle := BitVec.ofNat 13 (live * 256 + (bvBits c.throttle 4 0 ||| now)) }

def Cluster.live (c : Cluster) : Nat := bvBits c.throttle 12 8

/-- The clusters of a die. -/
def clustersOf (die : Nat) : List Nat := (List.range 64).map (64 * die + ·)

/-! ### Sensors (R321, R322) -/

/-- The clusters beside one in its die's 8 × 8 grid. -/
def beside (c : Nat) : List Nat :=
  let r := c % 64 / 8
  let k := c % 8
  (if r = 0 then [] else [c - 8]) ++ (if r = 7 then [] else [c + 8]) ++ (if k = 0 then [] else [c - 1]) ++
    (if k = 7 then [] else [c + 1])

/-- Insert into an ascending list. -/
def insertInt (x : Int) : List Int → List Int
  | [] => [x]
  | y :: r => if x ≤ y then x :: y :: r else y :: insertInt x r

/-- Twice the median of a list. -/
def median2 (l : List Int) : Int :=
  let s := l.foldl (fun r x => insertInt x r) []
  let n := s.length
  if n = 0 then 0 else s.getD ((n - 1) / 2) 0 + s.getD (n / 2) 0

/-- A sensor's raw code: 0 and 1 are the temperature sensors, 2 and 3 the current sensors. -/
def SensorReading.raw (r : SensorReading) (i : Nat) : Nat := [r.rawT.1, r.rawT.2, r.rawI.1, r.rawI.2].getD i 0

/-- How long each raw code has stood, in samples, and whether the power has moved since: after a sample, which comes `n`
times. -/
def Sensors.stand (x : Sensors) (n : Nat) (r : SensorReading) : Sensors :=
  let fresh (i : Nat) : Bool := SensorReading.raw r i ≠ x.raw.toList.getD i 0
  let far (b : Nat) : Bool := b < 10 * (max b r.power - min b r.power)
  { x with
    raw := Vector.ofFn fun (i : Fin 4) => SensorReading.raw r i
    same := Vector.ofFn fun (i : Fin 4) => if fresh i then n else x.same[i] + n
    base := Vector.ofFn fun (i : Fin 4) => if fresh i then r.power else x.base[i]
    moved := Vector.ofFn fun (i : Fin 4) => if fresh i then false else x.moved[i] || far x.base[i] }

/-- `n` samples; of fewer readings the last one stands for the rest. -/
def Sensors.standAll (x : Sensors) (n : Nat) : List SensorReading → Sensors
  | [] => x
  | [r] => x.stand n r
  | r :: l => (x.stand 1 r).standAll (n - 1) l

/-- What a cluster's sensors give under some marks: none where both are suspect. -/
def tempUnder (bad : Nat → Bool) (r : SensorReading) : Option Int :=
  if !bad 0 then some r.temp.1 else if !bad 1 then some r.temp.2 else none
def ampsUnder (bad : Nat → Bool) (r : SensorReading) : Option Nat :=
  if !bad 2 then some r.amps.1 else if !bad 3 then some r.amps.2 else none

/-- Does a sensor fail the checks that need no other cluster: has its code stood for 256 samples while the power moved, did
it read out of its range at a sample? -/
def Sensors.failsAlone (x : Sensors) (rs : List SensorReading) (i : Nat) : Bool :=
  (256 ≤ x.same.toList.getD i 0 && x.moved.toList.getD i false) ||
  (i < 2 && rs.any fun r =>
    let t := if i = 0 then r.temp.1 else r.temp.2
    t < -320 || t > 2400)

/-- Does a temperature sensor read more than 12 °C from the median of the clusters beside its own? `med2`: twice that, in
1/16 °C. -/
def failsBeside (rs : List SensorReading) (med2 : Int) (i : Nat) : Bool :=
  i < 2 && rs.any fun r => (2 * (if i = 0 then r.temp.1 else r.temp.2) - med2).natAbs > 2 * 192

/-- The marks after the checks: a suspect sensor is trusted again once it has been re-calibrated and has passed for 16
intervals. -/
def Sensors.check (x : Sensors) (bad : Nat → Bool) : Sensors :=
  let run (i : Fin 4) : Nat := if bad i || !x.recal[i] then 0 else x.passed[i] + 1
  let cured (i : Fin 4) : Bool := x.suspect[i] && run i = 16
  { x with
    suspect := Vector.ofFn fun (i : Fin 4) => bad i || (x.suspect[i] && !cured i)
    passed := Vector.ofFn fun (i : Fin 4) => if cured i then 0 else run i
    recal := Vector.ofFn fun (i : Fin 4) => x.recal[i] && !cured i && !(bad i && !x.suspect[i]) }

/-- Is a sensor suspect? -/
def Sensors.isSuspect (x : Sensors) (i : Nat) : Bool := x.suspect.toList.getD i false

/-! ### The interval boundary (R317 to R323) -/

/-- The requests that the management plane applies; no byte of the new interval is granted yet. -/
def Cluster.apply (c : Cluster) : Cluster :=
  { c with budget := c.reqBudget.getD c.budget, pctl := c.reqPctl.getD c.pctl, reqBudget := none, reqPctl := none,
           granted := 0, first := none, limit := none }

/-- The current, thermal and slew controls lower the byte budget of a cluster with its pulse pattern (R26), for the interval
that begins (R28, R29): to what is open. BUDGET and the budget field of a telemetry record show the budget that was set, not
the lowered one: which they show is the model's choice (notes/assumptions/81.md). -/
def Cluster.lowered (c : Cluster) (draw : Nat) : Cluster :=
  if c.live % 8 = 0 then c else
  { c with limit := some (Config.choose draw % (if c.budget = 0xFFFFFF then 2 ^ 32 else 256 * c.budget.toNat + 1)) }

/-- The patterns of a new interval. -/
def Cluster.step (c : Cluster) (dieHigh : Bool) : Cluster :=
  let t := c.sensors.usedT
  let both := (c.sensors.suspect[0] && c.sensors.suspect[1]) || (c.sensors.suspect[2] && c.sensors.suspect[3])
  let c := { c with
    current := if dieHigh then c.current else min 16 (c.current + 1)
    thermal := if 1920 ≤ t then 4 else if 1760 ≤ t then max 1 (c.thermal - 1) else if 1680 ≤ t then c.thermal
      else min 16 (c.thermal + 1)
    slew := min 16 (c.applied + 2)
    cap := c.pctl.toNat + 1
    reliability := if both then 12 else 16 }
  { c with applied := c.smallest }

/-- A telemetry record of the interval that has ended: `c` as it stood, `u` with the readings used. -/
def telemetryRecord (time n : Nat) (c : Cluster) (u : Sensors) (boost : Bool) (r : SensorReading) : List Nat :=
  let subst := (if u.suspect[0] && !u.substT then 8 else 0) + (if u.substT then 4 else 0) +
    (if u.suspect[2] && !u.substI then 2 else 0) + (if u.substI then 1 else 0)
  [ time,
    n * 2 ^ 56 + c.live * 2 ^ 51 + (c.applied - 1) * 2 ^ 47 + (if boost then 2 ^ 46 else 0) + subst * 2 ^ 42 +
      (BitVec.ofInt 16 u.usedT).toNat * 2 ^ 16 + u.usedI % 2 ^ 16,
    c.budget.toNat * 2 ^ 40 + c.granted / 256 % 2 ^ 24 * 2 ^ 16 + r.power % 2 ^ 16,
    (r.rawT.1 % 2 ^ 16) * 2 ^ 48 + (r.rawT.2 % 2 ^ 16) * 2 ^ 32 ]

/-- Write a record to the telemetry ring, or count it as dropped. -/
def State.telemetry (s : State) (l : List Nat) : State :=
  let b := s.telemetryBase
  let prod := (s.dwordAt b).toNat
  let cons := (s.dwordAt (b + 8)).toNat
  let k := 2 ^ s.telemetryK
  if k ≤ (prod + 2 ^ 64 - cons) % 2 ^ 64 then s.writeDword (b + 0x18) (s.dwordAt (b + 0x18) + 1)
  else
    let s := s.write (cellsAt (b + 64 + 32 * (prod % k)) (l.flatMap (toBytes 8)))
    s.writeDword b (BitVec.ofNat 64 (prod + 1))

/-- The samples of one cluster in an interval, in their order; none given reads as it did. -/
def readingsOf (rs : List SensorReading) (n : Nat) (x : Sensors) : List SensorReading :=
  match rs.filter fun r => r.cluster = n with
  | [] => [{ cluster := n, rawT := (x.raw[0], x.raw[1]), temp := (x.usedT, x.usedT), rawI := (x.raw[2], x.raw[3]),
             amps := (x.usedI, x.usedI), power := 0 }]
  | l => l

/-- The sample of the boundary. -/
def readingOf (rs : List SensorReading) (n : Nat) (x : Sensors) : SensorReading :=
  (readingsOf rs n x).getLast?.getD
    { cluster := n, rawT := (0, 0), temp := (x.usedT, x.usedT), rawI := (0, 0), amps := (x.usedI, x.usedI), power := 0 }

/-- The largest of a list of whole numbers, or a start. -/
def largest (l : List Int) (start : Int) : Int := l.foldl max start

/-- The temperatures of a cluster's neighbours under some marks; of one whose both sensors are suspect, the temperature that
it used last. -/
def nearTemps (old : Nat → Sensors) (rs : List SensorReading) (bad : Nat → Nat → Bool) (n : Nat) : List Int :=
  (beside n).map fun m => (tempUnder (bad m) (readingOf rs m (old m))).getD (old m).usedT

/-- The readings of the samples that a cluster's sensors have taken since the last boundary, one every 256 master cycles of
their die (R4, R321). -/
def State.sampledBy (s : State) (rs : List SensorReading) (n : Nat) : List SensorReading × Nat :=
  let d := s.dies.toList.getD (n / 64) {}
  let l := readingsOf rs n (s.cluster n).sensors
  let due := d.master / 256 - d.sensed
  (l.drop (l.length - due), due)

/-- Every cluster's sensors after a boundary: the checks of R321, then the readings used, or what stands in for them (R322).
The check against the neighbours takes their temperatures under the marks that the other checks leave
(notes/assumptions/51.md). -/
def State.senses (s : State) (rs : List SensorReading) : List (Nat × Sensors) :=
  let old (n : Nat) : Sensors := (s.cluster n).sensors
  let all := List.range 256
  -- after the samples, with what fails alone
  let alone := all.map fun n =>
    let (l, due) := s.sampledBy rs n
    let x := (old n).standAll due l
    (x, (List.range 4).map fun i => x.failsAlone l i)
  let badAlone (n i : Nat) : Bool := ((alone.getD n ({}, [])).2.getD i false) || (old n).isSuspect i
  let checked := (all.zip alone).map fun (n, x, b) =>
    let l := (s.sampledBy rs n).1
    let med2 := median2 (nearTemps old rs badAlone n)
    x.check fun i => b.getD i false || failsBeside l med2 i
  let bad (n i : Nat) : Bool := (checked.getD n {}).isSuspect i
  let amps := all.map fun n => ampsUnder (bad n) (readingOf rs n (old n))
  (all.zip checked).map fun (n, x) =>
    let r := readingOf rs n (old n)
    let near := nearTemps old rs bad n
    let others := (clustersOf (n / 64)).filterMap fun m => (amps.getD m none)
    (n, { x with
      usedT := (tempUnder (bad n) r).getD (largest near.tail (near.headD 0) + 128)
      substT := (tempUnder (bad n) r).isNone
      usedI := (ampsUnder (bad n) r).getD (others.foldl max 0)
      substI := (ampsUnder (bad n) r).isNone })

/-- POWER_INTERVAL: requests are applied, sensors checked, telemetry written, the patterns of the new interval set, and
boost granted or not. -/
def execPowerInterval (rs : List SensorReading) (s : State) : Result :=
  event s (
    if s.cycles / Config.interval ≤ s.clock.interval then none else
    let n := s.clock.interval + 1
    let s : State := { s with clock := { s.clock with interval := n } }
    let senses := s.senses rs
    let records := senses.filterMap fun x =>
      let c := s.cluster x.1
      let boost : Bool := (s.dies.toList.getD (x.1 / 64) {}).boosted
      if n % 2 ^ c.teleper.toNat = 0 then
        some (telemetryRecord (n * Config.interval) x.1 c x.2 boost (readingOf rs x.1 c.sensors))
      else none
    let s := records.foldl State.telemetry s
    let peak (c : Nat) : Bool := 2850 ≤ (s.dies.toList.getD (c / 64) {}).peak
    let clusters := senses.map fun x =>
      (x.1, (((({ (s.cluster x.1).apply with sensors := x.2 } : Cluster).step (peak x.1)).assert_ true).lowered (s.draws + x.1)))
    let s := { s with clusters := clusters, draws := s.draws + 256 }
    let grant (d : Nat) (x : Die) : Die :=
      let req := x.reqDiectl.getD x.boostReq
      { x with boostReq := req, reqDiectl := none, peak := 0, sensed := x.master / 256,
               boosted := req && (clustersOf d).all fun c => (s.cluster c).live = 0 }
    some { s with dies := Vector.ofFn fun (i : Fin 4) => grant i s.dies[i] })

/-- CURRENT_SAMPLE: a sample of a die's core rail, one every 256 cycles of the die's master clock (R4); at 2,950 A and above
the current pattern of every cluster of the die falls by 4, at most once in 1,024 cycles. A reason that it asserts ends the
boost. -/
def execCurrentSample (die amps : Nat) (s : State) : Result :=
  event s (
    if h : die < 4 then
      let x := s.dies[die]
      if x.master / 256 ≤ x.sampled then none else
      let lower := 2950 ≤ amps && (match x.lowered with
        | some c => decide (c + 1024 ≤ x.master)
        | none => true)
      let f (c : Cluster) : Cluster :=
        let c := if lower then { c with current := max 1 (c.current - 4) } else c
        ({ c with applied := min c.applied c.current } : Cluster).assert_ false
      let s := (clustersOf die).foldl (fun s c => s.modCluster c f) s
      let quiet := (clustersOf die).all fun c => (s.cluster c).live = 0
      let x := { x with sampled := x.sampled + 1, peak := max x.peak amps, boosted := x.boosted && quiet,
                        lowered := if lower then some x.master else x.lowered }
      some { s with dies := s.dies.set die x }
    else none)

/-! ### The power registers (R320, R325) -/

/-- A register of a cluster. -/
def State.onCluster (s : State) (c : Nat) (f : Cluster → Cluster) : Option State :=
  if c < 256 then some (s.modCluster c f) else none

/-- BUDGET and PCTL are requests that the next boundary applies. -/
def execBudget (cluster : Nat) (value : BitVec 64) (s : State) : Result :=
  event s (s.onCluster cluster fun c => { c with reqBudget := some (value.setWidth 24) })

def execPctl (cluster : Nat) (value : BitVec 64) (s : State) : Result :=
  event s (s.onCluster cluster fun c => { c with reqPctl := some (value.setWidth 4) })

def execDieCtl (die : Nat) (value : BitVec 64) (s : State) : Result :=
  event s (if h : die < 4 then
      some { s with dies := s.dies.set die { s.dies[die] with reqDiectl := some (value.getLsbD 0) } }
    else none)

/-- THROTTLE: a 1 clears a sticky bit. -/
def execThrottle (cluster : Nat) (value : BitVec 64) (s : State) : Result :=
  event s (s.onCluster cluster fun c => { c with throttle := c.throttle &&& ~~~(value.setWidth 13 &&& 0x1F) })

/-- TELEPER: 17 to 31 store 16. -/
def execTeleper (cluster : Nat) (value : BitVec 64) (s : State) : Result :=
  event s (s.onCluster cluster fun c => { c with teleper := BitVec.ofNat 5 (min 16 (bvBits value 4 0)) })

/-- SENSOR_RECALIBRATION: a sensor is re-calibrated in place; a suspect one begins to be trusted again. -/
def execSensorRecalibration (cluster sensor : Nat) (s : State) : Result :=
  event s (if 4 ≤ sensor then none else s.onCluster cluster fun c => { c with sensors := { c.sensors with
    recal := c.sensors.recal.setIfInBounds sensor true, passed := c.sensors.passed.setIfInBounds sensor 0 } })

/-! ### Freezing (R336) -/

def execFreeze (s : State) : Result := .next { s with freeze := true }

/-- UNFREEZE: the clocks go on; no state has changed. -/
def execUnfreeze (s : State) : Result := .next { s with freeze := false }

end Sys2Proof.Machine
end

