-- ==== Sys2Proof/Machine/Host.lean ====
section
/-! DEFINITION. The host region, virtual devices created and destroyed, and module memory over CXL.mem and from peers
(spec/19 R324 to R332; spec/18 R309, R316; spec/03 R83; R471). -/

namespace Sys2Proof.Machine

/-- What an access from outside is answered: done, an error response, a completer abort. -/
def answerOk : List Word := [0]
def answerError : List Word := [1]
def answerAbort : List Word := [2]

/-! ### Semaphores (R326) -/

/-- A write of a port to a semaphore: its own code claims a free one, 0 frees its own, every other is ignored. Only the
owner field, bits 1:0, takes part (R7). -/
def State.semWrite (s : State) (port sem value : Nat) : State :=
  let own := (s.sems.toList.getD sem 0).toNat
  if port < 2 ∧ sem < 32 then
    if value % 4 = port + 1 ∧ own = 0 then { s with sems := s.sems.setIfInBounds sem (BitVec.ofNat 2 (port + 1)) }
    else if value % 4 = 0 ∧ own = port + 1 then { s with sems := s.sems.setIfInBounds sem 0 }
    else s
  else s

def execSemClaim (port sem : Nat) (s : State) : Result := .next (s.semWrite port sem (port + 1))

def execSemFree (port sem : Nat) (s : State) : Result := .next (s.semWrite port sem 0)

/-- HOST_LINK_DOWN: every semaphore of the port is free. -/
def execHostLinkDown (port : Nat) (s : State) : Result :=
  .next { s with sems := s.sems.map fun x => if x.toNat = port + 1 then 0 else x }

/-! ### Create (R328, R471, R316) -/

/-- The translations of the pages of a ring, level by level; none where a page has no writable leaf of tier 00 or 01. -/
def State.ringPins (s : State) (vd root fin : Nat) : Nat → Nat → Option (List TlbEntry)
  | 0, _ => some []
  | n + 1, va =>
    if fin ≤ va then some [] else
    match s.walk root va with
    | .ok (e, level, pte) =>
      if pteW e ∧ pteTier e < 2 then
        (s.ringPins vd root fin n ((va / pageSize level + 1) * pageSize level)).map fun l =>
          { vd := vd, vpn := va / pageSize level, level := level, leaf := e, pte := pte } :: l
      else none
    | .error _ => none

/-- Does an object lie below the windows, aligned? -/
def placed (va align size : Nat) : Bool := va % align == 0 && va + size ≤ Config.windowBase

def noticeBytes : Nat := 64 + 256 * 32
def faultBytes (k : Nat) : Nat := 64 + 2 ^ k * 32

/-- Is every parameter in its range (R83, R328)? -/
def inRange (r : CmdRecord) : Bool :=
  !r.reserved && r.vd < 64 && 1 ≤ r.wakeClass && r.wakeClass ≤ 3 && 1 ≤ r.weight && r.weight < 256 &&
  1 ≤ r.tileQuota && r.tileQuota ≤ 1024 && r.groups < 128 && r.hbmQuota * 2 ^ 30 ≤ Config.hbmBytes &&
  256 ≤ r.futQuota && r.futQuota ≤ 2 ^ 24 && r.flash ≤ Config.flashBytes &&
  r.root % 4096 == 0 && r.root + 4096 ≤ Config.hbmBytes && r.ctxBase + r.ctxSize ≤ Config.hbmBytes &&
  8 ≤ r.faultK && r.faultK ≤ 16 && placed r.noticeRing 64 noticeBytes && placed r.faultRing 64 (faultBytes r.faultK) &&
  placed r.regionTable 32 256

/-- The bytes that a wake restores, and the sum of flash bandwidths of class 3, as fractions of bytes per second. -/
def restoreBytes (quota : Nat) : Nat := quota * Config.storageBytes

/-- b of a class 3 device as a fraction: F ÷ (59.78 ms − S ÷ (G × 450 GB/s)); none where it is not above zero. -/
def flashRate (flash quota groups : Nat) : Option (Nat × Nat) :=
  let room := 26901000000 * groups
  if restoreBytes quota < room ∧ 0 < flash then
    some (flash * 450 * 10 ^ 9 * groups, room - restoreBytes quota)
  else none

/-- Is a sum of fractions at most a bound? -/
def fractionsWithin (l : List (Nat × Nat)) (bound : Nat) : Bool :=
  let sum := l.foldl (fun (a : Nat × Nat) b => (a.1 * b.2 + b.1 * a.2, a.2 * b.2)) (0, 1)
  sum.1 ≤ bound * sum.2

/-- Groups none of whose pseudo-channels is retired. -/
def State.soundGroups (s : State) : List Nat :=
  (List.range 128).filter fun g => !((List.range 4).any fun i => (4 * g + i) ∈ s.retired)

/-- The admission tests of R316. -/
def State.admits (s : State) (r : CmdRecord) : Bool :=
  let devices := s.vds.map (·.2)
  let tiles := (devices.map fun v => if v.wakeClass = 3 then 1 else v.tileQuota).sum +
    (if r.wakeClass = 3 then 1 else r.tileQuota)
  let groups := (devices.map fun v => v.exclusive.length).sum + r.groups
  let free := s.soundGroups.filter fun g => !(devices.any fun v => g ∈ v.exclusive)
  let own := flashRate r.flash r.tileQuota r.groups
  let rates := devices.filterMap fun v =>
    if v.wakeClass = 3 then flashRate v.flash v.tileQuota v.exclusive.length else none
  tiles ≤ s.soundTiles && groups ≤ s.soundGroups.length && 1 ≤ r.groups && r.groups ≤ free.length &&
  (match r.wakeClass with
   | 1 => restoreBytes r.tileQuota ≤ 101250000 * r.groups
   | 2 => restoreBytes r.tileQuota ≤ 1026000000 * r.groups
   | _ => match own with
     | some b => fractionsWithin (b :: rates) (10 ^ 12)
     | none => false)

/-- What the control plane allocates from the HBM quota: the future table and the collapse area, which holds the storage
contents and the frozen role map. -/
def allocated (r : CmdRecord) : Nat := 64 * r.futQuota + restoreBytes r.tileQuota + 8 * 4096

/-- Where the future table of a new device lies: in one of its own groups, above the collapse area there and below the frame
that the next group may share (R309); where above is open. -/
def Vd.tablePlace (v : Vd) (vd : Nat) : Nat :=
  let (base, share) := v.area vd
  let start := 256 * (base + share)
  let g := v.exclusive.getD (Config.tableBase (vd + 64) % max v.exclusive.length 1) 0
  g * Config.groupBytes + start +
    64 * (Config.tableBase vd % ((Config.groupBytes - 65536 - start - 64 * v.futQuota) / 64 + 1))

/-- A new device: ACTIVE, with no tile. Its groups are the lowest free ones; its fault ring's header says how long the ring
is (R259). -/
def State.newDevice (s : State) (r : CmdRecord) (notice fault : List TlbEntry) : State :=
  let free := s.soundGroups.filter fun g => !(s.vds.any fun v => g ∈ v.2.exclusive)
  let v : Vd :=
    { root := r.root, tileQuota := r.tileQuota, hbmQuota := r.hbmQuota, spillQuota := r.spillQuota,
      futQuota := r.futQuota, weight := r.weight, wakeClass := r.wakeClass, exclusive := free.take r.groups,
      flash := r.flash, noticeRing := r.noticeRing, faultRing := r.faultRing, faultK := r.faultK,
      regionTable := r.regionTable, ctxBase := r.ctxBase, ctxSize := r.ctxSize,
      noticePins := notice, faultPins := fault, serial := s.serial }
  let v := { v with futBase := v.tablePlace r.vd }
  ({ s with vds := put s.vds r.vd v, serial := s.serial + 1 } : State).writeDword (v.faultKey 0x10) (BitVec.ofNat 64 r.faultK)

/-- Does the issuing port own the semaphore of a command? -/
def State.holdsSem (s : State) (port : Nat) (r : CmdRecord) : Bool :=
  r.sem < 32 && (s.sems.toList.getD r.sem 0).toNat = port + 1

/-- Create: the result of the command, and the state with the device where it is 2. -/
def State.create (s : State) (port : Nat) (r : CmdRecord) : Nat × State :=
  if !s.holdsSem port r then (6, s)
  else if !inRange r then (5, s)
  else if (look s.vds r.vd).isSome then (3, s)
  else
    let pins (va size : Nat) := s.ringPins r.vd r.root (va + size) (size / 65536 + 2) va
    match pins r.noticeRing noticeBytes, pins r.faultRing (faultBytes r.faultK) with
    | some a, some b =>
      if !s.admits r then (4, s)
      else if r.hbmQuota * 2 ^ 30 < allocated r then (8, s)
      else (2, s.newDevice r a b)
    | _, _ => (5, s)

/-- A command is accepted unless one runs (R327). -/
def State.beginCommand (s : State) (addr result : Nat) (dying : Option Nat) : State :=
  { s with cmdaddr := BitVec.ofNat 64 addr, cmdstat := 1, cmdresult := BitVec.ofNat 4 result, dying := dying }

/-- A create command is accepted, or one of an operation that is neither create nor destroy, which is out of range. -/
def State.startCreate (s : State) (port addr : Nat) (r : CmdRecord) : State :=
  if r.op ≠ 1 ∨ addr % 128 ≠ 0 then s.beginCommand addr 5 none
  else
    let (n, s) := s.create port r
    s.beginCommand addr n none

/-- CREATE. -/
def execCreate (port addr : Nat) (rec : CmdRecord) (s : State) : Result :=
  event s (if s.cmdstat = 1 ∨ 2 ≤ port ∨ rec.op = 2 then none else some (s.startCreate port addr rec))

/-! ### Destroy (R329) -/

/-- Every task of a device is stopped as a doomed one is (R135, R136): one that runs at its next reclamation point, one that
waits where it stands. -/
def State.stopDevice (s : State) (vd : Nat) : State :=
  { s with tasks := s.tasks.map fun x =>
      if x.2.vd ≠ vd then x else
      (x.1, { x.2 with doomed := true, delivered := true, status := match x.2.status with
        | .running p => .running p
        | .saving p => .stopping (some p)
        | .stopping p => .stopping p
        | .pending | .ready | .blocked _ => .stopping none }) }

/-- A destroy command is accepted. -/
def State.startDestroy (s : State) (port addr : Nat) (r : CmdRecord) : State :=
  if !s.holdsSem port r then s.beginCommand addr 6 none
  else if r.reserved ∨ addr % 128 ≠ 0 ∨ 64 ≤ r.vd then s.beginCommand addr 5 none
  else if (look s.vds r.vd).isNone then s.beginCommand addr 7 none
  else ((s.modVd r.vd fun v => { v with destroying := true }).stopDevice r.vd).beginCommand addr 2 (some r.vd)

/-- DESTROY: dispatch stops and every task is stopped; the device goes once all have been reclaimed and its started commands
have ended. -/
def execDestroy (port addr : Nat) (rec : CmdRecord) (s : State) : Result :=
  event s (if s.cmdstat = 1 ∨ 2 ≤ port ∨ rec.op ≠ 2 then none else some (s.startDestroy port addr rec))

/-- Does a task of a device still wait for its reclaim, or a started command run? -/
def State.deviceRuns (s : State) (vd : Nat) : Bool :=
  (s.tasks.any fun x => x.2.vd = vd && !x.2.torn) || s.tiles.any fun x => x.2.cores.toList.any fun c => c.cmds.any fun m => m.vd = vd && m.started

/-- Pushes of peers that a device's queues hold. -/
def Vd.peerPushes (v : Vd) : Nat :=
  (v.queues.map fun q => (q.2.held.filter fun h => match h.2 with
    | .peer _ => true
    | _ => false).length).sum

/-- What others wait for of a device that is gone: the pushes of peers and held enqueues are answered STALE (R329), held
accesses are performed. -/
def State.lastAnswers (s : State) (vd : Nat) (v : Vd) : State :=
  let l := v.heldItems.filter HeldItem.answered
  let s := s.makeAll vd l
  if v.peerPushes = 0 then s
  else { s with response := List.replicate v.peerPushes 1 ++ (if l.isEmpty then [] else s.response) }

/-- The end of a destroy: tasks, tiles with their banks cleared, backing pages, groups, packets and the device itself are
gone. -/
def State.removeDevice (s : State) (vd : Nat) : State :=
  let v := s.vd vd
  let s := s.groupsUp vd
  let s := s.tiles.foldl (fun s x =>
    if x.2.owner.any fun o => o.1 = vd then
      let s := s.toPool x.1
      if x.2.failing then s.retire x.1 else s
    else s) s
  let s : State := { s with
    tasks := s.tasks.filter fun x => x.2.vd ≠ vd
    vds := cut s.vds vd
    packets := s.packets.filter fun p => p.hdr.vd ≠ vd
    mem := s.mem.clear (backedKey vd 0 0) (2 ^ 36)
    errored := s.errored.filter fun k => k / 2 ^ 28 ≠ backedKey vd 0 0 / 2 ^ 36 }
  ({ s with l2 := s.l2.map fun x =>
      { x with pins := x.pins.filter fun n => s.commands.any fun c => c.id = n } } : State).lastAnswers vd v

/-- COMMAND_DONE: the command that runs is finished, and CMDSTAT says how. -/
def execCommandDone (s : State) : Result :=
  event s (
    if s.cmdstat ≠ 1 then none
    else match s.dying with
      | none => some { s with cmdstat := s.cmdresult }
      | some vd =>
        if s.deviceRuns vd then none
        else some { s.removeDevice vd with cmdstat := s.cmdresult, dying := none })

/-! ### The host region (R324, R325) -/

/-! #### The command record (R327, R328) -/

/-- A doubleword of host memory. -/
def State.hostDword (s : State) (a : Nat) : Word := BitVec.ofNat 64 (ofBytes (s.readKey (hostKey a) 8))

/-- The record that CMDADDR names. -/
def State.commandRecord (s : State) (a : Nat) : CmdRecord :=
  let d (off : Nat) : Word := s.hostDword (a + off)
  let unused : Word := (d 0 &&& ~~~0x1FFFFF) ||| (d 8 &&& ~~~0x7F07FFFF03) ||| (d 0x40 &&& 0x20) |||
    d 0x60 ||| d 0x68 ||| d 0x70 ||| d 0x78
  { op := bvBits (d 0) 7 0, vd := bvBits (d 0) 15 8, sem := bvBits (d 0) 20 16,
    wakeClass := bvBits (d 8) 1 0, weight := bvBits (d 8) 15 8, tileQuota := bvBits (d 8) 26 16, groups := bvBits (d 8) 38 32,
    hbmQuota := (d 0x10).toNat, spillQuota := (d 0x18).toNat, futQuota := (d 0x20).toNat, flash := (d 0x28).toNat,
    root := (d 0x30).toNat, noticeRing := (d 0x38).toNat, regionTable := (d 0x48).toNat,
    faultRing := (d 0x40).toNat / 64 * 64, faultK := bvBits (d 0x40) 4 0, ctxBase := (d 0x50).toNat, ctxSize := (d 0x58).toNat,
    reserved := unused ≠ 0 }

/-- A write of CMDADDR: ignored while a command runs, else it starts the command whose record stands there. -/
def State.commandWrite (s : State) (port : Nat) (value : Word) : State :=
  if s.cmdstat = 1 then s else
  let r := s.commandRecord value.toNat
  if r.op = 2 then s.startDestroy port value.toNat r else s.startCreate port value.toNat r

/-! #### Control blocks (R306) -/

/-- A write to a register of a control block; none where no register is listed. A device that does not answer ignores it. -/
def State.blockWrite (s : State) (vd off : Nat) (value : Word) : Option State :=
  let take (r : Result) : Option State := match r with
    | .next t => some t
    | _ => some s
  if off = 0 then take (execWake vd value s)
  else if off = 8 then take (execWaketime vd value s)
  else if off = 0x10 then take (execIdlectl vd value s)
  else if off = 0x18 then some s
  else if off = 0x20 then
    some (if s.answers vd then s.modVd vd fun v => { v with mailbox := value &&& ~~~7 } else s)
  else none

/-- PWRSTAT. -/
def Vd.pwrstat (v : Vd) : Word :=
  BitVec.ofNat 64 (v.ncoll.toNat * 2 ^ 24 + v.exclusive.length % 256 * 2 ^ 16 + (if v.degraded then 16 else 0) +
    v.wakeClass * 4 + v.pwr)

/-- What a register of a control block reads as; none where no register is listed. -/
def Vd.block (v : Vd) (off : Nat) : Option Word :=
  if off = 0 then some v.wake
  else if off = 8 then some v.waketime
  else if off = 0x10 then some (BitVec.ofNat 64 ((if v.idleEn then 2 ^ 32 else 0) + v.idleDelay))
  else if off = 0x18 then some v.pwrstat
  else if off = 0x20 then some v.mailbox
  else none

/-! #### The management window (R325) -/

/-- A register of the management window. -/
inductive WindowReg where
  | freeze | telebase
  | diectl (die : Fin 4)
  | budget (c : Nat) | pctl (c : Nat) | throttle (c : Nat) | teleper (c : Nat)
  /-- a counter of a stop's class and direction: 0 forwarded, 1 refused, 2 full -/
  | counter (stop key which : Nat)
  | shifts (stop : Nat) | peak (stop : Nat)
  deriving DecidableEq, Repr

/-- The register at an offset of the window. -/
def windowReg (off : Nat) : Option WindowReg :=
  if off = 0 then some .freeze
  else if h : 0x1000 ≤ off ∧ off < 0x1020 then some (.diectl ⟨(off - 0x1000) / 8, by omega⟩)
  else if off = 0x2000 then some .telebase
  else if 0x10000 ≤ off ∧ off < 0x10000 + 0x40 * 256 then
    let c := (off - 0x10000) / 0x40
    match (off - 0x10000) % 0x40 with
    | 0 => some (.budget c)
    | 8 => some (.pctl c)
    | 0x10 => some (.throttle c)
    | 0x18 => some (.teleper c)
    | _ => none
  else if 0x100000 ≤ off ∧ off < 0x100000 + 0x400 * 1024 then
    let stop := (off - 0x100000) / 0x400
    let o := (off - 0x100000) % 0x400
    if o < 0xC0 then some (.counter stop (o / 0x18) (o % 0x18 / 8))
    else if o = 0x100 then some (.shifts stop)
    else if o = 0x108 then some (.peak stop)
    else none
  else none

def State.windowRead (s : State) : WindowReg → Word
  | .freeze => if s.freeze then 1 else 0
  | .telebase => BitVec.ofNat 64 s.telemetryBase
  | .diectl d => if s.dies[d].boostReq then 1 else 0
  | .budget c => (s.cluster c).budget.setWidth 64
  | .pctl c => (s.cluster c).pctl.setWidth 64
  | .throttle c => (s.cluster c).throttle.setWidth 64
  | .teleper c => (s.cluster c).teleper.setWidth 64
  | .counter n key which =>
    let x := s.stop n
    BitVec.ofNat 64 ((look (if which = 0 then x.forwarded else if which = 1 then x.refused else x.full) key).getD 0)
  | .shifts n => BitVec.ofNat 64 (s.dies.toList.getD (dieOf n) {}).shifts
  | .peak n => BitVec.ofNat 64 (s.stop n).peak

/-- A write to the window: to what is read only, it is ignored. -/
def State.windowWrite (s : State) (value : Word) : WindowReg → State
  | .freeze => { s with freeze := value.getLsbD 0 }
  | .diectl d => { s with dies := s.dies.set d { s.dies[d] with reqDiectl := some (value.getLsbD 0) } }
  | .budget c => s.modCluster c fun x => { x with reqBudget := some (value.setWidth 24) }
  | .pctl c => s.modCluster c fun x => { x with reqPctl := some (value.setWidth 4) }
  | .throttle c => s.modCluster c fun x => { x with throttle := x.throttle &&& ~~~(value.setWidth 13 &&& 0x1F) }
  | .teleper c => s.modCluster c fun x => { x with teleper := BitVec.ofNat 5 (min 16 (bvBits value 4 0)) }
  | .telebase | .counter .. | .shifts _ | .peak _ => s

/-! #### Accesses -/

/-- The control block and the offset in it of an offset of the host region. -/
def blockAt (offset : Nat) : Option (Nat × Nat) :=
  if 0x10000 ≤ offset ∧ offset < 0x10000 + 0x1000 * 64 then some ((offset - 0x10000) / 0x1000, offset % 0x1000) else none

/-- A write to the host region; none where it is aborted: what is not an aligned doubleword, or not listed. -/
def State.regionWrite (s : State) (port offset bytes : Nat) (value : Word) : Option State :=
  if bytes ≠ 8 ∨ offset % 8 ≠ 0 then none
  else if offset < 0x100 then some (s.semWrite port (offset / 8) value.toNat)
  else if offset = 0x1000 then some (if port < 2 then s.commandWrite port value else s)
  else if offset = 0x1008 then some s
  else if 0x1000000 ≤ offset ∧ offset < 0x2000000 then (windowReg (offset - 0x1000000)).map (s.windowWrite value)
  else (blockAt offset).bind fun b => s.blockWrite b.1 b.2 value

/-- What a read of the host region gives; none where it is aborted. The block of a device that does not exist gives open
values. -/
def State.regionRead (s : State) (offset bytes : Nat) : Option Word :=
  if bytes ≠ 8 ∨ offset % 8 ≠ 0 then none
  else if offset < 0x100 then some ((s.sems.toList.getD (offset / 8) 0).setWidth 64)
  else if offset = 0x1000 then some s.cmdaddr
  else if offset = 0x1008 then some (s.cmdstat.setWidth 64)
  else if 0x1000000 ≤ offset ∧ offset < 0x2000000 then (windowReg (offset - 0x1000000)).map s.windowRead
  else (blockAt offset).bind fun b =>
    ((s.vd b.1).block b.2).map fun x => if (look s.vds b.1).isSome then x else Config.free s.draws

/-- HOST_REGION_WRITE. -/
def execHostRegionWrite (port offset bytes : Nat) (value : BitVec 64) (s : State) : Result :=
  match s.regionWrite port offset bytes value with
  | some t => .next { t with response := answerOk }
  | none => .next { s with response := answerAbort }

/-- A read of the host region through a host port, or of a control block by a peer. -/
def State.hostRead (s : State) (port offset bytes : Nat) : State :=
  match (if port < 2 ∨ (blockAt offset).isSome then s.regionRead offset bytes else none) with
  | some x => { s with response := [0, x], draws := s.draws + 1 }
  | none => { s with response := answerAbort }

/-- A write of a control block by a peer, through a window that system software maps (R306). -/
def State.peerWrite (s : State) (offset bytes : Nat) (value : Word) : State :=
  match (if bytes = 8 ∧ offset % 8 = 0 then (blockAt offset).bind fun b => s.blockWrite b.1 b.2 value else none) with
  | some t => { t with response := answerOk }
  | none => { s with response := answerAbort }

/-- Does a write resume the clocks (R336)? -/
def resumes (offset bytes : Nat) (value : Word) : Bool := offset = 0x1000000 && bytes = 8 && !value.getLsbD 0

/-- Writes of both host ports that arrive in one cycle: that of port 0 first (R326). While the clocks are stopped, one is
aborted, but for that which resumes them (R336). -/
def State.hostWrites (s : State) (o0 : Nat) (x0 : Word) (o1 : Nat) (x1 : Word) : State :=
  let one (s : State) (port o : Nat) (x : Word) : State × Word :=
    match (if s.freeze && !resumes o 8 x then none else s.regionWrite port o 8 x) with
    | some t => (t, 0)
    | none => (s, 2)
  let (s, a) := one s 0 o0 x0
  let (s, b) := one s 1 o1 x1
  { s with response := [a, b] }

/-- What the read-out path alone gives of a stop beside its state: its counters, the shifts of the last drain of its die, and
the largest occupancy in it of the stop's drain store and of those of the die's bridges (R246). -/
def State.stopWords (s : State) (stop : Nat) : List Word :=
  let d := s.dies.toList.getD (dieOf stop) {}
  (List.range 24).map (fun i => s.windowRead (.counter stop (i / 3) (i % 3))) ++
    [s.windowRead (.shifts stop), s.windowRead (.peak stop), BitVec.ofNat 64 d.sidePeak, BitVec.ofNat 64 d.vertPeak]

/-- The read-out path shifts out the state of a stop, its tile, and the slice that attaches there (R336). In what order its bits
come is not given (notes/assumptions/94.md). -/
def State.readOut (s : State) (stop : Nat) : State :=
  let words := s.stopWords stop
  let lines := s.l2.filter fun x => s.sliceStop (s.sliceOf (256 * x.line)) = stop
  { s with
    response := words
    readout := some {
      stop := s.stop stop, words := words
      packets := s.packets.filter fun p => p.stop = stop
      tile := s.tile stop
      tasks := s.tasks.filter fun x => x.2.last.tile = stop || x.2.bound.any fun b => b.1 = stop
      banks := s.mem.filter fun c => sramKey stop 0 ≤ c.1 && c.1 < sramKey (stop + 1) 0
      lines := lines
      data := s.mem.filter fun c => lines.any fun x => x.line = c.1 / 256 } }

/-! ### CXL.mem and peers (R216, R330 to R332) -/

/-- Is an access to module memory within it, and of frames whose channels are in service? -/
def State.reaches (s : State) (a : MemAccess) : Bool :=
  a.addr + a.bytes ≤ Config.hbmBytes &&
    !((channelsOf a.addr ++ channelsOf (a.addr + a.bytes - 1)).any fun c => c ∈ s.retired)

/-- CXL_MEM_ACCESS: the decoder maps the host's address. -/
def execCxlMemAccess (a : MemAccess) (s : State) : Result :=
  let b : MemAccess := { a with addr := a.addr - s.hdmBase }
  if !s.hdmCommitted ∨ a.addr < s.hdmBase ∨ !s.reaches b then .next { s with response := answerError }
  else .next (s.outside b)

/-- PEER_ACCESS_ARRIVAL. -/
def execPeerAccessArrival (a : MemAccess) (s : State) : Result :=
  if !s.reaches a then .next { s with response := answerError } else .next (s.outside a)

/-- HDM_DECODER_COMMIT. -/
def execHdmDecoderCommit (base : Nat) (s : State) : Result :=
  .next { s with hdmBase := base, hdmCommitted := true, response := answerOk }

/-- Is a packet an enqueue that a port carries? -/
def State.portCarries (s : State) (port : Nat) (p : Pkt) : Bool :=
  match p.body with
  | .enqueue _ _ _ m _ _ _ => m ≠ s.moduleId && look s.routes m.toNat == some port
  | _ => false

/-- PEER_LINK_TIMEOUT: a port's link has been down for more than 2^20 cycles: its enqueues complete STALE. -/
def execPeerLinkTimeout (port : Nat) (s : State) : Result :=
  let (lost, rest) := s.packets.partition (s.portCarries port)
  .next (lost.foldl (fun s p => match p.body with
    | .enqueue vd f .. => (s.complete vd f 5 0 0 1).closeFut vd f
    | _ => s) { s with packets := rest })

/-- PSEUDO_CHANNEL_RETIREMENT: the channel goes out of service, its pages having been migrated by system software. -/
def execPseudoChannelRetirement (channel : Nat) (s : State) : Result :=
  event s (if 512 ≤ channel ∨ channel ∈ s.retired then none else some { s with retired := channel :: s.retired })

/-- APERTURE_TABLE_WRITE: an entry of a device's table, its reserved bits zero (R331). -/
def execApertureTableWrite (vd i : Nat) (value : BitVec 128) (s : State) : Result :=
  event s (
    if 16 ≤ i ∨ (look s.vds vd).isNone then none
    else some (s.modVd vd fun v => { v with
      apertures := put v.apertures i (value &&& 0xFFFFFFFFFFFFFFFF00000000FFFFFC0D) }))

end Sys2Proof.Machine
end

