-- ==== Sys2Proof/Machine/Mask.lean ====
section
/-! DEFINITION. The mask family (spec/22 R393, R394). Every bit is computed. -/

namespace Sys2Proof.Machine

/-- Write a mask register of a task. -/
def setMask (id : Nat) (d : MReg) (x : Word32) : Act Unit :=
  modify fun s => s.modTask id fun t => { t with ctx := t.ctx.setM d x }

def maskOp (i : Instr) (d : MReg) (f : Ctx → List Word → Word32) (s : State) : Result :=
  run i (fun id t v => do
    setMask id d (f t.ctx v)
    return {}) s

def execMset (d : MReg) (a : GReg) (s : State) : Result := maskOp (.mset d a) d (fun _ v => (v.getD 0 0).setWidth 32) s
def execMand (d a b : MReg) (s : State) : Result := maskOp (.mand d a b) d (fun c _ => c.getM a &&& c.getM b) s
def execMor (d a b : MReg) (s : State) : Result := maskOp (.mor d a b) d (fun c _ => c.getM a ||| c.getM b) s
def execMxor (d a b : MReg) (s : State) : Result := maskOp (.mxor d a b) d (fun c _ => c.getM a ^^^ c.getM b) s
def execMnot (d a : MReg) (s : State) : Result := maskOp (.mnot d a) d (fun c _ => ~~~(c.getM a)) s

/-- Index of the lowest 1 bit, `n` when none of `n` bits is set. -/
def lowest (n x : Nat) : Nat := ((List.range n).find? x.testBit).getD n

def execMpopc (d : GReg) (a : MReg) (s : State) : Result :=
  run (.mpopc d a) (fun _ t _ => return { vals := [BitVec.ofNat 64 (ones 32 (t.ctx.getM a).toNat)] }) s
def execMfirst (d : GReg) (a : MReg) (s : State) : Result :=
  run (.mfirst d a) (fun _ t _ => return { vals := [BitVec.ofNat 64 (lowest 32 (t.ctx.getM a).toNat)] }) s

end Sys2Proof.Machine
end

