-- ==== Sys2Proof/Machine/Snapshots.lean ====
section
/-! DEFINITION. Snapshot regions (spec/08 R192 to R196; spec/23 R427, R428). -/

namespace Sys2Proof.Machine

/-- The region number; one above 7 traps. -/
def regionArg (x : Word) : Act Nat := do
  if 7 < x.toNat then trap 1 x
  return x.toNat

/-- Read descriptor n of the region table: what refuses the read is cause 0x04 (R195). -/
def readRegion (id : Nat) (t : Task) (a : Nat) : Act (List Byte) :=
  tryCatch (loadBytes id t a 32) fun e =>
    match e with
    | .trap 6 v _ | .trap 7 v _ => trap 4 v
    | e => throw e

/-- Translate the undo area at open: its pages must be writable, and neither flash nor memory-side; a malformed entry is
a page fault (R427). A and D are set, for the area is written. -/
def pinUndo (vd n fin : Nat) : Nat → Nat → Act (List TlbEntry)
  | 0, _ => return []
  | fuel + 1, va => do
    if fin ≤ va then return []
    let s ← get
    match s.walk (s.vd vd).root va with
    | .error (level, pte) => throw (.page 2 5 va level pte)
    | .ok (e, level, pte) =>
      if !pteW e || pteTier e == 2 || pteMs e then trap 1 (BitVec.ofNat 64 n)
      let e' := withAD e .store
      if e' ≠ e then set (s.writeDword pte e')
      let x : TlbEntry := { vd := vd, vpn := va / pageSize level, level := level, leaf := e', pte := pte }
      return x :: (← pinUndo vd n fin fuel ((va / pageSize level + 1) * pageSize level))

def execSnapopen (a : GReg) (s : State) : Result :=
  run (.snapopen a) (fun id t v => do
    let n ← regionArg (v.getD 0 0)
    let d := (← get).vd t.vd
    let ill : Act Unit := trap 1 (v.getD 0 0)
    if (look d.regions n).isSome then ill
    let b ← readRegion id t (d.regionTable + 32 * n)
    let base := dwordIn b 0
    let size := dwordIn b 8
    let undo := dwordIn b 16
    let undosize := dwordIn b 24
    let broken := base % 65536 ≠ 0 ∨ size % 65536 ≠ 0 ∨ size = 0 ∨ Config.windowBase < base + size ∨ undo % 64 ≠ 0 ∨
      undosize < 336 ∨ Config.windowBase < undo + undosize ∨ (undo < base + size ∧ base < undo + undosize)
    if broken then ill
    if d.regions.any fun x => base < x.2.base + x.2.size && x.2.base < base + size then ill
    let pins ← pinUndo t.vd n (undo + undosize) (undosize / 65536 + 2) undo
    modify fun s => s.release id .module
    let r : Region := { base := base, size := size, undo := undo, undosize := undosize, pins := pins }
    let header := [0, 1, r.capacity, 0, 0, 0, 0, 0].flatMap (toBytes 8)
    modify fun s => s.undoWrite r 0 (cellsAt 0 header)
    modify fun s => s.modVd t.vd fun v => { v with regions := put v.regions n r }
    return {}) s

/-- Count and state of the header become zero; the region is closed. -/
def State.closeRegion (s : State) (vd n : Nat) (r : Region) : State :=
  let s := s.undoWrite r 0 (cellsAt 0 ([0, 0].flatMap (toBytes 8)))
  s.modVd vd fun v => { v with regions := cut v.regions n }

/-- SNAPCOMMIT (R195); of a closed region it does nothing. -/
def execSnapcommit (a : GReg) (s : State) : Result :=
  run (.snapcommit a) (fun id t v => do
    let n ← regionArg (v.getD 0 0)
    match look ((← get).vd t.vd).regions n with
    | none => return {}
    | some r =>
      modify fun s => (s.release id .module).closeRegion t.vd n r
      return {}) s

/-- The doubleword of an undo area. -/
def State.undoDword (s : State) (r : Region) (off : Nat) : Nat :=
  ofBytes ((List.range 8).map fun i => s.byteAt (r.undoKey (off + i)))

/-- Restore entry e at its line's home, but for the pinned doublewords (R195); an entry that cannot be read marks the
line errored (R428). -/
def restoreLine (vd : Nat) (r : Region) (e : Nat) (bound : Word) : Act Unit := do
  let s ← get
  let off := 64 + 272 * e
  let line := s.undoDword r off
  if line < bound.toNat then return
  let mask := s.undoDword r (off + 8)
  match s.walk (s.vd vd).root line with
  | .error (level, pte) => throw (.page 2 5 line level pte)
  | .ok (leaf, level, _) =>
    let k := (physOf leaf level line).pa
    let bad : Bool := e ∈ r.bad || (List.range 256).any fun i => r.undoKey (off + 16 + i) / 256 ∈ s.errored
    if bad then set { s with errored := k / 256 :: s.errored.filter (· ≠ k / 256) }
    else
      let old := (List.range 256).map fun i => (k + i, s.byteAt (r.undoKey (off + 16 + i)))
      set (s.write (old.filter fun c => !mask.testBit ((c.1 - k) / 8)))

def restoreLines (vd : Nat) (r : Region) (bound : Word) : Nat → Act Unit
  | 0 => return
  | e + 1 => do
    restoreLine vd r e bound
    restoreLines vd r bound e

/-- SNAPROLL (R195, R428): entries in descending order. -/
def execSnaproll (a b : GReg) (s : State) : Result :=
  run (.snaproll a b) (fun id t v => do
    let n ← regionArg (v.getD 0 0)
    match look ((← get).vd t.vd).regions n with
    | none => return {}
    | some r =>
      modify fun s => s.release id .module
      let count := min (( ← get).undoDword r 0) r.capacity
      restoreLines t.vd r (v.getD 1 0) count
      modify fun s => (s.closeRegion t.vd n r).acquire id .module
      return {}) s

end Sys2Proof.Machine
end

