-- ==== Sys2Proof/Machine/Vector.lean ====
section
/-! DEFINITION. Vector arithmetic and movement (spec/02 R41, R50, R51; spec/04 R110; spec/24 R451 to R466). A vector
instruction takes effect when it enters its core's queue: no other order of effects can be told from it (R110). -/

namespace Sys2Proof.Machine

/-! ### Lanes (R41) -/

/-- The lanes of a register, low first. -/
def lanesOf (w : Nat) (v : VWord) : List Nat := (List.range (256 / w)).map fun i => v.toNat / 2 ^ (w * i) % 2 ^ w

/-- Lanes back into a register. -/
def packLanes (w : Nat) : List Nat → Nat
  | [] => 0
  | x :: r => x % 2 ^ w + 2 ^ w * packLanes w r
def ofLanes (w : Nat) (l : List Nat) : VWord := BitVec.ofNat 256 (packLanes w l)

/-- Is a lane active? A mask bit governs two c4 lanes. -/
def active (t : VTy) (m : Word32) (i : Nat) : Bool := m.getLsbD (if t = .c4 then i / 2 else i)

/-! ### The vector queue and the end of a vector instruction -/

/-- What the body of a vector instruction is. -/
abbrev VBody := Nat → Task → List Word → Act Done

/-- Enter the core's queue; a full one holds the thread (R110). -/
def enterQueue (i : Instr) (id : Nat) (t : Task) : Act Unit := do
  let s ← get
  let p := t.last
  if 16 ≤ (s.core p.tile p.core).vq.length then holdHere
  set (s.modCore p.tile p.core fun c => { c with vq := c.vq ++ [{ task := id, instr := i }] })

/-- Set the flags that were raised and write the results; an enabled flag traps instead, with FSTAT set (R283). -/
def finish (id : Nat) (flags : Nat) (f : Ctx → Ctx) : Act Done := do
  let s ← get
  match s.task? id with
  | none => return {}
  | some t =>
    let c := { t.ctx with fstat := t.ctx.fstat ||| BitVec.ofNat 64 flags }
    if fctlEnables c.fctl &&& flags ≠ 0 then
      throw (.over ((s.setTask id { t with ctx := c }).takeTrap id 0x11 0 (0xF00 + flags % 32)))
    else
      set (s.setTask id { t with ctx := f c })
      return {}

/-- A result for each active lane; the others keep their contents. -/
def lanewise (t : VTy) (d : VReg) (k : MReg) (id : Nat) (tk : Task) (f : Nat → Nat × Nat) : Act Done :=
  let m := tk.ctx.getM k
  let r := ((lanesOf t.width (tk.ctx.getV d)).zipIdx).map fun x => if active t m x.2 then f x.2 else (x.1, 0)
  finish id (r.foldl (fun a x => a ||| x.2) 0) fun c => c.setV d (ofLanes t.width (r.map (·.1)))

/-- A lane of a register. -/
def lane (t : VTy) (v : VWord) (i : Nat) : Nat := v.toNat / 2 ^ (t.width * i) % 2 ^ t.width

/-- An elementwise instruction of va, vb and the old vd (R452): `f` takes rounding mode, ftz, and the three lanes. -/
def elementwise (i : Instr) (d a b : VReg) (k : MReg) (t : VTy) (f : Rm → Bool → Nat → Nat → Nat → Nat × Nat) : VBody :=
  fun id tk _ => do
    enterQueue i id tk
    let c := tk.ctx
    lanewise t d k id tk fun l =>
      f (fctlRm c.fctl).arith (fctlFtz c.fctl) (lane t (c.getV a) l) (lane t (c.getV b) l) (lane t (c.getV d) l)

/-- Integer lanes by `g`, modulo 2^width, and floating lanes by `h`, rounded once. -/
def arith (t : VTy) (g : Int → Int → Int → Int) (h : Rm → Num → Num → Num → Num × Bool) (rm : Rm) (ftz : Bool)
    (a b d : Nat) : Nat × Nat :=
  match fmtOf t with
  | some f => f.finish rm ftz (h rm (f.read ftz a) (f.read ftz b) (f.read ftz d))
  | none => (intLane t (g (laneInt t a) (laneInt t b) (laneInt t d)), 0)

/-- The smaller and the larger of two values (R453). -/
def Num.min (a b : Num) : Num := if a = .nan ∨ b = .nan then .nan else if b.lt true a then b else a
def Num.max (a b : Num) : Num := if a = .nan ∨ b = .nan then .nan else if a.lt true b then b else a
def Num.abs : Num → Num
  | .nan => .nan
  | .inf _ => .inf false
  | .fin _ m e => .fin false m e

/-- Saturating lanes (R278). -/
def saturate (t : VTy) (g : Int → Int → Int) (a b : Nat) : Nat × Nat := clamp t (g (laneInt t a) (laneInt t b)) SAT

/-- A shift right that copies the top bit of a lane in. -/
def sraLane (w x n : Nat) : Nat :=
  let y : Int := if x.testBit (w - 1) then (x : Int) - 2 ^ w else x
  ((y / 2 ^ Nat.min n w) % 2 ^ w).toNat

/-! ### Elementwise instructions (R452) -/

def vaddBody (d a b : VReg) (k : MReg) (t : VTy) : VBody :=
  elementwise (.vadd d a b k t) d a b k t (arith t (fun x y _ => x + y) (fun rm x y _ => x.add rm y))
def vsubBody (d a b : VReg) (k : MReg) (t : VTy) : VBody :=
  elementwise (.vsub d a b k t) d a b k t (arith t (fun x y _ => x - y) (fun rm x y _ => x.add rm y.neg))
def vmulBody (d a b : VReg) (k : MReg) (t : VTy) : VBody :=
  elementwise (.vmul d a b k t) d a b k t (arith t (fun x y _ => x * y) (fun _ x y _ => x.mul y))
def vfmaBody (d a b : VReg) (k : MReg) (t : VTy) : VBody :=
  elementwise (.vfma d a b k t) d a b k t (arith t (fun x y z => x * y + z) (fun rm x y z => x.fma rm y z))
def vminBody (d a b : VReg) (k : MReg) (t : VTy) : VBody :=
  elementwise (.vmin d a b k t) d a b k t (fun _ ftz =>
    arith t (fun x y _ => if y < x then y else x) (fun _ x y _ => (x.min y, false)) .rne ftz)
def vmaxBody (d a b : VReg) (k : MReg) (t : VTy) : VBody :=
  elementwise (.vmax d a b k t) d a b k t (fun _ ftz =>
    arith t (fun x y _ => if x < y then y else x) (fun _ x y _ => (x.max y, false)) .rne ftz)
def vabsBody (d a : VReg) (k : MReg) (t : VTy) : VBody :=
  elementwise (.vabs d a k t) d a a k t (fun _ ftz => arith t (fun x _ _ => x.natAbs) (fun _ x _ _ => (x.abs, false)) .rne ftz)
def vnegBody (d a : VReg) (k : MReg) (t : VTy) : VBody :=
  elementwise (.vneg d a k t) d a a k t (fun _ ftz => arith t (fun x _ _ => -x) (fun _ x _ _ => (x.neg, false)) .rne ftz)
def vandBody (d a b : VReg) (k : MReg) (t : VTy) : VBody :=
  elementwise (.vand d a b k t) d a b k t (fun _ _ x y _ => (x &&& y, 0))
def vorBody (d a b : VReg) (k : MReg) (t : VTy) : VBody :=
  elementwise (.vor d a b k t) d a b k t (fun _ _ x y _ => (x ||| y, 0))
def vxorBody (d a b : VReg) (k : MReg) (t : VTy) : VBody :=
  elementwise (.vxor d a b k t) d a b k t (fun _ _ x y _ => (x ^^^ y, 0))
def vshlBody (d a b : VReg) (k : MReg) (t : VTy) : VBody :=
  elementwise (.vshl d a b k t) d a b k t (fun _ _ x n _ => (if t.width ≤ n then 0 else x * 2 ^ n % 2 ^ t.width, 0))
def vshrBody (d a b : VReg) (k : MReg) (t : VTy) : VBody :=
  elementwise (.vshr d a b k t) d a b k t (fun _ _ x n _ => (if t.width ≤ n then 0 else x / 2 ^ n, 0))
def vsraBody (d a b : VReg) (k : MReg) (t : VTy) : VBody :=
  elementwise (.vsra d a b k t) d a b k t (fun _ _ x n _ => (sraLane t.width x n, 0))
def vaddSatBody (d a b : VReg) (k : MReg) (t : VTy) : VBody :=
  elementwise (.vaddSat d a b k t) d a b k t (fun _ _ x y _ => saturate t (· + ·) x y)
def vsubSatBody (d a b : VReg) (k : MReg) (t : VTy) : VBody :=
  elementwise (.vsubSat d a b k t) d a b k t (fun _ _ x y _ => saturate t (· - ·) x y)

/-- One of the four functions, on floating lanes. -/
def functionBody (i : Instr) (d a : VReg) (k : MReg) (t : VTy) (h : Fmt → Rm → Bool → Num → Nat × Nat) : VBody :=
  elementwise i d a a k t (fun rm ftz x _ _ =>
    match fmtOf t with
    | some f => h f rm ftz (f.read ftz x)
    | none => (x, 0))

def vrcpBody (d a : VReg) (k : MReg) (t : VTy) : VBody := functionBody (.vrcp d a k t) d a k t Fmt.rcp
def vrsqBody (d a : VReg) (k : MReg) (t : VTy) : VBody := functionBody (.vrsq d a k t) d a k t Fmt.rsq
def vexp2Body (d a : VReg) (k : MReg) (t : VTy) : VBody := functionBody (.vexp2 d a k t) d a k t Fmt.exp2
def vlog2Body (d a : VReg) (k : MReg) (t : VTy) : VBody := functionBody (.vlog2 d a k t) d a k t Fmt.log2

/-! ### Comparison and selection (R455, R465) -/

/-- A condition on two lanes. -/
def condition (c : Cond) (t : VTy) (ftz : Bool) (a b : Nat) : Bool :=
  match fmtOf t with
  | some f =>
    let x := f.read ftz a
    let y := f.read ftz b
    match c with
    | .eq => x.eq y
    | .ne => !x.eq y
    | .lt => x.lt false y
    | .le => x.lt false y || x.eq y
  | none =>
    let x := laneInt t a
    let y := laneInt t b
    match c with
    | .eq => x = y
    | .ne => x ≠ y
    | .lt => x < y
    | .le => x ≤ y

/-- Bits of a mask from a list, low first. -/
def maskOf (l : List Bool) : Word32 := BitVec.ofNat 32 (l.foldr (fun b n => 2 * n + (if b then 1 else 0)) 0)

def vcmpBody (c : Cond) (md : MReg) (a b : VReg) (k : MReg) (t : VTy) : VBody :=
  fun id tk _ => do
    enterQueue (.vcmp c md a b k t) id tk
    let x := tk.ctx
    let r := (List.range t.lanes).map fun i =>
      if active t (x.getM k) i then condition c t (fctlFtz x.fctl) (lane t (x.getV a) i) (lane t (x.getV b) i)
      else (x.getM md).getLsbD i
    finish id 0 fun y => y.setM md (maskOf r)

/-- What a copied lane holds: an x19 container's upper bits read and are written as zero (R277). -/
def moved (t : VTy) (x : Nat) : Nat := if t = .x19 then x % 2 ^ 19 else x

def vselBody (d a b : VReg) (k : MReg) (t : VTy) : VBody :=
  fun id tk _ => do
    enterQueue (.vsel d a b k t) id tk
    let c := tk.ctx
    let r := (List.range t.lanes).map fun i =>
      moved t (lane t (c.getV (if active t (c.getM k) i then a else b)) i)
    finish id 0 fun y => y.setV d (ofLanes t.width r)

/-! ### Reductions (R463) -/

/-- Combine two lanes. -/
def combine (p : RedOp) (t : VTy) (rm : Rm) (ftz : Bool) (a b : Nat) : Nat × Nat :=
  match p with
  | .add => arith t (fun x y _ => x + y) (fun rm x y _ => x.add rm y) rm ftz a b 0
  | .min => arith t (fun x y _ => if y < x then y else x) (fun _ x y _ => (x.min y, false)) .rne ftz a b 0
  | .max => arith t (fun x y _ => if x < y then y else x) (fun _ x y _ => (x.max y, false)) .rne ftz a b 0
  | .and => (a &&& b, 0)
  | .or => (a ||| b, 0)
  | .xor => (a ^^^ b, 0)

/-- The result of a reduction with no active lane. -/
def identity (p : RedOp) (t : VTy) : Nat :=
  match fmtOf t with
  | some f =>
    match p with
    | .min => f.inf
    | .max => f.signed true f.inf
    | _ => 0
  | none =>
    match p with
    | .min => intLane t (intBounds t).2
    | .max => intLane t (intBounds t).1
    | .and => 2 ^ t.width - 1
    | _ => 0

/-- A lane as a reduction reads it: a NaN as the canonical one, which the result is where no other lane is active (R277), a
subnormal as zero under ftz (R280), an x19 value without the bits above it. -/
def readLane (t : VTy) (ftz : Bool) (x : Nat) : Nat :=
  match fmtOf t with
  | some f =>
    let y := x % (2 * f.signBit)
    if f.unpack y = .nan then f.nan
    else if ftz ∧ f ≠ Machine.x19 ∧ y / 2 ^ f.fb % 2 ^ f.eb = 0 then y / f.signBit * f.signBit else y
  | none => x

/-- The combination of the active lanes at or below each lane, with the flags of all additions: none before the first
active lane. -/
def scanLanes (f : Nat → Nat → Nat × Nat) : List (Bool × Nat) → Option Nat → List (Option Nat) × Nat
  | [], _ => ([], 0)
  | (on, x) :: r, acc =>
    let (acc', fl) := if on then
        match acc with
        | none => (some x, 0)
        | some a => (some (f a x).1, (f a x).2)
      else (acc, 0)
    let (l, g) := scanLanes f r acc'
    ((if on then acc' else none) :: l, fl ||| g)

/-- The active lanes of a register as a reduction reads them. -/
def redLanes (t : VTy) (k : MReg) (a : VReg) (c : Ctx) : List (Bool × Nat) :=
  (List.range t.lanes).map fun i => (active t (c.getM k) i, readLane t (fctlFtz c.fctl) (lane t (c.getV a) i))

def vredBody (d a : VReg) (p : RedOp) (k : MReg) (t : VTy) : VBody :=
  fun id tk _ => do
    enterQueue (.vred d a p k t) id tk
    let c := tk.ctx
    let (l, fl) := scanLanes (combine p t (fctlRm c.fctl).arith (fctlFtz c.fctl)) (redLanes t k a c) none
    let r := (l.filterMap fun x => x).getLast?
    finish id fl fun y => y.setV d (ofLanes t.width [r.getD (identity p t)])

def vscanBody (d a : VReg) (p : RedOp) (k : MReg) (t : VTy) : VBody :=
  fun id tk _ => do
    enterQueue (.vscan d a p k t) id tk
    let c := tk.ctx
    let (l, fl) := scanLanes (combine p t (fctlRm c.fctl).arith (fctlFtz c.fctl)) (redLanes t k a c) none
    let r := ((lanesOf t.width (c.getV d)).zip l).map fun x => x.2.getD x.1
    finish id fl fun y => y.setV d (ofLanes t.width r)

/-! ### Conversion and codes (R456, R457) -/

def vcvtBody (d a : VReg) (e : VTy) (k : MReg) (t : VTy) : VBody :=
  fun id tk _ => do
    enterQueue (.vcvt d a e k t) id tk
    let c := tk.ctx
    let r := (List.range (Nat.min t.lanes e.lanes)).map fun i =>
      if (c.getM k).getLsbD i then convert t e (fctlRm c.fctl) (fctlFtz c.fctl) (lane t (c.getV a) i)
      else (lane e (c.getV d) i, 0)
    finish id (r.foldl (fun x y => x ||| y.2) 0) fun y => y.setV d (ofLanes e.width (r.map (·.1)))

/-- The table of a slot of the core; a missing one, or one of the other kind, traps (R290). -/
def slotTable (tk : Task) (slot : BitVec 2) (t : VTy) : Act Table := do
  let s ← get
  match (s.core tk.last.tile tk.last.core).slots[slot.toNat] with
  | some x => if x.c4 = (t == .c4) then return x else trap 0xE (BitVec.ofNat 64 (slot.toNat * 256))
  | none => trap 0xE (BitVec.ofNat 64 (slot.toNat * 256))

/-- VDEC and VENC act on eight 32-bit containers. -/
def codeBody (i : Instr) (d a : VReg) (sl : BitVec 2) (k : MReg) (t : VTy) (f : Table → Nat → Nat × Nat) : VBody :=
  fun id tk _ => do
    enterQueue i id tk
    let x ← slotTable tk sl t
    lanewise .n32 d k id tk fun l => f x (lane .n32 (tk.ctx.getV a) l)

def vdecBody (d a : VReg) (sl : BitVec 2) (k : MReg) (t : VTy) : VBody :=
  codeBody (.vdec d a sl k t) d a sl k t fun x c => (x.decode c, 0)
def vencBody (d a : VReg) (sl : BitVec 2) (k : MReg) (t : VTy) : VBody :=
  codeBody (.venc d a sl k t) d a sl k t Table.encode

/-! ### Movement (R454, R458, R461, R462, R466) -/

def vbcastBody (d : VReg) (g : GReg) (k : MReg) (t : VTy) : VBody :=
  fun id tk v => do
    enterQueue (.vbcast d g k t) id tk
    lanewise t d k id tk fun _ => (moved t ((v.getD 0 0).toNat % 2 ^ t.width), 0)

/-- VMOVS waits for the writes of its register and does not enter the queue (R110). -/
def vmovsBody (a : VReg) (l : BitVec 5) (t : VTy) : VBody :=
  fun _ tk _ => do
    let x := moved t (lane t (tk.ctx.getV a) l.toNat)
    return { vals := [if t.isSigned then BitVec.ofInt 64 (laneInt t x) else BitVec.ofNat 64 x] }

def vpermBody (d a b : VReg) (k : MReg) (t : VTy) : VBody :=
  fun id tk _ => do
    enterQueue (.vperm d a b k t) id tk
    let c := tk.ctx
    lanewise t d k id tk fun l => (moved t (lane t (c.getV a) (lane t (c.getV b) l % t.lanes)), 0)

def vslideBody (d a : VReg) (g : GReg) (k : MReg) (t : VTy) : VBody :=
  fun id tk v => do
    enterQueue (.vslide d a g k t) id tk
    let n := (v.getD 0 0).toInt
    lanewise t d k id tk fun l =>
      let j := (l : Int) + n
      (if 0 ≤ j ∧ j < t.lanes then moved t (lane t (tk.ctx.getV a) j.toNat) else 0, 0)

def viotaBody (d : VReg) (k : MReg) (t : VTy) : VBody :=
  fun id tk _ => do
    enterQueue (.viota d k t) id tk
    lanewise t d k id tk fun l =>
      match fmtOf t with
      | some f => ((f.pack .rne false (.fin false l 0)).1, 0)
      | none => (l, 0)

/-! ### The instructions -/

def execVadd (d a b : VReg) (k : MReg) (t : VTy) (s : State) : Result := run (.vadd d a b k t) (vaddBody d a b k t) s
def execVsub (d a b : VReg) (k : MReg) (t : VTy) (s : State) : Result := run (.vsub d a b k t) (vsubBody d a b k t) s
def execVmul (d a b : VReg) (k : MReg) (t : VTy) (s : State) : Result := run (.vmul d a b k t) (vmulBody d a b k t) s
def execVfma (d a b : VReg) (k : MReg) (t : VTy) (s : State) : Result := run (.vfma d a b k t) (vfmaBody d a b k t) s
def execVmin (d a b : VReg) (k : MReg) (t : VTy) (s : State) : Result := run (.vmin d a b k t) (vminBody d a b k t) s
def execVmax (d a b : VReg) (k : MReg) (t : VTy) (s : State) : Result := run (.vmax d a b k t) (vmaxBody d a b k t) s
def execVabs (d a : VReg) (k : MReg) (t : VTy) (s : State) : Result := run (.vabs d a k t) (vabsBody d a k t) s
def execVneg (d a : VReg) (k : MReg) (t : VTy) (s : State) : Result := run (.vneg d a k t) (vnegBody d a k t) s
def execVand (d a b : VReg) (k : MReg) (t : VTy) (s : State) : Result := run (.vand d a b k t) (vandBody d a b k t) s
def execVor (d a b : VReg) (k : MReg) (t : VTy) (s : State) : Result := run (.vor d a b k t) (vorBody d a b k t) s
def execVxor (d a b : VReg) (k : MReg) (t : VTy) (s : State) : Result := run (.vxor d a b k t) (vxorBody d a b k t) s
def execVshl (d a b : VReg) (k : MReg) (t : VTy) (s : State) : Result := run (.vshl d a b k t) (vshlBody d a b k t) s
def execVshr (d a b : VReg) (k : MReg) (t : VTy) (s : State) : Result := run (.vshr d a b k t) (vshrBody d a b k t) s
def execVsra (d a b : VReg) (k : MReg) (t : VTy) (s : State) : Result := run (.vsra d a b k t) (vsraBody d a b k t) s
def execVcmp (c : Cond) (m : MReg) (a b : VReg) (k : MReg) (t : VTy) (s : State) : Result :=
  run (.vcmp c m a b k t) (vcmpBody c m a b k t) s
def execVsel (d a b : VReg) (k : MReg) (t : VTy) (s : State) : Result := run (.vsel d a b k t) (vselBody d a b k t) s
def execVaddSat (d a b : VReg) (k : MReg) (t : VTy) (s : State) : Result :=
  run (.vaddSat d a b k t) (vaddSatBody d a b k t) s
def execVsubSat (d a b : VReg) (k : MReg) (t : VTy) (s : State) : Result :=
  run (.vsubSat d a b k t) (vsubSatBody d a b k t) s
def execVred (d a : VReg) (p : RedOp) (k : MReg) (t : VTy) (s : State) : Result :=
  run (.vred d a p k t) (vredBody d a p k t) s
def execVscan (d a : VReg) (p : RedOp) (k : MReg) (t : VTy) (s : State) : Result :=
  run (.vscan d a p k t) (vscanBody d a p k t) s
def execVcvt (d a : VReg) (e : VTy) (k : MReg) (t : VTy) (s : State) : Result :=
  run (.vcvt d a e k t) (vcvtBody d a e k t) s
def execVdec (d a : VReg) (sl : BitVec 2) (k : MReg) (t : VTy) (s : State) : Result :=
  run (.vdec d a sl k t) (vdecBody d a sl k t) s
def execVenc (d a : VReg) (sl : BitVec 2) (k : MReg) (t : VTy) (s : State) : Result :=
  run (.venc d a sl k t) (vencBody d a sl k t) s
def execVrcp (d a : VReg) (k : MReg) (t : VTy) (s : State) : Result := run (.vrcp d a k t) (vrcpBody d a k t) s
def execVrsq (d a : VReg) (k : MReg) (t : VTy) (s : State) : Result := run (.vrsq d a k t) (vrsqBody d a k t) s
def execVexp2 (d a : VReg) (k : MReg) (t : VTy) (s : State) : Result := run (.vexp2 d a k t) (vexp2Body d a k t) s
def execVlog2 (d a : VReg) (k : MReg) (t : VTy) (s : State) : Result := run (.vlog2 d a k t) (vlog2Body d a k t) s
def execVbcast (d : VReg) (g : GReg) (k : MReg) (t : VTy) (s : State) : Result :=
  run (.vbcast d g k t) (vbcastBody d g k t) s
def execVmovs (g : GReg) (a : VReg) (l : BitVec 5) (t : VTy) (s : State) : Result :=
  run (.vmovs g a l t) (vmovsBody a l t) s
def execVperm (d a b : VReg) (k : MReg) (t : VTy) (s : State) : Result := run (.vperm d a b k t) (vpermBody d a b k t) s
def execVslide (d a : VReg) (g : GReg) (k : MReg) (t : VTy) (s : State) : Result :=
  run (.vslide d a g k t) (vslideBody d a g k t) s
def execViota (d : VReg) (k : MReg) (t : VTy) (s : State) : Result := run (.viota d k t) (viotaBody d k t) s

end Sys2Proof.Machine
end

