-- ==== Sys2Proof/Machine/Fetch.lean ====
section
/-! DEFINITION. Which thread of a core issues (spec/03 R71; spec/04 R105), and fetching and decoding the instruction at its
pc, in the order of R62. -/

namespace Sys2Proof.Machine

/-- A line comes into the instruction cache of a tile (R18). -/
def State.fetched (s : State) (tile key : Nat) : State :=
  if key / 64 ∈ (s.tile tile).icache then s else
  s.modTile tile fun x => { x with icache := icacheFill x.icache (key / 64) }

/-- The bytes of `n` instruction words at an address of one page, as they stand at their home; their lines come into the
instruction cache of the tile (notes/assumptions/7.md), and one that is not there is granted its 64 bytes first (R317). -/
def fetchBytes (id : Nat) (t : Task) (va n : Nat) : Act (List Byte) := do
  let (g, _) ← resolve id t va .fetch
  let k ← keyOf t va g
  if k / 64 ∉ ((← get).tile t.last.tile).icache then budget t g 64
  modify fun s => s.fetched t.last.tile k
  return (← get).readKey k n

/-- Bytes as 32-bit words, little-endian (R34). -/
def wordsOf : Nat → List Byte → List Word32
  | 0, _ => []
  | n + 1, l => BitVec.ofNat 32 (ofBytes (l.take 4)) :: wordsOf n (l.drop 4)

/-- Fetch and decode in the order of R62: the word at pc; for a word 0 of a tile command its alignment, then words 1 to
7, whose fetch faults report their own address. An illegal word traps with cause 0x01. -/
def fetch (id : Nat) (t : Task) : Act Instr := do
  let pc := t.ctx.pc.toNat
  let w0 := (wordsOf 1 (← fetchBytes id t pc 4)).headD 0
  let ill : Act Instr := trap 1 (w0.setWidth 64)
  if isCommandWord w0 then
    if pc % 32 ≠ 0 then ill
    else
      -- a command word is 32 bytes aligned, so it lies within one page
      let rest := wordsOf 7 ((← fetchBytes id t pc 32).drop 4)
      match decode w0 rest with
      | .ok i => return i
      | .error _ => ill
  else
    match decode w0 [] with
    | .ok i => return i
    | .error _ => ill

/-! ### The issue slot of a core (R71, R105) -/

/-- Does a thread hold a task that may issue: one that runs, and that no SLEEP holds (R424)? -/
def State.eligible (s : State) (p : Place) : Bool :=
  match s.taskAt p with
  | some (_, t) => t.heldTill ≤ s.masterAt p.tile
  | none => false

/-- Does R105 limit the thread of a task: its device is in depth-first mode, and the thread has issued SPAWN within 4,096
cycles of its die? -/
def State.limited (s : State) (t : Task) (p : Place) : Bool :=
  (s.vd t.vd).depthFirst && ((s.core p.tile p.core).lastSpawn.toList.getD p.thread none).any fun c =>
    s.masterAt p.tile < c + 4096

/-- The thread that the core's round-robin comes to, from these on, and the state that notes the limited ones it has passed
over: each on every second turn, of which the first is one (notes/assumptions/74.md). -/
def State.slotFrom (s : State) (tile core : Nat) : List Nat → Option Nat × State
  | [] => (none, s)
  | n :: r =>
    match s.taskAt ⟨tile, core, n⟩ with
    | none => s.slotFrom tile core r
    | some (_, t) =>
      let passed := (s.core tile core).passed.toList.getD n false
      let note (x : Bool) : State := s.modCore tile core fun c => { c with passed := c.passed.setIfInBounds n x }
      if !s.eligible ⟨tile, core, n⟩ then s.slotFrom tile core r
      else if s.limited t ⟨tile, core, n⟩ && !passed then (note true).slotFrom tile core r
      else (some n, if passed then note false else s)

/-- The thread that a core issues from: round-robin, starting after the one that issued last. -/
def State.issueSlot (s : State) (tile core : Nat) : Option Nat × State :=
  s.slotFrom tile core ((List.range 4).map fun i => ((s.core tile core).lastThread + 1 + i) % 4)

/-- The state in which a thread issues. -/
def State.issuing (s : State) (p : Place) : State :=
  if (s.core p.tile p.core).lastThread = p.thread then s else s.modCore p.tile p.core fun c => { c with lastThread := p.thread }

/-- What a thread's turn fetches: an instruction with the state its fetch leaves, or the outcome of a turn that ends
without one: the slot is another thread's, or stays empty. -/
def fetchTurn (s : State) (p : Place) : Result ⊕ (Instr × State) :=
  let s := { s with cur := p }
  match s.issueSlot p.tile p.core with
  | (none, s) => .inl (.next s)
  | (some n, s1) =>
    if n ≠ p.thread then .inl (.next s) else
    let s := s1.issuing p
    match s.taskAt p with
    | none => .inl (.next s)
    | some (id, t) =>
      match (fetch id t) s with
      | .ok (i, s') => .inr (i, s')
      | .error e => .inl (settleTurn s id p (.error e))

end Sys2Proof.Machine
end

