-- ==== Sys2Proof/Machine/VectorMem.lean ====
section
/-! DEFINITION. Vector memory instructions (spec/24 R459, R460; spec/13 R264) and VREP (spec/04 R113, R114; spec/24 R464). -/

namespace Sys2Proof.Machine

/-! ### VLD and VST (R459) -/

/-- Bytes of a lane in memory; one for c4. -/
def VTy.bytes (t : VTy) : Nat := if t = .c4 then 1 else t.width / 8

/-- The offsets of the active bytes of a 32-byte access; a mask bit governs the two c4 lanes of a byte. -/
def activeBytes (t : VTy) (m : Word32) : List Nat := (List.range 32).filter fun o => m.getLsbD (o / VTy.bytes t)

/-- Group rising byte offsets of an access at `a` into runs within one 64-byte line: (offset, length). -/
def runsOf (a : Nat) : List Nat → List (Nat × Nat)
  | [] => []
  | o :: r =>
    match runsOf a r with
    | (o', n) :: rest => if o' = o + 1 ∧ (a + o') % 64 ≠ 0 then (o, n + 1) :: rest else (o, 1) :: (o', n) :: rest
    | [] => [(o, 1)]

/-- Load runs of bytes: the bytes read, by offset. -/
def loadRuns (id : Nat) (t : Task) (a : Nat) : List (Nat × Nat) → Act (List (Nat × Byte))
  | [] => return []
  | (o, n) :: r => do
    let b ← loadBytes id t (a + o) n
    return cellsAt o b ++ (← loadRuns id t a r)

/-- The address of a VLD or VST; a misaligned one traps. -/
def vectorAddress (t : VTy) (v : List Word) : Act Nat := do
  let a := v.getD 0 0 + v.getD 1 0
  if a.toNat % VTy.bytes t ≠ 0 then trap 2 a
  return a.toNat

def vldBody (d : VReg) (a b : GReg) (k : MReg) (t : VTy) : VBody :=
  fun id tk v => do
    enterQueue (.vld d a b k t) id tk
    let va ← vectorAddress t v
    let active := activeBytes t (tk.ctx.getM k)
    checkPages id tk .load (active.map (va + ·))
    let l ← loadRuns id tk va (runsOf va active)
    let old := tk.ctx.getV d
    let bytes := (List.range 32).map fun o => ((look l o).getD (old.extractLsb' (8 * o) 8)).toNat
    finish id 0 fun y => y.setV d (ofLanes 8 bytes)

def vstBody (d : VReg) (a b : GReg) (k : MReg) (t : VTy) : VBody :=
  fun id tk v => do
    enterQueue (.vst d a b k t) id tk
    let va ← vectorAddress t v
    checkPages id tk .store ((activeBytes t (tk.ctx.getM k)).map (va + ·))
    storeBytes id va ((activeBytes t (tk.ctx.getM k)).map fun o => (o, (tk.ctx.getV d).extractLsb' (8 * o) 8))
    return {}

/-! ### VLDX and VSTX (R460) -/

/-- A lane's address, naturally aligned and in the page of ga or the one after it. -/
def laneAddress (t : VTy) (base : Word) (x : Nat) : Act Nat := do
  let n := VTy.bytes t
  let a := base + extend true n x
  let page := base.toNat / 65536
  if a.toNat % n ≠ 0 ∨ ¬ (a.toNat / 65536 = page ∨ a.toNat / 65536 = page + 1) then trap 2 a
  return a.toNat

/-- Load each active lane, lowest first. -/
def loadLanes (id : Nat) (tk : Task) (t : VTy) (base : Word) : List (Nat × Nat) → Act (List (Nat × Nat))
  | [] => return []
  | (i, x) :: r => do
    let a ← laneAddress t base x
    let b ← loadBytes id tk a (VTy.bytes t)
    return (i, ofBytes b) :: (← loadLanes id tk t base r)

/-- Store each active lane, lowest first. -/
def storeLanes (id : Nat) (t : VTy) (base : Word) : List (Nat × Nat) → Act Unit
  | [] => return
  | (x, y) :: r => do
    let a ← laneAddress t base x
    storeBytes id a (cellsAt 0 (toBytes (VTy.bytes t) y))
    storeLanes id t base r

/-- The active lanes. -/
def activeLanes (t : VTy) (m : Word32) : List Nat := (List.range t.lanes).filter (active t m)

def vldxBody (d : VReg) (a : GReg) (b : VReg) (k : MReg) (t : VTy) : VBody :=
  fun id tk v => do
    enterQueue (.vldx d a b k t) id tk
    let c := tk.ctx
    let l ← loadLanes id tk t (v.getD 0 0) ((activeLanes t (c.getM k)).map fun i => (i, lane t (c.getV b) i))
    lanewise t d k id tk fun i => ((look l i).getD 0, 0)

def vstxBody (d : VReg) (a : GReg) (b : VReg) (k : MReg) (t : VTy) : VBody :=
  fun id tk v => do
    enterQueue (.vstx d a b k t) id tk
    let c := tk.ctx
    storeLanes id t (v.getD 0 0)
      ((activeLanes t (c.getM k)).map fun i => (lane t (c.getV b) i, lane t (c.getV d) i))
    return {}

def execVld (d : VReg) (a b : GReg) (k : MReg) (t : VTy) (s : State) : Result := run (.vld d a b k t) (vldBody d a b k t) s
def execVst (d : VReg) (a b : GReg) (k : MReg) (t : VTy) (s : State) : Result := run (.vst d a b k t) (vstBody d a b k t) s
def execVldx (d : VReg) (a : GReg) (b : VReg) (k : MReg) (t : VTy) (s : State) : Result :=
  run (.vldx d a b k t) (vldxBody d a b k t) s
def execVstx (d : VReg) (a : GReg) (b : VReg) (k : MReg) (t : VTy) (s : State) : Result :=
  run (.vstx d a b k t) (vstxBody d a b k t) s

/-! ### VREP (R113, R114, R464) -/

/-- A body instruction on a repetition: the stepped vector-register fields raised by `k` (R113). -/
def stepped (k : VReg) : Instr → Instr
  | .vld d a b m t => .vld (d + k) a b m t
  | .vst d a b m t => .vst (d + k) a b m t
  | .vbcast d g m t => .vbcast (d + k) g m t
  | .vldx d a b m t => .vldx (d + k) a (b + k) m t
  | .vstx d a b m t => .vstx (d + k) a (b + k) m t
  | .vcmp c d a b m t => .vcmp c d (a + k) (b + k) m t
  | .vmovs g a l t => .vmovs g (a + k) l t
  | .vslide d a g m t => .vslide (d + k) (a + k) g m t
  | .vred d a p m t => .vred (d + k) (a + k) p m t
  | .vscan d a p m t => .vscan (d + k) (a + k) p m t
  | .vcvt d a e m t => .vcvt (d + k) (a + k) e m t
  | .vdec d a l m t => .vdec (d + k) (a + k) l m t
  | .venc d a l m t => .venc (d + k) (a + k) l m t
  | .vabs d a m t => .vabs (d + k) (a + k) m t
  | .vneg d a m t => .vneg (d + k) (a + k) m t
  | .vrcp d a m t => .vrcp (d + k) (a + k) m t
  | .vrsq d a m t => .vrsq (d + k) (a + k) m t
  | .vexp2 d a m t => .vexp2 (d + k) (a + k) m t
  | .vlog2 d a m t => .vlog2 (d + k) (a + k) m t
  | .viota d m t => .viota (d + k) m t
  | .vadd d a b m t => .vadd (d + k) (a + k) (b + k) m t
  | .vsub d a b m t => .vsub (d + k) (a + k) (b + k) m t
  | .vmul d a b m t => .vmul (d + k) (a + k) (b + k) m t
  | .vfma d a b m t => .vfma (d + k) (a + k) (b + k) m t
  | .vmin d a b m t => .vmin (d + k) (a + k) (b + k) m t
  | .vmax d a b m t => .vmax (d + k) (a + k) (b + k) m t
  | .vand d a b m t => .vand (d + k) (a + k) (b + k) m t
  | .vor d a b m t => .vor (d + k) (a + k) (b + k) m t
  | .vxor d a b m t => .vxor (d + k) (a + k) (b + k) m t
  | .vshl d a b m t => .vshl (d + k) (a + k) (b + k) m t
  | .vshr d a b m t => .vshr (d + k) (a + k) (b + k) m t
  | .vsra d a b m t => .vsra (d + k) (a + k) (b + k) m t
  | .vsel d a b m t => .vsel (d + k) (a + k) (b + k) m t
  | .vaddSat d a b m t => .vaddSat (d + k) (a + k) (b + k) m t
  | .vsubSat d a b m t => .vsubSat (d + k) (a + k) (b + k) m t
  | .vperm d a b m t => .vperm (d + k) (a + k) (b + k) m t
  | i => i

/-- The body of an instruction that a VREP may hold: none for any other (R113). -/
def vectorBody : Instr → Option VBody
  | .vadd d a b k t => some (vaddBody d a b k t)
  | .vsub d a b k t => some (vsubBody d a b k t)
  | .vmul d a b k t => some (vmulBody d a b k t)
  | .vfma d a b k t => some (vfmaBody d a b k t)
  | .vmin d a b k t => some (vminBody d a b k t)
  | .vmax d a b k t => some (vmaxBody d a b k t)
  | .vabs d a k t => some (vabsBody d a k t)
  | .vneg d a k t => some (vnegBody d a k t)
  | .vand d a b k t => some (vandBody d a b k t)
  | .vor d a b k t => some (vorBody d a b k t)
  | .vxor d a b k t => some (vxorBody d a b k t)
  | .vshl d a b k t => some (vshlBody d a b k t)
  | .vshr d a b k t => some (vshrBody d a b k t)
  | .vsra d a b k t => some (vsraBody d a b k t)
  | .vcmp c m a b k t => some (vcmpBody c m a b k t)
  | .vsel d a b k t => some (vselBody d a b k t)
  | .vaddSat d a b k t => some (vaddSatBody d a b k t)
  | .vsubSat d a b k t => some (vsubSatBody d a b k t)
  | .vred d a p k t => some (vredBody d a p k t)
  | .vscan d a p k t => some (vscanBody d a p k t)
  | .vcvt d a e k t => some (vcvtBody d a e k t)
  | .vdec d a l k t => some (vdecBody d a l k t)
  | .venc d a l k t => some (vencBody d a l k t)
  | .vrcp d a k t => some (vrcpBody d a k t)
  | .vrsq d a k t => some (vrsqBody d a k t)
  | .vexp2 d a k t => some (vexp2Body d a k t)
  | .vlog2 d a k t => some (vlog2Body d a k t)
  | .vbcast d g k t => some (vbcastBody d g k t)
  | .vmovs _ a l t => some (vmovsBody a l t)
  | .vperm d a b k t => some (vpermBody d a b k t)
  | .vslide d a g k t => some (vslideBody d a g k t)
  | .viota d k t => some (viotaBody d k t)
  | .vld d a b k t => some (vldBody d a b k t)
  | .vst d a b k t => some (vstBody d a b k t)
  | .vldx d a b k t => some (vldxBody d a b k t)
  | .vstx d a b k t => some (vstxBody d a b k t)
  | _ => none

/-- The instruction of a body word, none where it would be illegal at the VREP. -/
def bodyInstr (w : Word32) : Option Instr :=
  match decode w [] with
  | .ok i => if (vectorBody i).isSome then some i else none
  | .error _ => none

/-- Fetch and check the body words at an address: an illegal one traps with its word (R464). -/
def fetchBody (id : Nat) (t : Task) : Nat → Nat → Act (List Word32)
  | _, 0 => return []
  | a, n + 1 => do
    let w := (wordsOf 1 (← fetchBytes id t (a % 2 ^ 64) 4)).headD 0
    if (bodyInstr w).isNone then trap 1 (w.setWidth 64)
    return w :: (← fetchBody id t (a + 4) n)

/-- The context after the body word at which a VREP stands: the next word, the next repetition, or past the body. -/
def Vrep.advance (r : Vrep) (c : Ctx) : Ctx :=
  let (rep, idx) := if r.idx + 1 < r.body.length then (r.rep, r.idx + 1) else (r.rep + 1, 0)
  if rep < r.count then { c with vrep := some { r with rep := rep, idx := idx } }
  else { c with vrep := none, pc := r.pc + BitVec.ofNat 64 (4 + 4 * r.body.length) }

/-- One body word of a VREP that has been issued. -/
def vrepWord (r : Vrep) (id : Nat) (t : Task) (s : State) : Result :=
  let skip : Result := .next (s.setTask id { t with ctx := r.advance t.ctx })
  if r.count ≤ r.rep then
    .next (s.setTask id { t with ctx := { t.ctx with vrep := none, pc := r.pc + BitVec.ofNat 64 (4 + 4 * r.body.length) } })
  else
    match (r.body[r.idx]?).bind bodyInstr with
    | none => skip
    | some i =>
      let i' := stepped (BitVec.ofNat 5 (r.rep * r.stride)) i
      match vectorBody i' with
      | none => skip
      | some b => runAs i' b (fun _ c => r.advance c) id t s

/-- VREP: its issue reads the count and checks the body; each further turn of the thread runs one body word of one
repetition. -/
def execVrep (n : BitVec 4) (a : GReg) (st : BitVec 5) (s : State) : Result :=
  let issue : Result := run (.vrep n a st) (fun id t v => do
      let c := v.getD 0 0
      if 256 < c.toNat then trap 1 c
      let words := n.toNat + 1
      let body ← fetchBody id t (t.ctx.pc.toNat + 4) words
      let past := t.ctx.pc + BitVec.ofNat 64 (4 + 4 * words)
      if c = 0 then
        modify fun s => s.modTask id fun x => { x with ctx := { x.ctx with vrep := none } }
        return { pc := some past }
      let (rep, idx) := match t.ctx.running with
        | some r => (r.rep, r.idx)
        | none => (0, 0)
      let r : Vrep := { pc := t.ctx.pc, active := true, loaded := true, count := c.toNat, body := body,
                        stride := st.toNat, rep := rep, idx := idx }
      modify fun s => s.modTask id fun x => { x with ctx := { x.ctx with vrep := some r } }
      return { pc := some t.ctx.pc }) s
  match s.taskAt s.cur with
  | none => .fault .noTask
  | some (id, t) =>
    match t.ctx.running with
    | some r => if r.loaded then vrepWord r id t s else issue
    | none => issue

end Sys2Proof.Machine
end

