-- ==== Sys2Proof/Machine/Dispatch.lean ====
section
/-! DEFINITION. What each instruction and each event of the table does: one arm per constructor of Instr. -/

namespace Sys2Proof.Machine

def exec (i : Instr) (s : State) : Host.Outcome State Fault Refusal :=
  match i with
  | .add d a b => Sys2Proof.Machine.execAdd d a b s
  | .addImm d a imm => Sys2Proof.Machine.execAddImm d a imm s
  | .sub d a b => Sys2Proof.Machine.execSub d a b s
  | .mul d a b => Sys2Proof.Machine.execMul d a b s
  | .mulImm d a imm => Sys2Proof.Machine.execMulImm d a imm s
  | .mulh d a b => Sys2Proof.Machine.execMulh d a b s
  | .mulhu d a b => Sys2Proof.Machine.execMulhu d a b s
  | .div d a b => Sys2Proof.Machine.execDiv d a b s
  | .divu d a b => Sys2Proof.Machine.execDivu d a b s
  | .rem d a b => Sys2Proof.Machine.execRem d a b s
  | .remu d a b => Sys2Proof.Machine.execRemu d a b s
  | .and d a b => Sys2Proof.Machine.execAnd d a b s
  | .andImm d a imm => Sys2Proof.Machine.execAndImm d a imm s
  | .or d a b => Sys2Proof.Machine.execOr d a b s
  | .orImm d a imm => Sys2Proof.Machine.execOrImm d a imm s
  | .xor d a b => Sys2Proof.Machine.execXor d a b s
  | .xorImm d a imm => Sys2Proof.Machine.execXorImm d a imm s
  | .shl d a b => Sys2Proof.Machine.execShl d a b s
  | .shr d a b => Sys2Proof.Machine.execShr d a b s
  | .sra d a b => Sys2Proof.Machine.execSra d a b s
  | .shlImm d a n => Sys2Proof.Machine.execShlImm d a n s
  | .shrImm d a n => Sys2Proof.Machine.execShrImm d a n s
  | .sraImm d a n => Sys2Proof.Machine.execSraImm d a n s
  | .slt d a b => Sys2Proof.Machine.execSlt d a b s
  | .sltu d a b => Sys2Proof.Machine.execSltu d a b s
  | .sltImm d a imm => Sys2Proof.Machine.execSltImm d a imm s
  | .sltuImm d a imm => Sys2Proof.Machine.execSltuImm d a imm s
  | .min d a b => Sys2Proof.Machine.execMin d a b s
  | .max d a b => Sys2Proof.Machine.execMax d a b s
  | .minu d a b => Sys2Proof.Machine.execMinu d a b s
  | .maxu d a b => Sys2Proof.Machine.execMaxu d a b s
  | .minImm d a imm => Sys2Proof.Machine.execMinImm d a imm s
  | .maxImm d a imm => Sys2Proof.Machine.execMaxImm d a imm s
  | .minuImm d a imm => Sys2Proof.Machine.execMinuImm d a imm s
  | .maxuImm d a imm => Sys2Proof.Machine.execMaxuImm d a imm s
  | .clz d a => Sys2Proof.Machine.execClz d a s
  | .popc d a => Sys2Proof.Machine.execPopc d a s
  | .ext d a b => Sys2Proof.Machine.execExt d a b s
  | .extImm d a signed w l => Sys2Proof.Machine.execExtImm d a signed w l s
  | .lui d imm => Sys2Proof.Machine.execLui d imm s
  | .beq a b o => Sys2Proof.Machine.execBeq a b o s
  | .bne a b o => Sys2Proof.Machine.execBne a b o s
  | .blt a b o => Sys2Proof.Machine.execBlt a b o s
  | .bge a b o => Sys2Proof.Machine.execBge a b o s
  | .bltu a b o => Sys2Proof.Machine.execBltu a b o s
  | .bgeu a b o => Sys2Proof.Machine.execBgeu a b o s
  | .bmany k o => Sys2Proof.Machine.execBmany k o s
  | .bmnone k o => Sys2Proof.Machine.execBmnone k o s
  | .bmall k o => Sys2Proof.Machine.execBmall k o s
  | .jal l o => Sys2Proof.Machine.execJal l o s
  | .jalr d a imm => Sys2Proof.Machine.execJalr d a imm s
  | .ld d b h z o => Sys2Proof.Machine.execLd d b h z o s
  | .ldn d b h z o => Sys2Proof.Machine.execLdn d b h z o s
  | .st st b h z o => Sys2Proof.Machine.execSt st b h z o s
  | .lda d b c z o => Sys2Proof.Machine.execLda d b c z o s
  | .stl st b c z o => Sys2Proof.Machine.execStl st b c z o s
  | .fence k c => Sys2Proof.Machine.execFence k c s
  | .cinv a => Sys2Proof.Machine.execCinv a s
  | .cinvAll => Sys2Proof.Machine.execCinvAll s
  | .pf b h l o => Sys2Proof.Machine.execPf b h l o s
  | .amoAdd d a b dw o c => Sys2Proof.Machine.execAmoAdd d a b dw o c s
  | .amoAnd d a b dw o c => Sys2Proof.Machine.execAmoAnd d a b dw o c s
  | .amoOr d a b dw o c => Sys2Proof.Machine.execAmoOr d a b dw o c s
  | .amoXor d a b dw o c => Sys2Proof.Machine.execAmoXor d a b dw o c s
  | .amoMin d a b dw o c => Sys2Proof.Machine.execAmoMin d a b dw o c s
  | .amoMax d a b dw o c => Sys2Proof.Machine.execAmoMax d a b dw o c s
  | .amoMinn d a b dw o c => Sys2Proof.Machine.execAmoMinn d a b dw o c s
  | .amoMaxn d a b dw o c => Sys2Proof.Machine.execAmoMaxn d a b dw o c s
  | .amoSwap d a b dw o c => Sys2Proof.Machine.execAmoSwap d a b dw o c s
  | .amocas d a b dw o c => Sys2Proof.Machine.execAmocas d a b dw o c s
  | .mwait d a b dw c => Sys2Proof.Machine.execMwait d a b dw c s
  | .evwait d a => Sys2Proof.Machine.execEvwait d a s
  | .evsig a b => Sys2Proof.Machine.execEvsig a b s
  | .vadd d a b k t => Sys2Proof.Machine.execVadd d a b k t s
  | .vsub d a b k t => Sys2Proof.Machine.execVsub d a b k t s
  | .vmul d a b k t => Sys2Proof.Machine.execVmul d a b k t s
  | .vfma d a b k t => Sys2Proof.Machine.execVfma d a b k t s
  | .vmin d a b k t => Sys2Proof.Machine.execVmin d a b k t s
  | .vmax d a b k t => Sys2Proof.Machine.execVmax d a b k t s
  | .vabs d a k t => Sys2Proof.Machine.execVabs d a k t s
  | .vneg d a k t => Sys2Proof.Machine.execVneg d a k t s
  | .vand d a b k t => Sys2Proof.Machine.execVand d a b k t s
  | .vor d a b k t => Sys2Proof.Machine.execVor d a b k t s
  | .vxor d a b k t => Sys2Proof.Machine.execVxor d a b k t s
  | .vshl d a b k t => Sys2Proof.Machine.execVshl d a b k t s
  | .vshr d a b k t => Sys2Proof.Machine.execVshr d a b k t s
  | .vsra d a b k t => Sys2Proof.Machine.execVsra d a b k t s
  | .vcmp c m a b k t => Sys2Proof.Machine.execVcmp c m a b k t s
  | .vsel d a b st t => Sys2Proof.Machine.execVsel d a b st t s
  | .vaddSat d a b k t => Sys2Proof.Machine.execVaddSat d a b k t s
  | .vsubSat d a b k t => Sys2Proof.Machine.execVsubSat d a b k t s
  | .vred d a p k t => Sys2Proof.Machine.execVred d a p k t s
  | .vscan d a p k t => Sys2Proof.Machine.execVscan d a p k t s
  | .vcvt d a e k t => Sys2Proof.Machine.execVcvt d a e k t s
  | .vdec d a st k t => Sys2Proof.Machine.execVdec d a st k t s
  | .venc d a st k t => Sys2Proof.Machine.execVenc d a st k t s
  | .vrcp d a k t => Sys2Proof.Machine.execVrcp d a k t s
  | .vrsq d a k t => Sys2Proof.Machine.execVrsq d a k t s
  | .vexp2 d a k t => Sys2Proof.Machine.execVexp2 d a k t s
  | .vlog2 d a k t => Sys2Proof.Machine.execVlog2 d a k t s
  | .vbcast d g k t => Sys2Proof.Machine.execVbcast d g k t s
  | .vmovs g a l t => Sys2Proof.Machine.execVmovs g a l t s
  | .vperm d a b k t => Sys2Proof.Machine.execVperm d a b k t s
  | .vslide d a g k t => Sys2Proof.Machine.execVslide d a g k t s
  | .viota d k t => Sys2Proof.Machine.execViota d k t s
  | .vld d a b k t => Sys2Proof.Machine.execVld d a b k t s
  | .vst d a b k t => Sys2Proof.Machine.execVst d a b k t s
  | .vldx d a b k t => Sys2Proof.Machine.execVldx d a b k t s
  | .vstx d a b k t => Sys2Proof.Machine.execVstx d a b k t s
  | .vrep n a st => Sys2Proof.Machine.execVrep n a st s
  | .mset d a => Sys2Proof.Machine.execMset d a s
  | .mand d a b => Sys2Proof.Machine.execMand d a b s
  | .mor d a b => Sys2Proof.Machine.execMor d a b s
  | .mxor d a b => Sys2Proof.Machine.execMxor d a b s
  | .mnot d a => Sys2Proof.Machine.execMnot d a s
  | .mpopc d a => Sys2Proof.Machine.execMpopc d a s
  | .mfirst d a => Sys2Proof.Machine.execMfirst d a s
  | .spawn h a b => Sys2Proof.Machine.execSpawn h a b s
  | .spawnPass h a b p => Sys2Proof.Machine.execSpawnPass h a b p s
  | .gang h a => Sys2Proof.Machine.execGang h a s
  | .fork h a b => Sys2Proof.Machine.execFork h a b s
  | .fwait h a b => Sys2Proof.Machine.execFwait h a b s
  | .ftest h a => Sys2Proof.Machine.execFtest h a s
  | .fcancel h => Sys2Proof.Machine.execFcancel h s
  | .fref h st => Sys2Proof.Machine.execFref h st s
  | .fdrop h => Sys2Proof.Machine.execFdrop h s
  | .fpin h a => Sys2Proof.Machine.execFpin h a s
  | .ftake h a => Sys2Proof.Machine.execFtake h a s
  | .fdone a => Sys2Proof.Machine.execFdone a s
  | .depdec h => Sys2Proof.Machine.execDepdec h s
  | .depdecMem a => Sys2Proof.Machine.execDepdecMem a s
  | .rpoint => Sys2Proof.Machine.execRpoint s
  | .self h => Sys2Proof.Machine.execSelf h s
  | .exit a => Sys2Proof.Machine.execExit a s
  | .yield => Sys2Proof.Machine.execYield s
  | .gjoin a => Sys2Proof.Machine.execGjoin a s
  | .gleave a => Sys2Proof.Machine.execGleave a s
  | .gbar a b => Sys2Proof.Machine.execGbar a b s
  | .garrive a => Sys2Proof.Machine.execGarrive a s
  | .xput a b => Sys2Proof.Machine.execXput a b s
  | .qnew a b => Sys2Proof.Machine.execQnew a b s
  | .qfree a => Sys2Proof.Machine.execQfree a s
  | .qbind p a => Sys2Proof.Machine.execQbind p a s
  | .qpush a b => Sys2Proof.Machine.execQpush a b s
  | .qpop a b => Sys2Proof.Machine.execQpop a b s
  | .qenq h a b => Sys2Proof.Machine.execQenq h a b s
  | .qlen a b => Sys2Proof.Machine.execQlen a b s
  | .lease a b => Sys2Proof.Machine.execLease a b s
  | .unlease a => Sys2Proof.Machine.execUnlease a s
  | .rack a => Sys2Proof.Machine.execRack a s
  | .rlook a b => Sys2Proof.Machine.execRlook a b s
  | .snapopen a => Sys2Proof.Machine.execSnapopen a s
  | .snapcommit a => Sys2Proof.Machine.execSnapcommit a s
  | .snaproll a b => Sys2Proof.Machine.execSnaproll a b s
  | .srrd d r => Sys2Proof.Machine.execSrrd d r s
  | .srwr a r => Sys2Proof.Machine.execSrwr a r s
  | .trap c => Sys2Proof.Machine.execTrap c s
  | .brk c => Sys2Proof.Machine.execBrk c s
  | .eret => Sys2Proof.Machine.execEret s
  | .tinv a => Sys2Proof.Machine.execTinv a s
  | .tinvAll => Sys2Proof.Machine.execTinvAll s
  | .sleep a => Sys2Proof.Machine.execSleep a s
  | .mma hd sh a b sc => Sys2Proof.Machine.execMma hd sh a b sc s
  | .mmas hd sh a b sc => Sys2Proof.Machine.execMmas hd sh a b sc s
  | .accz hd sh => Sys2Proof.Machine.execAccz hd sh s
  | .accld hd sh a => Sys2Proof.Machine.execAccld hd sh a s
  | .accst hd sh c tsA tsB out => Sys2Proof.Machine.execAccst hd sh c tsA tsB out s
  | .tabld hd slot a => Sys2Proof.Machine.execTabld hd slot a s
  | .tcopy hd a c len => Sys2Proof.Machine.execTcopy hd a c len s
  | .tfill hd c len val => Sys2Proof.Machine.execTfill hd c len val s
  | .tgather hd a b c len => Sys2Proof.Machine.execTgather hd a b c len s
  | .tscatter hd a b c len => Sys2Proof.Machine.execTscatter hd a b c len s
  | .txchg hd sh grp => Sys2Proof.Machine.execTxchg hd sh grp s
  | .tsub hd a c len pull => Sys2Proof.Machine.execTsub hd a c len pull s
  | .tunsub hd c => Sys2Proof.Machine.execTunsub hd c s
  | .qfence hd q mask => Sys2Proof.Machine.execQfence hd q mask s
  | .dispatch p => Sys2Proof.Machine.execDispatch p s
  | .workSteal p => Sys2Proof.Machine.execWorkSteal p s
  | .timeSliceExpiry p => Sys2Proof.Machine.execTimeSliceExpiry p s
  | .preemption w => Sys2Proof.Machine.execPreemption w s
  | .saveTransferComplete t => Sys2Proof.Machine.execSaveTransferComplete t s
  | .aging t => Sys2Proof.Machine.execAging t s
  | .dispatchCountHalving cluster => Sys2Proof.Machine.execDispatchCountHalving cluster s
  | .storeBufferDrain t k => Sys2Proof.Machine.execStoreBufferDrain t k s
  | .vectorLaneBind tile group => Sys2Proof.Machine.execVectorLaneBind tile group s
  | .vectorRetire tile core => Sys2Proof.Machine.execVectorRetire tile core s
  | .laneCountHalving tile => Sys2Proof.Machine.execLaneCountHalving tile s
  | .engineCommandStart tile q => Sys2Proof.Machine.execEngineCommandStart tile q s
  | .engineCommandComplete tile core q => Sys2Proof.Machine.execEngineCommandComplete tile core q s
  | .gangPlacement vd => Sys2Proof.Machine.execGangPlacement vd s
  | .doomedFlagDelivery t => Sys2Proof.Machine.execDoomedFlagDelivery t s
  | .reclaim t => Sys2Proof.Machine.execReclaim t s
  | .barrierFire vd group => Sys2Proof.Machine.execBarrierFire vd group s
  | .xputLanding k => Sys2Proof.Machine.execXputLanding k s
  | .censusSample => Sys2Proof.Machine.execCensusSample s
  | .censusEpoch => Sys2Proof.Machine.execCensusEpoch s
  | .notice vd => Sys2Proof.Machine.execNotice vd s
  | .tideDrain => Sys2Proof.Machine.execTideDrain s
  | .tideDrainEnd => Sys2Proof.Machine.execTideDrainEnd s
  | .roleMoveComplete vd lid => Sys2Proof.Machine.execRoleMoveComplete vd lid s
  | .forward k => Sys2Proof.Machine.execForward k s
  | .tileFailingMark tile => Sys2Proof.Machine.execTileFailingMark tile s
  | .tileFailure tile => Sys2Proof.Machine.execTileFailure tile s
  | .injectionStarvation stop dir => Sys2Proof.Machine.execInjectionStarvation stop dir s
  | .berthFillStart tile core => Sys2Proof.Machine.execBerthFillStart tile core s
  | .berthFillComplete tile core => Sys2Proof.Machine.execBerthFillComplete tile core s
  | .berthDrain tile core berth => Sys2Proof.Machine.execBerthDrain tile core berth s
  | .heldPushAccept vd lid slot => Sys2Proof.Machine.execHeldPushAccept vd lid slot s
  | .remoteEnqueueArrival src vd handle value => Sys2Proof.Machine.execRemoteEnqueueArrival src vd handle value s
  | .enqueueReply k delivered => Sys2Proof.Machine.execEnqueueReply k delivered s
  | .eventArrival k => Sys2Proof.Machine.execEventArrival k s
  | .txchgMessageArrival k => Sys2Proof.Machine.execTxchgMessageArrival k s
  | .faultRecordDeferred t => Sys2Proof.Machine.execFaultRecordDeferred t s
  | .idleCollapse vd => Sys2Proof.Machine.execIdleCollapse vd s
  | .collapseComplete vd => Sys2Proof.Machine.execCollapseComplete vd s
  | .wake vd value => Sys2Proof.Machine.execWake vd value s
  | .wakeComplete vd => Sys2Proof.Machine.execWakeComplete vd s
  | .waketime vd value => Sys2Proof.Machine.execWaketime vd value s
  | .waketimeExpiry vd => Sys2Proof.Machine.execWaketimeExpiry vd s
  | .idlectl vd value => Sys2Proof.Machine.execIdlectl vd value s
  | .sleepExpiry t => Sys2Proof.Machine.execSleepExpiry t s
  | .powerInterval rs => Sys2Proof.Machine.execPowerInterval rs s
  | .currentSample die amps => Sys2Proof.Machine.execCurrentSample die amps s
  | .budget cluster value => Sys2Proof.Machine.execBudget cluster value s
  | .pctl cluster value => Sys2Proof.Machine.execPctl cluster value s
  | .dieCtl die value => Sys2Proof.Machine.execDieCtl die value s
  | .throttle cluster value => Sys2Proof.Machine.execThrottle cluster value s
  | .teleper cluster value => Sys2Proof.Machine.execTeleper cluster value s
  | .sensorRecalibration cluster sensor => Sys2Proof.Machine.execSensorRecalibration cluster sensor s
  | .semClaim port sem => Sys2Proof.Machine.execSemClaim port sem s
  | .semFree port sem => Sys2Proof.Machine.execSemFree port sem s
  | .hostLinkDown port => Sys2Proof.Machine.execHostLinkDown port s
  | .create port addr rec => Sys2Proof.Machine.execCreate port addr rec s
  | .destroy port addr rec => Sys2Proof.Machine.execDestroy port addr rec s
  | .hostRegionWrite port offset bytes value => Sys2Proof.Machine.execHostRegionWrite port offset bytes value s
  | .cxlMemAccess a => Sys2Proof.Machine.execCxlMemAccess a s
  | .peerLinkTimeout port => Sys2Proof.Machine.execPeerLinkTimeout port s
  | .pseudoChannelRetirement channel => Sys2Proof.Machine.execPseudoChannelRetirement channel s
  | .boot slotA slotB => Sys2Proof.Machine.execBoot slotA slotB s
  | .liveUpdate recs die => Sys2Proof.Machine.execLiveUpdate recs die s
  | .peerAccessArrival a => Sys2Proof.Machine.execPeerAccessArrival a s
  | .hdmDecoderCommit base => Sys2Proof.Machine.execHdmDecoderCommit base s
  | .noticeRecordDeferred vd => Sys2Proof.Machine.execNoticeRecordDeferred vd s
  | .apertureTableWrite vd imm value => Sys2Proof.Machine.execApertureTableWrite vd imm value s
  | .freeze => Sys2Proof.Machine.execFreeze s
  | .unfreeze => Sys2Proof.Machine.execUnfreeze s
  | .getVersion => Sys2Proof.Machine.execGetVersion s
  | .getCapabilities => Sys2Proof.Machine.execGetCapabilities s
  | .negotiateAlgorithms => Sys2Proof.Machine.execNegotiateAlgorithms s
  | .getDigests => Sys2Proof.Machine.execGetDigests s
  | .getCertificate => Sys2Proof.Machine.execGetCertificate s
  | .getMeasurements => Sys2Proof.Machine.execGetMeasurements s
  | .commandDone => Sys2Proof.Machine.execCommandDone s

end Sys2Proof.Machine
end

