-- ==== Sys2Proof/Machine/Turns.lean ====
section
/-! DEFINITION. Which turns can be taken, which of them comes when the agenda is empty, and what loads a program where none
has been (notes/assumptions/3.md, 5.md). -/

namespace Sys2Proof.Machine

/-! ### Frozen, or not yet running (R333, R336) -/

/-- What the outside world can do to a module whose clocks are stopped. -/
def Instr.whileFrozen : Instr → Bool
  | .freeze | .unfreeze => true
  | .hostRegionWrite _ offset bytes value => resumes offset bytes value
  | _ => false

/-- The requests that hosts and peers make. -/
def Instr.request : Instr → Bool
  | .semClaim .. | .semFree .. | .create .. | .destroy .. | .wake .. | .waketime .. | .idlectl .. | .hostRegionWrite ..
  | .budget .. | .pctl .. | .dieCtl .. | .throttle .. | .teleper .. | .cxlMemAccess _ | .peerAccessArrival _
  | .remoteEnqueueArrival .. | .hdmDecoderCommit _ | .getVersion | .getCapabilities | .negotiateAlgorithms | .getDigests
  | .getCertificate | .getMeasurements => true
  | _ => false

def Turn.request : Turn → Bool
  | .event i => Instr.request i
  | .hostRead .. | .peerWrite .. | .hostWrites .. | .statusRead => true
  | _ => false

/-- What a module in reset does. -/
def Instr.beforeBoot : Instr → Bool
  | .boot .. => true
  | _ => false

/-- Does a turn take place? With the clocks stopped, and before boot, most do not. The read-out path works with the clocks
stopped (R336); the status registers say what became of boot (R333). -/
def State.takes (s : State) : Turn → Bool
  | .event i => (!s.freeze || Instr.whileFrozen i) && (s.boot = .running || Instr.beforeBoot i)
  | .hostWrites .. | .readOut _ => s.boot = .running
  | .statusRead => !s.freeze
  | _ => !s.freeze && s.boot = .running

/-! ### The turns of an empty agenda -/

def allEngines : List EngQ := [.matrix, .copy, .collective, .stream]

/-- Turns of a task: its thread's next instruction, and what can happen to it. -/
def taskTurns (x : Nat × Task) : List Turn :=
  (match x.2.status with
   | .running p => [Turn.thread p, .event (.timeSliceExpiry p)]
   | _ => []) ++
  [.event (.preemption x.1), .event (.saveTransferComplete x.1), .event (.aging x.1), .event (.doomedFlagDelivery x.1),
   .event (.reclaim x.1), .event (.faultRecordDeferred x.1), .event (.sleepExpiry x.1), .event (.storeBufferDrain x.1 0)]

/-- Turns of a tile that a device owns. -/
def tileTurns (x : Nat × Tile) : List Turn :=
  if x.2.owner.isNone then [] else
  let n := x.1
  let cores := List.range 4
  ((List.range 16).flatMap fun i => [Turn.event (.dispatch ⟨n, i / 4, i % 4⟩), .event (.workSteal ⟨n, i / 4, i % 4⟩)]) ++
  cores.flatMap (fun c => [Turn.event (.vectorLaneBind n c), .event (.vectorRetire n c), .packet n c,
    .event (.berthFillStart n c), .event (.berthFillComplete n c)]) ++
  allEngines.map (fun q => Turn.event (.engineCommandStart n q)) ++
  (cores.flatMap fun c => allEngines.map fun q => Turn.event (.engineCommandComplete n c q)) ++
  (cores.flatMap fun c => (List.range 32).map fun b => Turn.event (.berthDrain n c b)) ++
  [.event (.laneCountHalving n)]

/-- Turns of a device. -/
def deviceTurns (x : Nat × Vd) : List Turn :=
  let v := x.1
  [Turn.event (.gangPlacement v), .event (.notice v), .event (.noticeRecordDeferred v), .event (.idleCollapse v),
   .event (.collapseComplete v), .event (.wakeComplete v), .event (.waketimeExpiry v)] ++
  x.2.groups.map (fun g => .event (.barrierFire v g.1)) ++
  x.2.rolemap.filterMap (fun e => if e.2.state = 2 then some (.event (.roleMoveComplete v e.1)) else none) ++
  x.2.queues.map fun q => .event (.heldPushAccept v q.1.1 q.1.2)

/-- Turns of a packet: its next move, or what it does at its destination, where an old home sends it on (R162). What another module answers comes from outside. -/
def State.packetTurns (s : State) (x : Pkt × Nat) : List Turn :=
  if x.1.loc ≠ .arrived then [.hop x.2] else
  if s.astray x.1 then [.arrive x.2] else
  if x.1.forwards then [.event (.forward x.2)] else
  match x.1.body with
  | .event .. => [.event (.eventArrival x.2)]
  | .xput .. => [.event (.xputLanding x.2)]
  | .enqueue _ _ _ m _ _ _ => if m = s.moduleId then [.event (.enqueueReply x.2 true)] else []
  | .txchg .. => [.event (.txchgMessageArrival x.2)]
  | .store .. | .engine .. | .request .. | .plain => [.arrive x.2]

/-- An entry that waits for a link may starve. -/
def State.starvationTurns (s : State) (p : Pkt) : List Turn :=
  if p.since.isNone then [] else
  match nextMove p.stop (s.dstOf p) with
  | .ring d => [.event (.injectionStarvation p.stop d)]
  | _ => []

/-- Every turn that the module takes by itself. -/
def State.turns (s : State) : List Turn :=
  s.tasks.flatMap taskTurns ++ s.tiles.flatMap tileTurns ++ s.vds.flatMap deviceTurns ++
  s.packets.zipIdx.flatMap s.packetTurns ++ s.packets.flatMap s.starvationTurns ++
  (if s.draining then (List.range 4).map Turn.shift else []) ++
  (List.range 256).map (fun c => .event (.dispatchCountHalving c)) ++
  [.event .censusSample, .event .censusEpoch, .event .tideDrain, .event .tideDrainEnd, .event .commandDone,
   .wait (s.cycles + 1)]

/-- One of them, openly; none while the clocks are stopped or the module is in reset. -/
def State.choose (s : State) : Option Turn × State :=
  if s.freeze ∨ s.boot ≠ .running then (none, s) else
  let l := s.turns
  (l[Config.pick s.draws % max l.length 1]?, { s with draws := s.draws + 1 })

/-- The cells of a page table that maps the 64 KiB page at 0x200000 to the frame at 0x100000, executable, with A and D
set: nodes at 0x10000, 0x11000, 0x12000, 0x13000 and 0x14000. -/
def programTable : List (Nat × Nat) :=
  [(0x10000, 0x11001), (0x11000, 0x12001), (0x12000, 0x13001), (0x13008, 0x14001), (0x14000, 0x10003D)]

/-- Device 0 with that page table, tile 0 in compute role, and one task on its first thread, at 0x200000, where the 32
bytes of `w` stand; its turn is the next. -/
def State.withProgram (s : State) (w : Nat) : State :=
  let s := programTable.foldl (fun s c => { s with mem := s.mem.setAll (cellsAt c.1 (toBytes 8 c.2)) }) s
  let s := { s with mem := s.mem.setAll (cellsAt 0x100000 (toBytes 32 w)) }
  let vd : Vd := { root := 0x10000, tileQuota := 1, futQuota := 256, weight := 1, exclusive := [0],
                   rolemap := [(0, { gen := 1, role := 1, phys := 0 })],
                   futs := [(0, { kind := 1, state := 3, reach := 1, ran := true })] }
  let s := { s with vds := put s.vds 0 vd, boot := .running, freeze := false }
  let s := s.setTile 0 { owner := some (0, 0), role := 1, dark := false }
  let t : Task := { vd := 0, ident := .ordinary 0, status := .running ⟨0, 0, 0⟩, ran := true,
                    ctx := { pc := 0x200000 } }
  { s with tasks := put (s.tasks.filter fun x => x.2.status ≠ .running ⟨0, 0, 0⟩) s.nextTask t,
           nextTask := s.nextTask + 1, agenda := [.thread ⟨0, 0, 0⟩] }

end Sys2Proof.Machine
end

