-- ==== Sys2Proof/Machine/Step.lean ====
section
/-! DEFINITION. One step of the module: the turn that comes next, then the passing of time. -/

namespace Sys2Proof.Machine

/-- An error strikes (R197): a corrected one is counted, an uncorrectable one stays until the line is rewritten. -/
def State.memoryError (s : State) (line : Nat) (corrected : Bool) : State :=
  if corrected then { s with corrections := s.corrections + 1 }
  else if line ∈ s.errored then s else { s with errored := line :: s.errored }
/-- A word of a tile's L1, of a line that stands there, holds an uncorrectable error until the line is filled again. -/
def State.l1Error (s : State) (tile line : Nat) : State :=
  let t := s.tile tile
  if (l1Look t.l1 line).isNone ∨ line ∈ t.l1Err then s else s.setTile tile { t with l1Err := line :: t.l1Err }
def State.accError (s : State) (tile core i : Nat) (corrected : Bool) : State :=
  if corrected then { s with corrections := s.corrections + 1 }
  else s.modCore tile core fun c => if i ∈ c.accErr then c else { c with accErr := i :: c.accErr }

/-- One turn: a thread fetches, decodes and executes; an event of the table takes place; an engine performs a packet; a packet
moves; the outside reaches the module. With the clocks stopped, a request of a host or a peer is aborted (R336). -/
def turn (s : State) (t : Turn) : Result :=
  if !s.takes t then .next (if s.freeze ∧ t.request then { s with response := answerAbort } else s) else
  match t with
  | .thread p =>
    match fetchTurn s p with
    | .inl r => r
    | .inr (i, s') => exec i s'
  | .event i => exec i s
  | .packet n c => .next (s.enginePacket n c)
  | .hop k => .next (s.hop k)
  | .arrive k => .next (s.receive k)
  | .shift d => .next (s.shift d)
  | .hostRead p o n => .next (s.hostRead p o n)
  | .peerWrite o n x => .next (s.peerWrite o n x)
  | .hostWrites o x p y => .next (s.hostWrites o x p y)
  | .memoryError l c => .next (s.memoryError l c)
  | .l1Error n l => .next (s.l1Error n l)
  | .statusRead => .next { s with response := [0, s.cxlStatus] }
  | .readOut n => .next (s.readOut n)
  | .accError n c i f => .next (s.accError n c i f)
  | .wait till => .next (s.waitTill till)

/-- The next turn stands at the head of the agenda; with an empty agenda it is one of those that the module takes by
itself, and which one is open. -/
def step (s : State) : Host.Outcome State Fault Refusal :=
  match s.agenda with
  | t :: rest => tickResult (turn { s with agenda := rest } t)
  | [] =>
    match s.choose with
    | (some t, s') => tickResult (turn s' t)
    | (none, s') => .next s'.tick

/-- `s` with an instruction of `nbits` bits, `w` its value and zero above, stored where the next step fetches: device 0
with a page table at 0x10000, its code page at frame 0x100000, tile 0 in compute role, and one task on its first thread
whose next turn it is (notes/assumptions/5.md). -/
def State.withFetchWord (s : State) (nbits w : Nat) : State :=
  s.withProgram (w % 2 ^ nbits)

end Sys2Proof.Machine
end

