-- ==== Sys2Proof/Safety.lean ====
section
/-! DEFINITION. What a safe run is, and the terms that claims about a step use. -/

namespace Sys2Proof

/-- `n` steps from a state all answer a next state. -/
def Safe (s : Machine.State) : Nat → Prop
  | 0 => True
  | n + 1 =>
    match Machine.step s with
    | .next t => Safe t n
    | _ => False

namespace Machine

/-! ### A thread that issues an instruction -/

/-- Task `id`, which is `t`, runs on the thread whose turn it is. -/
abbrev State.runs (s : State) (id : Nat) (t : Task) : Prop := s.taskAt s.cur = some (id, t) ∧ s.task? id = some t

/-- It is not stopped at a reclamation point (R135), and its mode may run the instruction (R43, R54). -/
abbrev Task.proceeds (t : Task) (i : Instr) : Prop :=
  ¬ (t.delivered = true ∧ Instr.isPoint i = true) ∧ ¬ (t.ctx.mode = .task ∧ Instr.needsSupervisor i = true)

/-- Every queue port among these registers holds its latch (R340). -/
abbrev Ctx.latched (c : Ctx) (l : List GReg) : Prop :=
  ∀ r ∈ l, r.isPort = true → (c.port (r.toNat - 24)).latch.isSome = true

/-- The thread issues `i` with its sources at hand; no move holds the packets of a queue it pushes to, or stores and
exchanges of the task (R162); nothing is kept for it that a wake gave, or that it did before a refused push (R407, R416). -/
abbrev State.issues (s : State) (i : Instr) (id : Nat) (t : Task) : Prop :=
  s.runs id t ∧ t.proceeds i ∧ t.ctx.latched i.sources ∧ s.destHeld t i.dests = false ∧ s.heldStores id = false ∧
    t.keptFor i = none

/-- The pc after `i` where no transfer is taken (R34, R56). -/
def nextPc (i : Instr) (c : Ctx) : Word := c.pc + (if i.isCommand then 32 else 4)

/-- `s` with task `id` gone on past `i`: source latches cleared, a wake, what was kept for its mode and a settled fault record
forgotten, and `f` done to its registers; nothing else. -/
def State.wrote (s : State) (id : Nat) (i : Instr) (f : Ctx → Ctx) : State :=
  s.modTask id fun t =>
    { t.unkeep with ctx := f { t.ctx.clearLatches i.sources with pc := nextPc i t.ctx }, woke := none, fault := none }

/-- Values written to general registers, in order. -/
def Ctx.writes (c : Ctx) : List (GReg × Word) → Ctx
  | [] => c
  | (d, x) :: l => (c.setG d x).writes l

/-- Every task of `s` is there in `s'`, with the same registers. -/
def State.sameRegs (s s' : State) : Prop := ∀ u x, s.task? u = some x → ∃ y, s'.task? u = some y ∧ y.ctx = x.ctx

/-! ### The invariant -/

/-- Memory has its canonical form, and no two tasks, tiles or devices share a number. -/
structure State.Inv (s : State) : Prop where
  mem : s.mem.wf
  tasks : (s.tasks.map Prod.fst).Nodup
  tiles : (s.tiles.map Prod.fst).Nodup
  vds : (s.vds.map Prod.fst).Nodup

end Machine

end Sys2Proof
end

