-- ==== Sys2Proof/Certificates/Slice0/Obligations.lean ====
section
/-! DEFINITION. The statements for the provers. A statement about an instruction gives the state it answers as a whole, so
that what the equation does not name is unchanged: `State.wrote` moves the pc of one task to the next
instruction, changes the registers that its last argument names, empties the latches of the source ports and forgets a
wait that is over, and changes nothing else; that what comes before it leaves registers alone is `AccessFrame`. -/

section Statements

open Sys2Proof Sys2Proof.Machine

/-! ### Reset, one step, decoding -/

/-- R19, R333: after reset no firmware runs, every tile is dark and no device's, no device, task or packet exists, CYCLES
is zero, and no byte of memory is listed. -/
def Obligations.ResetState : Prop :=
  State.reset.boot = .inReset ∧ State.reset.mem = [] ∧ State.reset.vds = [] ∧ State.reset.tasks = [] ∧
  State.reset.packets = [] ∧ State.reset.cycles = 0 ∧
  ∀ n, (State.reset.tile n).dark = true ∧ (State.reset.tile n).owner = none

/-- The invariant holds right after reset. -/
def Obligations.ResetInvariant : Prop := State.reset.Inv

/-- Every step keeps the invariant: memory in its canonical form, tasks, tiles and devices under distinct numbers. -/
def Obligations.StepKeepsInvariant : Prop :=
  ∀ s t : State, s.Inv → step s = .next t → t.Inv

/-- A turn (R62, R71): where the issue slot of the core is the thread's and its fetch answers an instruction, the step is
that instruction's, and then time passes; an event's turn is the event. `takes`: the clocks run and the module has booted, or
the event may come nevertheless (R333, R336). -/
def Obligations.StepRunsDecoded : Prop :=
  (∀ (s s1 s' : State) (p : Place) (rest : List Turn) (id : Nat) (t : Task) (i : Instr),
    s.agenda = .thread p :: rest →
    ({ s with agenda := rest } : State).takes (.thread p) = true →
    ({ s with agenda := rest, cur := p } : State).issueSlot p.tile p.core = (some p.thread, s1) →
    (s1.issuing p).taskAt p = some (id, t) →
    fetch id t (s1.issuing p) = .ok (i, s') →
    step s = tickResult (exec i s')) ∧
  (∀ (s : State) (i : Instr) (rest : List Turn),
    s.agenda = .event i :: rest → ({ s with agenda := rest } : State).takes (.event i) = true →
    step s = tickResult (exec i { s with agenda := rest }))

/-- A line of code is in the tile's instruction cache, or the cluster's byte budget admits the 64 bytes of its fill (R317). -/
abbrev Sys2Proof.Machine.State.codeGranted (s : State) (t : Task) (a : Nat) : Prop :=
  a / 64 ∈ (s.tile t.last.tile).icache ∨ (s.cluster (clusterOf t.last.tile)).grants s.cycles 64 = true

/-- What the reading of a line of code leaves: the line in the instruction cache, its 64 bytes counted where it was not there. -/
abbrev Sys2Proof.Machine.State.codeRead (s : State) (t : Task) (a : Nat) : State :=
  (if a / 64 ∈ (s.tile t.last.tile).icache then s else s.grant t.last.tile 64).fetched t.last.tile a

/-- A fetch reads the bytes at pc, four for a scalar instruction, the least significant at the lowest address (R34); a
word of major opcode 0x3F at a multiple of 32 is word 0 of a tile command, and all eight words are decoded (R56, R62). Their
lines come into the tile's instruction cache (R18), each within the byte budget (R317); where that admits no more, the thread
issues nothing in this turn. -/
def Obligations.FetchDecodes : Prop :=
  (∀ (s s' : State) (id : Nat) (t : Task) (p : Phys) (a : Nat) (m : Bool) (i : Instr),
    resolve id t t.ctx.pc.toNat .fetch s = .ok ((.phys a m, p), s') →
    (¬ s'.codeGranted t a → fetch id t s = .error .hold) ∧
    (s'.codeGranted t a → isCommandWord (BitVec.ofNat 32 (ofBytes (s'.readKey a 4))) = false →
      decode (BitVec.ofNat 32 (ofBytes (s'.readKey a 4))) [] = .ok i →
      fetch id t s = .ok (i, s'.codeRead t a))) ∧
  (∀ (s s1 s2 : State) (id : Nat) (t : Task) (p q : Phys) (a b : Nat) (m n : Bool) (i : Instr),
    resolve id t t.ctx.pc.toNat .fetch s = .ok ((.phys a m, p), s1) → s1.codeGranted t a →
    resolve id t t.ctx.pc.toNat .fetch (s1.codeRead t a) = .ok ((.phys b n, q), s2) → s2.codeGranted t b →
    isCommandWord (BitVec.ofNat 32 (ofBytes (s1.readKey a 4))) = true → t.ctx.pc.toNat % 32 = 0 →
    decode (BitVec.ofNat 32 (ofBytes (s1.readKey a 4))) (wordsOf 7 ((s2.readKey b 32).drop 4)) = .ok i →
    fetch id t s = .ok (i, s2.codeRead t b))

/-- R62: a word that decodes to no instruction, and word 0 of a tile command that is not 32-byte aligned, trap with
cause 0x01 and the word as TVAL, and the turn ends with that. -/
def Obligations.IllegalWordTraps : Prop :=
  ∀ (s s1 s' : State) (id : Nat) (t : Task) (p : Phys) (a : Nat) (m : Bool),
    s.issueSlot s.cur.tile s.cur.core = (some s.cur.thread, s1) →
    let u := s1.issuing s.cur
    u.taskAt s.cur = some (id, t) → u.task? id = some t → u.heldStores id = false →
    resolve id t t.ctx.pc.toNat .fetch u = .ok ((.phys a m, p), s') → s'.codeGranted t a →
    let w : Word32 := BitVec.ofNat 32 (ofBytes (s'.readKey a 4))
    (isCommandWord w = false ∧ (∃ e, decode w [] = .error e)) ∨ (isCommandWord w = true ∧ t.ctx.pc.toNat % 32 ≠ 0) →
    fetchTurn s s.cur = .inl (.next (u.takeTrap id 1 (w.setWidth 64) 0))

/-- Words written out from the encodings of R44 to R55 decode to the instructions they stand for. -/
def Obligations.DecodeWords : Prop :=
  decode 0b000001_00101_00001_00010_00000_000000#32 [] = .ok (.add 5 1 2) ∧
  decode 0b000010_00101_00001_1111111111111111#32 [] = .ok (.addImm 5 1 0xFFFF) ∧
  decode 0b010000_00001_00010_1111111111111110#32 [] = .ok (.beq 1 2 0xFFFE) ∧
  decode 0b100000_00011_00100_00_11_000000001000#32 [] = .ok (.ld 3 4 .dflt .d 8)

/-- Decoding what the encoder writes gives the instruction back, with every operand, for every well-formed instruction
that has an encoding. -/
def Obligations.DecodeEncode : Prop :=
  ∀ (i : Instr) (w : Word32) (rest : List Word32), i.WellFormed → encode i = w :: rest → decode w rest = .ok i

/-! ### Traps (R266 to R268, R43, R54) and reclamation points (R135) -/

/-- TVEC is settled for a task: it did not change within the last 64 master cycles of its die, or changed to what it was
(R4, R433). -/
abbrev Sys2Proof.Machine.State.tvecSettled (s : State) (t : Task) : Prop :=
  s.within (s.vd t.vd).tvecChanged t.last.tile 64 = false ∨ (s.vd t.vd).tvecOld = (s.vd t.vd).tvec

/-- A task as trap entry leaves it (R266, R267). -/
def Sys2Proof.Machine.Task.trapped (t : Task) (vec : Word) (cause : Nat) (tval : Word) (code : Nat) : Task :=
  { t with woke := none, fault := none, tinv := none, ctx := { t.ctx with
      tcause := BitVec.ofNat 64 (code * 2 ^ 16 + cause), tval := tval, tepc := t.ctx.pc,
      tstatus := (t.ctx.running.map fun r => BitVec.ofNat 64 (r.rep * 2 ^ 8 + r.idx * 2 ^ 4)).getD 0,
      mode := .supervisor, pc := vec, vrep := none, outer := t.ctx.running } }

/-- R266: taking a trap writes TCAUSE, TVAL, TEPC and TSTATUS, enters supervisor mode and goes to TVEC; TSTATUS takes the
repetition and the body word of a VREP that runs, which is kept for the return, else zero, and nothing else of the task or
of the machine changes but the end of a wait and the record of a fault that it has met. With no TVEC, or
in supervisor mode already, a trap ends the task, FAILED with the trap's cause; a doomed task is stopped. -/
def Obligations.TrapEntry : Prop :=
  ∀ (s : State) (id : Nat) (t : Task) (cause code : Nat) (tval : Word),
    s.task? id = some t → t.waitReacher = none → s.tvecSettled t →
    (t.delivered = false → (s.vd t.vd).tvec ≠ 0 → t.ctx.mode = .task →
      s.takeTrap id cause tval code = s.setTask id (t.trapped (s.vd t.vd).tvec cause tval code)) ∧
    (t.delivered = false → (s.vd t.vd).tvec = 0 ∨ t.ctx.mode = .supervisor →
      s.takeTrap id cause tval code = s.endTask id (.failed cause)) ∧
    (t.delivered = true → s.takeTrap id cause tval code = s.setTask id { t with status := .stopping (some t.last) })

/-- R358, R443: TRAP and BRK trap with causes 0x11 and 0x10 in either mode: trap entry writes the code, TVAL zero and the
instruction's own address as TEPC; in supervisor mode and with TVEC zero the task fails with the cause, and a doomed task
stops there. `heldStores`: no move holds the stores of the task, for which its end waits (R162). -/
def Obligations.TrapInstructions : Prop :=
  ∀ (s : State) (id : Nat) (t : Task) (c : BitVec 12) (i : Instr) (cause : Nat),
    (i = .trap c ∧ cause = 0x11 ∨ i = .brk c ∧ cause = 0x10) → s.runs id t → t.waitReacher = none → s.tvecSettled t → s.heldStores id = false →
    (t.delivered = false → (s.vd t.vd).tvec ≠ 0 → t.ctx.mode = .task → exec i s =
      .next (s.setTask id (t.trapped (s.vd t.vd).tvec cause 0 c.toNat))) ∧
    (t.delivered = false → (s.vd t.vd).tvec = 0 ∨ t.ctx.mode = .supervisor → exec i s =
      .next (s.endTask id (.failed cause))) ∧
    (t.delivered = true → exec i s = .next (s.setTask id { t with status := .stopping (some t.last) }))

/-- R268: ERET in supervisor mode. With fail clear it goes to TEPC in the mode of pmode, and a VREP resumes at repetition
rep, body word idx: the one that this trap broke off, or one whose count and body are read again; with fail set, the task
ends FAILED with TCAUSE's cause. Nothing else changes, but that what the task keeps for an instruction to which it
does not return is dropped (notes/assumptions/33.md). -/
def Obligations.EretReturns : Prop :=
  ∀ (s : State) (id : Nat) (t : Task),
    s.runs id t → t.ctx.mode = .supervisor → s.heldStores id = false →
    let rep := bvBits t.ctx.tstatus 15 8
    let idx := bvBits t.ctx.tstatus 7 4
    let back : Mode := if t.ctx.tstatus.getLsbD 0 then .supervisor else .task
    let kept (r : Vrep) : Prop := t.ctx.outer = some r ∧ r.pc = t.ctx.tepc ∧ r.loaded = true
    (t.ctx.tstatus.getLsbD 1 = true →
      exec .eret s = .next (s.endTask id (.failed (bvBits t.ctx.tcause 7 0)))) ∧
    (t.ctx.tstatus.getLsbD 1 = false → ∃ v : Option Vrep,
      exec .eret s = .next (s.setTask id { t with
        kept := t.kept.filter fun k => k.mode ≠ back ∨ k.pc = t.ctx.tepc
        ctx := { t.ctx with pc := t.ctx.tepc, mode := back, outer := none, vrep := v } }) ∧
      (∀ r, kept r → v = some { r with rep := rep, idx := idx }) ∧
      ((∀ r, ¬ kept r) → rep = 0 → idx = 0 → v = none) ∧
      ((∀ r, ¬ kept r) → rep ≠ 0 ∨ idx ≠ 0 → ∃ r, v = some r ∧ r.pc = t.ctx.tepc ∧ r.active = true ∧ r.loaded = false ∧
        r.rep = rep ∧ r.idx = idx))

/-- R43, R54: in task mode ERET, TINV, SRRD of 0x100 to 0x104 and SRWR of 2 and of 0x100 to 0x104 trap with cause 0x14 and
the instruction word as TVAL; they do nothing else. Any other number that either instruction may not name is reserved, and
decode refuses it in either mode (R43, R62). -/
def Obligations.PrivilegeTraps : Prop :=
  ∀ (s : State) (id : Nat) (t : Task) (i : Instr),
    s.runs id t → t.ctx.mode = .task → t.delivered = false → s.heldStores id = false → i.WellFormed →
    (i = .eret ∨ i = .tinvAll ∨ (∃ a, i = .tinv a) ∨ (∃ d r, i = .srrd d r ∧ 0x100 ≤ r.toNat ∧ r.toNat ≤ 0x104) ∨
      (∃ a r, i = .srwr a r ∧ (r.toNat = 2 ∨ 0x100 ≤ r.toNat ∧ r.toNat ≤ 0x104))) →
    exec i s = .next (s.takeTrap id 0x14 (Instr.word i) 0)

/-- R135: a doomed task whose flag has reached its core stops at a reclamation point, before the instruction has any
effect: the task is left as it was but for its status. Every tile command is one, and every instruction of which a field
names a queue port; a VREP that runs has none of its own fields left to read. -/
def Obligations.DoomedStops : Prop :=
  ∀ (s : State) (id : Nat) (t : Task) (i : Instr),
    s.runs id t → t.delivered = true → (∀ n a e, i = .vrep n a e → t.ctx.running = none) →
    (i = .rpoint ∨ i = .yield ∨ (∃ a, i = .sleep a) ∨ (∃ a, i = .exit a) ∨ (∃ a, i = .fdone a) ∨
      (∃ h a b, i = .fwait h a b) ∨ (∃ h a b, i = .spawn h a b) ∨ (∃ h a b p, i = .spawnPass h a b p) ∨
      (∃ h a, i = .gang h a) ∨ (∃ h a b, i = .fork h a b) ∨ (∃ h a b, i = .qenq h a b) ∨ (∃ a b, i = .gbar a b) ∨
      (∃ a b, i = .qpop a b) ∨ (∃ a b, i = .qpush a b) ∨ (∃ p a, i = .qbind p a) ∨ (∃ d a, i = .evwait d a) ∨
      (∃ d a b w c, i = .mwait d a b w c) ∨ i.isCommand = true ∨ (∃ r ∈ i.sources ++ i.dests, r.isPort = true)) →
    exec i s = .next (s.setTask id { t with status := .stopping (some s.cur) })

/-! ### Queue ports (R39, R40, R209, R340) -/

/-- R406: the entry `x` that a pop of a queue takes, and the entries `r` that are left: the first of a plain queue, and of a
priority queue the first of those whose bits 63 to 32 are smallest. -/
def Sys2Proof.Machine.Queue.gives (q : Queue) (x : Word) (r : List Word) : Prop :=
  ∃ k, q.entries[k]? = some x ∧ r = q.entries.eraseIdx k ∧ (q.prio = false → k = 0) ∧
    (q.prio = true → ∀ j y, q.entries[j]? = some y →
      bvBits x 63 32 < bvBits y 63 32 ∨ bvBits x 63 32 = bvBits y 63 32 ∧ k ≤ j)

/-- Source ports pop first (R340): an instruction whose ports all answer does what it does with their latches full, of every
form. A pop through a bound port (R40, R406, R416) takes the entry whose turn it is, holds it in the port's latch, and is an
acquire at module scope; of an empty queue it registers the task as a popper, and the task parks. -/
def Obligations.PortSources : Prop :=
  (∀ (s s' : State) (id : Nat) (t t' : Task) (i : Instr),
    (∀ n a e, i = .vrep n a e → t.ctx.running = none ∧ t'.ctx.running = none) →
    s.runs id t → t.proceeds i → popAll s id i.sources = (s', none) →
    s'.runs id t' → t'.proceeds i → t'.ctx.latched i.sources → s'.cur = s.cur →
    exec i s = exec i s') ∧
  (∀ (s : State) (id n : Nat) (t : Task) (q : Queue),
    n < 8 → s.task? id = some t → (t.ctx.port n).latch = none → (t.ctx.port n).bound ≠ 0 →
    s.queueHeld t.vd (t.ctx.port n).bound = false → s.packets = [] →
    s.queue? t.vd (t.ctx.port n).bound = some q →
    (∀ x r, q.gives x r → popPort s id n =
      (((s.setQueue t.vd (t.ctx.port n).bound { q with entries := r }).modTask id fun u =>
        { u with ctx := t.ctx.setPort n { t.ctx.port n with latch := some x } }).acquire id .module, none)) ∧
    (q.entries = [] → popPort s id n = (s.setQueue t.vd (t.ctx.port n).bound { q with poppers := q.poppers ++ [id] },
      some (.park (.pop (t.ctx.port n).bound (some n))
        (s.setQueue t.vd (t.ctx.port n).bound { q with poppers := q.poppers ++ [id] })))))

/-- R40: an unbound port traps with cause 0x0C and its number as TVAL, as a source and as a destination, and a queue
whose home is moving holds the thread before the instruction has any effect (R162). Here of ADD, whose forms name up to
three ports. -/
def Obligations.PortFaults : Prop :=
  ∀ (s : State) (id : Nat) (t : Task) (d a b : GReg),
    s.runs id t → t.delivered = false → s.heldStores id = false →
    (a.isPort = true → (t.ctx.port (a.toNat - 24)).latch = none → (t.ctx.port (a.toNat - 24)).bound = 0 →
      exec (.add d a b) s = .next (s.takeTrap id 0xC (BitVec.ofNat 64 (a.toNat - 24)) 0)) ∧
    (a.isPort = false → b.isPort = false → d.isPort = true → (t.ctx.port (d.toNat - 24)).bound = 0 →
      exec (.add d a b) s = .next (s.takeTrap id 0xC (BitVec.ofNat 64 (d.toNat - 24)) 0)) ∧
    (a.isPort = false → b.isPort = false → d.isPort = true → (t.ctx.port (d.toNat - 24)).bound ≠ 0 →
      s.queueHeld t.vd (t.ctx.port (d.toNat - 24)).bound = true → exec (.add d a b) s = .next s)

/-! ### Integer instructions (R349, R355, R360, R362, R369, R392, R395, R400, R402, R404, R419, R423, R426, R436, R467) -/

/-- The value that an integer instruction gives for its first and second source. -/
def Sys2Proof.Machine.aluValue (i : Instr) (x y : Word) : Option Word :=
  match i with
  | .add .. => some (x + y)
  | .addImm _ _ n => some (x + n.signExtend 64)
  | .sub .. => some (x - y)
  | .mul .. => some (x * y)
  | .mulImm _ _ n => some (x * n.signExtend 64)
  | .mulh .. => some (BitVec.ofInt 64 (x.toInt * y.toInt / 2 ^ 64))
  | .mulhu .. => some (BitVec.ofNat 64 (x.toNat * y.toNat / 2 ^ 64))
  | .div .. => some (if y = 0 then BitVec.allOnes 64 else x.sdiv y)
  | .divu .. => some (if y = 0 then BitVec.allOnes 64 else x / y)
  | .rem .. => some (if y = 0 then x else x.srem y)
  | .remu .. => some (x % y)
  | .and .. => some (x &&& y)
  | .andImm _ _ n => some (x &&& n.setWidth 64)
  | .or .. => some (x ||| y)
  | .orImm _ _ n => some (x ||| n.setWidth 64)
  | .xor .. => some (x ^^^ y)
  | .xorImm _ _ n => some (x ^^^ n.setWidth 64)
  | .shl .. => some (x <<< (y.toNat % 64))
  | .shr .. => some (x >>> (y.toNat % 64))
  | .sra .. => some (x.sshiftRight (y.toNat % 64))
  | .shlImm _ _ n => some (x <<< n.toNat)
  | .shrImm _ _ n => some (x >>> n.toNat)
  | .sraImm _ _ n => some (x.sshiftRight n.toNat)
  | .slt .. => some (if x.slt y then 1 else 0)
  | .sltu .. => some (if x.ult y then 1 else 0)
  | .sltImm _ _ n => some (if x.slt (n.signExtend 64) then 1 else 0)
  | .sltuImm _ _ n => some (if x.ult (n.setWidth 64) then 1 else 0)
  | .min .. => some (if x.slt y then x else y)
  | .max .. => some (if x.slt y then y else x)
  | .minu .. => some (if x.ult y then x else y)
  | .maxu .. => some (if x.ult y then y else x)
  | .minImm _ _ n => some (if x.slt (n.signExtend 64) then x else n.signExtend 64)
  | .maxImm _ _ n => some (if x.slt (n.signExtend 64) then n.signExtend 64 else x)
  | .minuImm _ _ n => some (if x.ult (n.setWidth 64) then x else n.setWidth 64)
  | .maxuImm _ _ n => some (if x.ult (n.setWidth 64) then n.setWidth 64 else x)
  | .popc .. => some (BitVec.ofNat 64 ((List.range 64).countP fun k => x.getLsbD k))
  | .clz .. => some (BitVec.ofNat 64 ((List.range 64).takeWhile fun k => !x.getLsbD (63 - k)).length)
  | .lui _ n => some (n.signExtend 64 <<< 16)
  | _ => none

/-- What pushing through a destination port leaves (R39, R40, R417): a release at module scope, the push in its packet, and a
park where the queue holds it; none where the port's queue is gone by then. -/
def Sys2Proof.Machine.State.pushed (s : State) (id : Nat) (t : Task) (d : GReg) (v : Word) : Option State :=
  let n := d.toNat - 24
  let h := (t.ctx.port n).bound
  let s1 := (s.release id .module).deliverMine id t.last.tile t.vd h
  (s1.queue? t.vd h).map fun q =>
    let r := s1.push t.vd h q v (.task id)
    let u := r.1.message 0x20 t.last.tile t.vd v (.tile t.vd (qLid h)) h.toNat
    if r.2 then u.park id (.push [(h, some n)] none t.ctx) else u

/-- What is left once an instruction has written its destinations, of which `l` are pushes that are held: they park the task
(R407), which keeps what the instruction has done where it is not to be done again (notes/assumptions/33.md). -/
def Sys2Proof.Machine.State.afterPushes (s : State) (id : Nat) (t : Task) (i : Instr) (v : List Word)
    (l : List (Word32 × Option Nat)) : State :=
  if l = [] then s else s.park id (.push l (Instr.keeps i t.ctx { vals := v }) t.ctx)

/-- The destination is a port that is bound to a queue which the state holds. -/
abbrev Sys2Proof.Machine.State.portReady (s : State) (t : Task) (d : GReg) : Prop :=
  d.isPort = true ∧ (t.ctx.port (d.toNat - 24)).bound ≠ 0 ∧ (s.queue? t.vd (t.ctx.port (d.toNat - 24)).bound).isSome = true

/-- ADD, SUB, MUL, MULH, MULHU, DIV, DIVU, REM, REMU, AND, OR, XOR, SHL, SHR, SRA, SLT, SLTU, MIN, MAX, MINU, MAXU and
their immediate forms, POPC, CLZ and LUI write that value to gd and go on to the next word; nothing else changes, no flag
is set and nothing traps. A write to g0 is discarded by `setG`; one to a port is a push (R39). -/
def Obligations.IntegerResults : Prop :=
  ∀ (s : State) (id : Nat) (t : Task) (i : Instr) (v : Word),
    s.issues i id t → aluValue i (t.ctx.src (i.sources.headD 0)) (t.ctx.src (i.sources.getD 1 0)) = some v →
    let d := i.dests.headD 0
    (d.isPort = false → exec i s = .next (s.wrote id i fun c => c.setG d v)) ∧
    (∀ s', s.portReady t d → (s.wrote id i fun c => c).pushed id t d v = some s' → exec i s = .next s')

/-- The quotient of R362: rounded toward zero, all ones for a divisor of zero, modulo 2^64. -/
def Sys2Proof.Machine.quotient (signed : Bool) (x y : Word) : Word :=
  if y = 0 then BitVec.allOnes 64
  else if signed then BitVec.ofInt 64 (x.toInt.tdiv y.toInt) else BitVec.ofNat 64 (x.toNat / y.toNat)

/-- R362: DIV and DIVU give the quotient, and neither traps on its operands. R419: REM and REMU give ga − q × gb modulo
2^64 for that quotient q; so a divisor of zero gives ga, and −2^63 divided by −1 leaves 0. -/
def Obligations.DivisionResults : Prop :=
  ∀ (s : State) (id : Nat) (t : Task) (d a b : GReg) (x y : Word),
    d.isPort = false → t.ctx.src a = x → t.ctx.src b = y →
    (s.issues (.div d a b) id t →
      exec (.div d a b) s = .next (s.wrote id (.div d a b) fun c => c.setG d (quotient true x y))) ∧
    (s.issues (.divu d a b) id t →
      exec (.divu d a b) s = .next (s.wrote id (.divu d a b) fun c => c.setG d (quotient false x y))) ∧
    (s.issues (.rem d a b) id t →
      exec (.rem d a b) s = .next (s.wrote id (.rem d a b) fun c => c.setG d (x - quotient true x y * y))) ∧
    (s.issues (.remu d a b) id t →
      exec (.remu d a b) s = .next (s.wrote id (.remu d a b) fun c => c.setG d (x - quotient false x y * y)))

/-- EXT (R369): the field of w bits at bit `lo`, zero- or sign-extended; with a register control word, a field beyond bit 63
traps with cause 0x01 and that word as TVAL. MSET, MAND, MOR, MXOR and MNOT (R393) write a mask register, of which m0
discards what is written; MPOPC and MFIRST (R394) write the number of 1 bits, and the index of the lowest, 32 where none is
set, to gd. -/
def Obligations.FieldsAndMasks : Prop :=
  ∀ (s : State) (id : Nat) (t : Task) (d a b : GReg) (e m n : MReg),
    d.isPort = false →
    (∀ (g : Bool) (w l : BitVec 6), s.issues (.extImm d a g w l) id t → (Instr.extImm d a g w l).WellFormed →
      exec (.extImm d a g w l) s = .next (s.wrote id (.extImm d a g w l) fun c => c.setG d
        (let f := t.ctx.src a <<< (63 - l.toNat - w.toNat)
         if g then f.sshiftRight (63 - w.toNat) else f >>> (63 - w.toNat)))) ∧
    (s.issues (.ext d a b) id t →
      let y := t.ctx.src b
      let lo := bvBits y 5 0
      let w := bvBits y 11 6 + 1
      (64 < lo + w → exec (.ext d a b) s = .next (s.takeTrap id 1 y 0)) ∧
      (lo + w ≤ 64 → exec (.ext d a b) s = .next (s.wrote id (.ext d a b) fun c => c.setG d
        (let f := t.ctx.src a <<< (64 - lo - w)
         if y.getLsbD 12 then f.sshiftRight (64 - w) else f >>> (64 - w))))) ∧
    (s.issues (.mset e a) id t → exec (.mset e a) s =
      .next (s.wrote id (.mset e a) fun c => c.setM e ((t.ctx.src a).setWidth 32))) ∧
    (s.issues (.mand e m n) id t → exec (.mand e m n) s =
      .next (s.wrote id (.mand e m n) fun c => c.setM e (t.ctx.getM m &&& t.ctx.getM n))) ∧
    (s.issues (.mor e m n) id t → exec (.mor e m n) s =
      .next (s.wrote id (.mor e m n) fun c => c.setM e (t.ctx.getM m ||| t.ctx.getM n))) ∧
    (s.issues (.mxor e m n) id t → exec (.mxor e m n) s =
      .next (s.wrote id (.mxor e m n) fun c => c.setM e (t.ctx.getM m ^^^ t.ctx.getM n))) ∧
    (s.issues (.mnot e m) id t → exec (.mnot e m) s =
      .next (s.wrote id (.mnot e m) fun c => c.setM e (~~~(t.ctx.getM m)))) ∧
    (s.issues (.mpopc d m) id t → exec (.mpopc d m) s =
      .next (s.wrote id (.mpopc d m) fun c => c.setG d
        (BitVec.ofNat 64 ((List.range 32).countP fun k => (t.ctx.getM m).getLsbD k)))) ∧
    (s.issues (.mfirst d m) id t → ∃ k : Nat,
      exec (.mfirst d m) s = .next (s.wrote id (.mfirst d m) fun c => c.setG d (BitVec.ofNat 64 k)) ∧
      (∀ j, j < k → (t.ctx.getM m).getLsbD j = false) ∧ (k = 32 ∨ (t.ctx.getM m).getLsbD k = true))

/-! ### Control transfers (R55, R356, R357, R386, R387) -/

/-- When a conditional branch is taken. -/
def Sys2Proof.Machine.branchTaken (i : Instr) (c : Ctx) : Option (Bool × BitVec 16) :=
  match i with
  | .beq a b o => some (c.src a == c.src b, o)
  | .bne a b o => some (c.src a != c.src b, o)
  | .blt a b o => some ((c.src a).slt (c.src b), o)
  | .bge a b o => some ((c.src b).sle (c.src a), o)
  | .bltu a b o => some ((c.src a).ult (c.src b), o)
  | .bgeu a b o => some ((c.src b).ule (c.src a), o)
  | .bmany k o => some (c.getM k != 0, o)
  | .bmnone k o => some (c.getM k == 0, o)
  | .bmall k o => some (c.getM k == BitVec.allOnes 32, o)
  | _ => none

/-- BEQ, BNE, BLT, BGE, BLTU, BGEU, BMANY, BMNONE and BMALL: taken, the pc moves by four times the offset from the
branch's own address; not taken, to the next word; a taken branch backwards or to itself stops a doomed task (R135).
R386, R387: JAL and JALR write the address of the next word to the link, a register or a port, and go to the target; a
target at or below their own address stops a doomed task, and a JALR target that is no multiple of 4 traps with cause 0x02
and the target as TVAL, the link not written. -/
def Obligations.TransferResults : Prop :=
  ∀ (s : State) (id : Nat) (t : Task) (d a : GReg) (j : BitVec 21) (n : BitVec 16),
    (∀ (i : Instr) (taken : Bool) (o : BitVec 16), s.issues i id t → branchTaken i t.ctx = some (taken, o) →
      (¬ (t.delivered = true ∧ taken = true ∧ o.toInt ≤ 0) →
        exec i s = .next (s.wrote id i fun c =>
          if taken then { c with pc := t.ctx.pc + (o.signExtend 64 <<< 2) } else c)) ∧
      (t.delivered = true → taken = true → o.toInt ≤ 0 → exec i s = .next (s.stopHere id s.cur))) ∧
    (∀ (i : Instr) (target : Word), s.issues i id t →
      (i = .jal d j ∧ target = t.ctx.pc + (j.signExtend 64 <<< 2) ∨
        i = .jalr d a n ∧ target = t.ctx.src a + n.signExtend 64 ∧ target.toNat % 4 = 0) →
      (t.delivered = true → target.toNat ≤ t.ctx.pc.toNat → exec i s = .next (s.stopHere id s.cur)) ∧
      (t.delivered = false ∨ t.ctx.pc.toNat < target.toNat →
        (d.isPort = false → exec i s = .next (s.wrote id i fun c => { c with pc := target }.setG d (t.ctx.pc + 4))) ∧
        (∀ s', s.portReady t d → (s.wrote id i fun c => { c with pc := target }).pushed id t d (t.ctx.pc + 4) = some s' →
          exec i s = .next s'))) ∧
    (s.issues (.jalr d a n) id t → (t.ctx.src a + n.signExtend 64).toNat % 4 ≠ 0 →
      exec (.jalr d a n) s = .next (s.takeTrap id 2 (t.ctx.src a + n.signExtend 64) 0))

/-- A destination port of other instructions (R39, R417): the value is pushed to the port's queue when the instruction
completes, after a release at module scope, and no register is written; a push that its queue holds parks the task. Here
of LD, LDN, LDA, EXT, MPOPC and RLOOK. -/
def Obligations.PortDestination : Prop :=
  ∀ (s s0 : State) (id : Nat) (t : Task) (d a : GReg) (m : MReg) (h : Hint) (z : Size) (o : BitVec 12)
    (g : Bool) (w e : BitVec 6) (l : List Byte) (i : Instr) (v : Word) (s' : State),
    let va := (t.ctx.src a + o.signExtend 64).toNat
    let n := Size.bytes z
    (va % n = 0 ∧ l.length = n ∧
        (i = .ld d a h z o ∧ loadBytes id t va n h false s = .ok (l, s0) ∧
            v = (BitVec.ofNat (8 * n) (ofBytes l)).signExtend 64 ∨
          i = .ldn d a h z o ∧ loadBytes id t va n h false s = .ok (l, s0) ∧
            v = (BitVec.ofNat (8 * n) (ofBytes l)).setWidth 64 ∨
          i = .lda d a .tile z o ∧ loadBytes id t va n .dflt false s = .ok (l, s0) ∧
            v = (BitVec.ofNat (8 * n) (ofBytes l)).setWidth 64) ∨
      s0 = s ∧
        (i = .extImm d a g w e ∧ i.WellFormed ∧
            v = (let f := t.ctx.src a <<< (63 - e.toNat - w.toNat)
                 if g then f.sshiftRight (63 - w.toNat) else f >>> (63 - w.toNat)) ∨
          i = .mpopc d m ∧ v = BitVec.ofNat 64 ((List.range 32).countP fun k => (t.ctx.getM m).getLsbD k) ∨
          i = .rlook d a ∧ (t.ctx.src a).toNat ≤ 4095 ∧ v = ((s.vd t.vd).entry (t.ctx.src a).toNat).word)) →
    s.issues i id t → s0.portReady t d → (s0.wrote id i fun c => c).pushed id t d v = some s' → exec i s = .next s'

/-! ### What memory accesses leave alone (R38, R200, R201) -/

/-- A release, an acquire, a translation, a load, a store and the start of an atomic change no register of any task, and
end no task. -/
def Obligations.AccessFrame : Prop :=
  ∀ (s s1 : State) (id va n : Nat) (t : Task) (c : Scope) (a : Acc) (h : Hint) (f : Bool) (b : List (Nat × Byte))
    (l : List Byte) (g : Target) (p : Phys) (k : Nat),
    s.task? id = some t →
    s.sameRegs (s.release id c) ∧ s.sameRegs (s.acquire id c) ∧
    (resolve id t va a s = .ok ((g, p), s1) → s.sameRegs s1) ∧
    (loadBytes id t va n h f s = .ok (l, s1) → s.sameRegs s1) ∧
    (storeBytes id va b h f s = .ok ((), s1) → s.sameRegs s1) ∧
    (atomicAt id t va n s = .ok ((g, k), s1) → s.sameRegs s1)

/-! ### Loads, stores, fences, cache operations (R172 to R175, R197, R201, R359, R373, R388 to R390, R403, R434, R435) -/

/-- LD, LDN and LDA: where the address is a multiple of the size and its bytes are read, gd takes them, sign-extended by
LD and zero-extended by LDN and LDA, the byte at the lowest address least significant; LDA then acquires at its scope, and
at module and system scope it reads at the home. Bytes of ordinary memory come first from the thread's own store buffer
(R389), then from the tile's L1, and else, where the byte budget grants the request (R317), 64 bytes for a line that is
filled, from their home, no packet being on its way; none of it changes memory. A line with an uncorrectable error where the
bytes are read traps with cause 0x08 instead (R197). -/
def Obligations.LoadResults : Prop :=
  ∀ (s s1 : State) (id : Nat) (t : Task) (d b : GReg) (h : Hint) (z : Size) (c : Scope) (o : BitVec 12)
    (l : List Byte),
    d.isPort = false →
    let a := t.ctx.src b + o.signExtend 64
    let n := Size.bytes z
    a.toNat % n = 0 →
    (s.issues (.ld d b h z o) id t → loadBytes id t a.toNat n h false s = .ok (l, s1) → l.length = n →
      exec (.ld d b h z o) s = .next (s1.wrote id (.ld d b h z o) fun r => r.setG d
        ((BitVec.ofNat (8 * n) (ofBytes l)).signExtend 64))) ∧
    (s.issues (.ldn d b h z o) id t → loadBytes id t a.toNat n h false s = .ok (l, s1) → l.length = n →
      exec (.ldn d b h z o) s = .next (s1.wrote id (.ldn d b h z o) fun r => r.setG d
        ((BitVec.ofNat (8 * n) (ofBytes l)).setWidth 64))) ∧
    (s.issues (.lda d b c z o) id t → loadBytes id t a.toNat n .dflt (c != .tile) s = .ok (l, s1) → l.length = n →
      exec (.lda d b c z o) s = .next ((s1.acquire id c).wrote id (.lda d b c z o) fun r => r.setG d
        ((BitVec.ofNat (8 * n) (ofBytes l)).setWidth 64))) ∧
    (∀ (va m k : Nat) (p : Phys), resolve id t va .load s = .ok ((.phys k false, p), s1) → 0 < m →
      ((∀ j < m, buffered t.sbuf (.phys k false) j = true) →
        loadPiece id t va m h false s = .ok ((List.range m).map fun j => forward t.sbuf (.phys k false) j 0, s1)) ∧
      (t.sbuf = [] → ∀ x, l1Look (s1.tile t.last.tile).l1 (k / 64) = some x →
        loadPiece id t va m h false s = if k / 64 ∈ (s1.tile t.last.tile).l1Err then .error (.trap 8 (BitVec.ofNat 64 va) 0)
          else .ok ((List.range m).map fun j => lineByte x (k % 64 + j), s1)) ∧
      (t.sbuf = [] → s1.packets = [] → l1Look (s1.tile t.last.tile).l1 (k / 64) = none →
        (s1.cluster (clusterOf t.last.tile)).grants s1.cycles (if Hint.effective h p.ret = 3 then m else 64) = true →
        (k / 256 ∈ s1.errored → loadPiece id t va m h false s = .error (.trap 8 (BitVec.ofNat 64 va) 0)) ∧
        (¬ k / 256 ∈ s1.errored → ∃ s2, loadPiece id t va m h false s = .ok (s1.readKey k m, s2) ∧ s2.mem = s1.mem)))

/-- R389, R434, R351, R401: an address that is no multiple of the size traps with cause 0x02 and the address as TVAL,
with no other effect. -/
def Obligations.MisalignedTraps : Prop :=
  ∀ (s : State) (id : Nat) (t : Task) (d a b : GReg) (h : Hint) (z : Size) (c : Scope) (o : BitVec 12) (w : Bool)
    (r : Order) (i : Instr),
    (((i = .ld d b h z o ∨ i = .ldn d b h z o ∨ i = .lda d b c z o ∨ i = .st d b h z o ∨ i = .stl d b c z o) →
      s.issues i id t → (t.ctx.src b + o.signExtend 64).toNat % Size.bytes z ≠ 0 →
      exec i s = .next (s.takeTrap id 2 (t.ctx.src b + o.signExtend 64) 0)) ∧
    ((i = .amoAdd d a b w r c ∨ i = .amoAnd d a b w r c ∨ i = .amoOr d a b w r c ∨ i = .amoXor d a b w r c ∨
        i = .amoMin d a b w r c ∨ i = .amoMax d a b w r c ∨ i = .amoMinn d a b w r c ∨ i = .amoMaxn d a b w r c ∨
        i = .amoSwap d a b w r c ∨ i = .amocas d a b w r c ∨ i = .mwait d a b w c) →
      s.issues i id t → (t.ctx.src a).toNat % (if w then 8 else 4) ≠ 0 →
      exec i s = .next (s.takeTrap id 2 (t.ctx.src a) 0)))

/-- ST and STL: where the address is a multiple of the size and the store is taken, the low bytes of the register are
stored, the least significant at the lowest address, and no register is written; an STL releases first, at its scope. -/
def Obligations.StoreResults : Prop :=
  ∀ (s s1 s2 : State) (id : Nat) (t : Task) (v b : GReg) (h : Hint) (z : Size) (c : Scope) (o : BitVec 12)
    (g : Target) (p : Phys),
    let a := t.ctx.src b + o.signExtend 64
    let l := cellsAt 0 (toBytes (Size.bytes z) (t.ctx.src v).toNat)
    a.toNat % Size.bytes z = 0 →
    (s.issues (.st v b h z o) id t → storeBytes id a.toNat l h false s = .ok ((), s1) →
      exec (.st v b h z o) s = .next (s1.wrote id (.st v b h z o) fun r => r)) ∧
    (s.issues (.stl v b c z o) id t → resolve id t a.toNat .store s = .ok ((g, p), s1) → storable t a.toNat g s1 = .ok ((), s1) →
      storeBytes id a.toNat l .dflt (c != .tile) (s1.release id c) = .ok ((), s2) →
      exec (.stl v b c z o) s = .next (s2.wrote id (.stl v b c z o) fun r => r))

/-- R201, R434: a store to ordinary memory whose request the byte budget grants, outside every open snapshot region, waits in
the thread's store buffer behind the earlier ones, with the retention of R175, and nothing else changes; one with a byte in a
future table traps with cause 0x06 (R79). One to the tile
window waits for the buffer to drain and for the earlier packets of its path, and is performed where the entry takes it;
where the entry refuses it (R143, R182), it traps with cause 0x06 and the address. R206: performed at its home, outside
every region, a store writes its bytes there, and every other byte of memory reads as before; where the entry of its
logical tile refuses it by then, nothing changes. -/
def Obligations.StoresTake : Prop :=
  ∀ (s s1 : State) (id va a lid off k k0 : Nat) (t : Task) (m own rel j : Bool) (p : Phys) (b : List (Nat × Byte))
    (l : List Byte) (h : Hint) (st : Store),
    s.task? id = some t →
    (resolve id t va .store s = .ok ((.phys a m, p), s1) → (s1.vd t.vd).regions = [] →
      (∀ c ∈ b, s.inTable (p.pa + c.1) = none) → (s1.cluster (clusterOf t.last.tile)).grants s1.cycles b.length = true →
      storePiece id va b h rel j s = .ok ((), (s1.grant t.last.tile b.length).modTask id fun u =>
        { u with sbuf := u.sbuf ++ [⟨va, .phys a m, b, rel, Hint.effective h p.ret, p.tier, p.level, j⟩] })) ∧
    (∀ c : Nat × Byte, resolve id t va .store s = .ok ((.phys a m, p), s1) → b.find? (fun c => (s.inTable (p.pa + c.1)).isSome) =
      some c → storePiece id va b h rel j s = .error (.trap 6 (BitVec.ofNat 64 (va + c.1)) 0)) ∧
    (resolve id t va .store s = .ok ((.window lid off own, p), s) →
      let g : Target := .window lid off own
      let d := (s.drain id).settlePath t.last.tile id (.place t.vd id g) g b.length
      keyOf t va g s = .ok (k0, s) → keyOf t va g d = .ok (k, d) →
      let st : Store := ⟨va, g, b, rel, Hint.effective h p.ret, p.tier, p.level, j⟩
      storePiece id va b h rel j s = .ok ((), (d.perform t.vd id st).traffic 0x02 (flits b.length) 0 t.vd id t.last va 0 g
        st.op)) ∧
    (resolve id t va .store s = .ok ((.window lid off own, p), s) → own = true ∨ s.held t.vd lid t.last.tile = false →
      s.windowKey t.vd (if own then some t else none) lid off = none →
      storePiece id va b h rel j s = .error (.trap 6 (BitVec.ofNat 64 va) 0)) ∧
    (s.storeKey t.vd id st = some k → st.bytes = cellsAt 0 l → (s.vd t.vd).regions = [] → s.mem.wf →
      (∀ i (h : i < l.length), (s.perform t.vd id st).mem.byte (k + i) = l[i]) ∧
      (∀ q, (q < k ∨ k + l.length ≤ q) → (s.perform t.vd id st).mem.byte q = s.mem.byte q)) ∧
    (s.storeKey t.vd id st = none → s.perform t.vd id st = s)

/-- FENCE (R373): .rel and .ar release, .acq and .ar acquire, the release first, at the fence's scope. CINV (R359): the
line leaves the tile's L1, and an address that does not translate does nothing; CINV of all empties it. PF (R173, R403): the
line is prefetched, into the L1 too at level .l1, once the byte budget grants a fill of it (R317); an address that does not
translate to a page of HBM that may be read does nothing, nor is a line in error or of bypass retention taken; where no
packet is on its way, no memory changes. None of them writes a register or traps. -/
def Obligations.FencesAndCaches : Prop :=
  ∀ (s : State) (id : Nat) (t : Task) (a : GReg) (k : FenceKind) (c : Scope) (h : Hint) (v : PfLevel) (o : BitVec 12),
    (s.issues (.fence k c) id t → exec (.fence k c) s = .next
      ((match k with
        | .acq => s.acquire id c
        | .rel => s.release id c
        | .ar => (s.release id c).acquire id c).wrote id (.fence k c) fun r => r)) ∧
    (s.issues (.cinv a) id t → exec (.cinv a) s = .next
      ((match s.lineAt t (t.ctx.src a).toNat with
        | some n => s.modTile t.last.tile fun x => { x with l1 := l1Cut x.l1 n }
        | none => s).wrote id (.cinv a) fun r => r)) ∧
    (s.issues .cinvAll id t → exec .cinvAll s = .next
      ((s.modTile t.last.tile fun x => { x with l1 := [] }).wrote id .cinvAll fun r => r)) ∧
    (s.issues (.pf a h v o) id t →
      let va := (t.ctx.src a + o.signExtend 64).toNat
      let fills (p : Phys) : Bool := v == .l1 && s.prefills t p (Hint.effective h p.ret)
      let s0 (p : Phys) : State := if fills p then s.grant t.last.tile 64 else s
      (∀ p, s.quietly t va true = some p → fills p = true →
        (s.cluster (clusterOf t.last.tile)).grants s.cycles 64 = true) →
      ∃ s', exec (.pf a h v o) s = .next (s'.wrote id (.pf a h v o) fun r => r) ∧
        (s.quietly t va true = none → s' = s) ∧
        (∀ p, s.quietly t va true = some p →
          s' = (s0 p).prefetch id t va p (Hint.effective h p.ret) (v == .l1) ∧
          (p.pa / 256 ∈ s.errored ∨ Hint.effective h p.ret = 3 → s' = s0 p) ∧
          (s.packets = [] → s'.mem = s.mem ∧ (v = .l2 → ∀ n, (s'.tile n).l1 = (s.tile n).l1))))

/-! ### Atomics and waits (R212, R350 to R353, R364 to R366, R401) -/

/-- What an AMO leaves at its location: `x` is what stood there, `y` the operand, of `n` bytes each; for AMOCAS `e` is
what is expected. None: nothing is written. -/
def Sys2Proof.Machine.amoValue (i : Instr) (n x y e : Nat) : Option Nat :=
  let s (v : Nat) : Int := (BitVec.ofNat (8 * n) v).toInt
  match i with
  | .amoAdd .. => some ((x + y) % 2 ^ (8 * n))
  | .amoAnd .. => some (x &&& y)
  | .amoOr .. => some (x ||| y)
  | .amoXor .. => some (x ^^^ y)
  | .amoMin .. => some (if s y < s x then y else x)
  | .amoMax .. => some (if s x < s y then y else x)
  | .amoMinn .. => some (min x y)
  | .amoMaxn .. => some (max x y)
  | .amoSwap .. => some y
  | .amocas .. => if x = e then some y else none
  | _ => none

/-- Does an AMO return its old value sign-extended (R351)? -/
def Sys2Proof.Machine.amoSigned : Instr → Bool
  | .amoMin .. | .amoMax .. => true
  | _ => false

/-- The number of an AMO's operation in the header of its request (R233), in the order of the encoding. -/
def Sys2Proof.Machine.amoFunction : Instr → Nat
  | .amoAnd .. => 1
  | .amoOr .. => 2
  | .amoXor .. => 3
  | .amoMin .. => 4
  | .amoMax .. => 5
  | .amoMinn .. => 6
  | .amoMaxn .. => 7
  | .amoSwap .. => 8
  | .amocas .. => 9
  | _ => 0

/-- The ten atomics, of every order, on a location outside every snapshot region: gd takes what the location held, sign- or
zero-extended from its width, and the location takes the operation's value, in one step; a failed AMOCAS writes nothing.
One that releases does so before it acts, and one that acquires after it (R350). `atomicAt` has drained the buffer and
performed the thread's earlier stores to the location; the request's packet carries the operand and the function, that of
AMOCAS the expected value too, and its answer the result (R233, R234). -/
def Obligations.AtomicResults : Prop :=
  ∀ (s s1 s2 : State) (id : Nat) (t : Task) (d a b : GReg) (w : Bool) (o : Order) (c : Scope) (i : Instr)
    (g g' : Target) (p : Phys) (k : Nat),
    (i = .amoAdd d a b w o c ∨ i = .amoAnd d a b w o c ∨ i = .amoOr d a b w o c ∨ i = .amoXor d a b w o c ∨
      i = .amoMin d a b w o c ∨ i = .amoMax d a b w o c ∨ i = .amoMinn d a b w o c ∨ i = .amoMaxn d a b w o c ∨
      i = .amoSwap d a b w o c ∨ i = .amocas d a b w o c) →
    s.issues i id t → d.isPort = false →
    let n := if w then 8 else 4
    let va := (t.ctx.src a).toNat
    va % n = 0 → resolve id t va .store s = .ok ((g', p), s1) →
    atomicAt id t va n (if o = .rel ∨ o = .ar then s1.release id c else s1) = .ok ((g, k), s2) →
    ((∃ m q, g = .phys m q) → (s2.vd t.vd).regions = []) → ¬ k / 256 ∈ s2.errored →
    let x := ofBytes (s2.readKey k n)
    let y := (t.ctx.src b).toNat % 2 ^ (8 * n)
    let e := (t.ctx.getG d).toNat % 2 ^ (8 * n)
    let r : Word := if amoSigned i then (BitVec.ofNat (8 * n) x).signExtend 64 else BitVec.ofNat 64 x
    let s3 := match amoValue i n x y e with
      | some v => s2.write (cellsAt k (toBytes n v))
      | none => s2
    let s4 := s3.atomicTraffic id t va g (match i with | .amocas .. => [t.ctx.getG d] | _ => []) (t.ctx.src b) r
      { size := n, scope := c.code.toNat, order := o.code.toNat, function := amoFunction i }
    exec i s = .next ((if o = .acq ∨ o = .ar then s4.acquire id c else s4).wrote id i fun r' => r'.setG d r)

/-- EVWAIT (R366): pending lines of the mask are taken, cleared and returned, with an acquire; with none pending the task
parks on them; a mask of zero traps. EVSIG (R365) to the own cluster, or to that of a logical tile in compute role: a release,
and a packet with the mask's lines, which to a logical tile leaves its source in the same step, or the thread waits for the
network (notes/assumptions/88.md); it traps where bit 31 is set, and at an address that names no such tile. -/
def Obligations.EventLines : Prop :=
  ∀ (s : State) (id : Nat) (t : Task) (d a b : GReg),
    let mask : Word32 := (t.ctx.src a).setWidth 32
    let cl := clusterOf t.last.tile
    let p := (s.vd t.vd).pendingAt cl &&& mask
    (s.issues (.evwait d a) id t → d.isPort = false → mask ≠ 0 → p ≠ 0 →
      exec (.evwait d a) s = .next (((s.setPending t.vd cl ((s.vd t.vd).pendingAt cl &&& ~~~mask)).acquire id .module).wrote id
        (.evwait d a) fun r => r.setG d (p.setWidth 64))) ∧
    (s.issues (.evwait d a) id t → t.delivered = false → mask ≠ 0 → p = 0 →
      exec (.evwait d a) s = .next (s.park id (.lines cl mask))) ∧
    (s.issues (.evwait d a) id t → mask = 0 → exec (.evwait d a) s = .next (s.takeTrap id 1 0 0)) ∧
    (s.issues (.evsig a b) id t → t.ctx.src b = 0 → (t.ctx.src a).getLsbD 31 = false → mask ≠ 0 →
      exec (.evsig a b) s = .next (((s.release id .module).send 0x23 0 t.last.tile t.last.core t.vd (t.ctx.src a)
        (mask.setWidth 64) (.stop t.last.tile) (.event t.vd id mask)).wrote id (.evsig a b) fun r => r)) ∧
    (s.issues (.evsig a b) id t → t.ctx.src b ≠ 0 → (t.ctx.src a).getLsbD 31 = false →
      (∀ l, eventSlot (t.ctx.src b).toNat = some l → s.held t.vd l t.last.tile = false →
        ((s.entry t.vd l).role = 1 → (s.entry t.vd l).state ≠ 3 → mask ≠ 0 →
          let sent := (s.release id .module).send 0x23 0 t.last.tile t.last.core t.vd (t.ctx.src a) (mask.setWidth 64)
            (.tile t.vd l) (.event t.vd id mask)
          let left := sent.hop (sent.packets.length - 1)
          (∀ p, left.packets.getLast? = some p → p.loc = .queue → exec (.evsig a b) s = .next s) ∧
          (∀ p, left.packets.getLast? = some p → p.loc ≠ .queue →
            exec (.evsig a b) s = .next (left.wrote id (.evsig a b) fun r => r))) ∧
        ((s.entry t.vd l).role ≠ 1 ∨ (s.entry t.vd l).state = 3 →
          exec (.evsig a b) s = .next (s.takeTrap id 6 (t.ctx.src b) 0))) ∧
      (eventSlot (t.ctx.src b).toNat = none → exec (.evsig a b) s = .next (s.takeTrap id 6 (t.ctx.src b) 0))) ∧
    (s.issues (.evsig a b) id t → (t.ctx.src a).getLsbD 31 = true →
      exec (.evsig a b) s = .next (s.takeTrap id 6 (t.ctx.src a) 0))

/-- MWAIT (R212, R401): a location that does not hold the compared value is returned, zero-extended, with an acquire;
one that holds it parks the task with its monitor armed on the location's 256-byte block. `drained`: the thread's buffer
drained and the earlier packets of the path delivered (R241); `sent`: the access's own effect on the L2, and its packets. -/
def Obligations.MwaitResults : Prop :=
  ∀ (s s1 s2 : State) (id : Nat) (t : Task) (d a b : GReg) (w : Bool) (c : Scope) (g : Target) (p : Phys) (k k0 : Nat),
    s.issues (.mwait d a b w c) id t → d.isPort = false → t.delivered = false → t.woke = none →
    let n := if w then 8 else 4
    let va := (t.ctx.src a).toNat
    va % n = 0 → resolve id t va .load s = .ok ((g, p), s1) →
    (∀ x, g ≠ .host x) → (∀ i x, g ≠ .peer i x) →
    keyOf t va g s1 = .ok (k0, s1) → budget t g 8 s1 = .ok ((), s2) →
    let drained := (s2.drain id).settlePath t.last.tile id (.place t.vd id g) g n
    keyOf t va g drained = .ok (k, drained) → ¬ k / 256 ∈ drained.errored →
    let x := ofBytes (drained.readKey k n)
    let met := match g with
      | .phys q true => drained.l2Drop (q / 256)
      | .phys q false => drained.l2Demand t.vd p.tier q n p.ret false
      | _ => drained
    let sent := met.traffic 4 0 0 t.vd id t.last va (t.ctx.src b) g { size := n, scope := c.code.toNat } (BitVec.ofNat 64 x)
    (x ≠ (t.ctx.src b).toNat % 2 ^ (8 * n) → exec (.mwait d a b w c) s =
      .next ((sent.acquire id c).wrote id (.mwait d a b w c) fun r => r.setG d (BitVec.ofNat 64 x))) ∧
    (x = (t.ctx.src b).toNat % 2 ^ (8 * n) → (∃ u, sent.task? id = some u ∧ u.delivered = false) →
      exec (.mwait d a b w c) s = .next (sent.park id (.monitor (k / 256))))

/-! ### Vector instructions (R41, R110, R113, R277 to R290, R451 to R466) -/

/-- The state in which a vector instruction stands at the end of its core's queue. -/
def Sys2Proof.Machine.State.queued (s : State) (id : Nat) (t : Task) (i : Instr) : State :=
  s.modCore t.last.tile t.last.core fun c => { c with vq := c.vq ++ [{ task := id, instr := i }] }

/-- The queue has room (R110). -/
abbrev Sys2Proof.Machine.State.vroom (s : State) (t : Task) : Prop := (s.core t.last.tile t.last.core).vq.length < 16

/-- An instruction of vd, va and vb that acts on each active lane by itself: vd, va, vb, mask and type. -/
def Sys2Proof.Machine.lanewiseForm : Instr → Option (VReg × VReg × VReg × MReg × VTy)
  | .vadd d a b k t | .vsub d a b k t | .vmul d a b k t | .vfma d a b k t | .vmin d a b k t | .vmax d a b k t
  | .vand d a b k t | .vor d a b k t | .vxor d a b k t | .vshl d a b k t | .vshr d a b k t | .vsra d a b k t
  | .vaddSat d a b k t | .vsubSat d a b k t => some (d, a, b, k, t)
  | .vabs d a k t | .vneg d a k t | .vrcp d a k t | .vrsq d a k t | .vexp2 d a k t | .vlog2 d a k t =>
    some (d, a, a, k, t)
  | _ => none

/-- What such an instruction gives for integer lanes x of va, y of vb and z of vd; the bitwise ones for every type. -/
def Sys2Proof.Machine.intValue (i : Instr) (x y z : Nat) : Option Nat :=
  let ints (t : VTy) (n : Nat) : Option Nat := if (fmtOf t).isSome then none else some n
  match i with
  | .vadd _ _ _ _ t => ints t ((x + y) % 2 ^ t.width)
  | .vsub _ _ _ _ t => ints t ((x + 2 ^ t.width - y) % 2 ^ t.width)
  | .vmul _ _ _ _ t => ints t (x * y % 2 ^ t.width)
  | .vfma _ _ _ _ t => ints t ((x * y + z) % 2 ^ t.width)
  | .vmin _ _ _ _ t => ints t (if laneInt t y < laneInt t x then y else x)
  | .vmax _ _ _ _ t => ints t (if laneInt t x < laneInt t y then y else x)
  | .vabs _ _ _ t => ints t (if laneInt t x < 0 then 2 ^ t.width - x else x)
  | .vneg _ _ _ t => ints t ((2 ^ t.width - x) % 2 ^ t.width)
  | .vand .. => some (x &&& y)
  | .vor .. => some (x ||| y)
  | .vxor .. => some (x ^^^ y)
  | .vshl _ _ _ _ t => some (if t.width ≤ y then 0 else x * 2 ^ y % 2 ^ t.width)
  | .vshr _ _ _ _ t => some (if t.width ≤ y then 0 else x / 2 ^ y)
  | .vsra _ _ _ _ t => some (((if x.testBit (t.width - 1) then (x : Int) - 2 ^ t.width else x) / 2 ^ min y t.width %
      2 ^ t.width).toNat)
  | _ => none

/-- R451, R452: VADD, VSUB, VMUL, VFMA, VMIN, VMAX, VABS and VNEG on integer types, modulo 2^width, and VAND, VOR, VXOR,
VSHL, VSHR and VSRA: the instruction enters its core's queue; each active lane of vd takes its value and each other lane
keeps its own, no flag is set, and nothing else changes. -/
def Obligations.VectorIntegerLanes : Prop :=
  ∀ (s : State) (id : Nat) (t : Task) (i : Instr) (d a b : VReg) (k : MReg) (ty : VTy) (v : Nat → Nat),
    lanewiseForm i = some (d, a, b, k, ty) → s.issues i id t → s.vroom t →
    (∀ l < ty.lanes, intValue i (lane ty (t.ctx.getV a) l) (lane ty (t.ctx.getV b) l) (lane ty (t.ctx.getV d) l) =
      some (v l)) →
    ∃ r : VWord, exec i s = .next ((s.queued id t i).wrote id i fun c => c.setV d r) ∧
      ∀ l < ty.lanes, lane ty r l = if active ty (t.ctx.getM k) l then v l else lane ty (t.ctx.getV d) l

/-- What such an instruction gives, with the flags it raises, for floating lanes and for saturating integer ones: exact
arithmetic on the values read, and one rounding (R278, R282). -/
def Sys2Proof.Machine.flaggedValue (i : Instr) (c : Ctx) (x y z : Nat) : Option (Nat × Nat) :=
  let rm := (fctlRm c.fctl).arith
  let ftz := fctlFtz c.fctl
  let fl (t : VTy) (h : Fmt → Nat × Nat) : Option (Nat × Nat) := (fmtOf t).map h
  match i with
  | .vadd _ _ _ _ t => fl t fun f => f.finish rm ftz ((f.read ftz x).add rm (f.read ftz y))
  | .vsub _ _ _ _ t => fl t fun f => f.finish rm ftz ((f.read ftz x).add rm (f.read ftz y).neg)
  | .vmul _ _ _ _ t => fl t fun f => f.finish rm ftz ((f.read ftz x).mul (f.read ftz y))
  | .vfma _ _ _ _ t => fl t fun f => f.finish rm ftz ((f.read ftz x).fma rm (f.read ftz y) (f.read ftz z))
  | .vmin _ _ _ _ t => fl t fun f => f.finish .rne ftz ((f.read ftz x).min (f.read ftz y), false)
  | .vmax _ _ _ _ t => fl t fun f => f.finish .rne ftz ((f.read ftz x).max (f.read ftz y), false)
  | .vabs _ _ _ t => fl t fun f => f.finish .rne ftz ((f.read ftz x).abs, false)
  | .vneg _ _ _ t => fl t fun f => f.finish .rne ftz ((f.read ftz x).neg, false)
  | .vrcp _ _ _ t => fl t fun f => f.rcp rm ftz (f.read ftz x)
  | .vrsq _ _ _ t => fl t fun f => f.rsq rm ftz (f.read ftz x)
  | .vexp2 _ _ _ t => fl t fun f => f.exp2 rm ftz (f.read ftz x)
  | .vlog2 _ _ _ t => fl t fun f => f.log2 rm ftz (f.read ftz x)
  | .vaddSat _ _ _ _ t => some (clamp t (laneInt t x + laneInt t y) SAT)
  | .vsubSat _ _ _ _ t => some (clamp t (laneInt t x - laneInt t y) SAT)
  | _ => none

/-- The flags of the active lanes together. -/
def Sys2Proof.Machine.flagsOf (ty : VTy) (m : Word32) (v : Nat → Nat × Nat) : Nat :=
  (List.range ty.lanes).foldl (fun n l => if active ty m l then n ||| (v l).2 else n) 0

/-- R280 to R283, R453: floating VADD, VSUB, VMUL, VFMA, VMIN, VMAX, VABS, VNEG, VRCP, VRSQ, VEXP2, VLOG2 and the
saturating forms: each active lane takes its value, FSTAT gains the flags of the active lanes, and nothing else changes;
where FCTL enables one of them, vd keeps its contents, and the trap of cause 0x11 is taken with FSTAT set. -/
def Obligations.VectorFlaggedLanes : Prop :=
  ∀ (s : State) (id : Nat) (t : Task) (i : Instr) (d a b : VReg) (k : MReg) (ty : VTy) (v : Nat → Nat × Nat),
    lanewiseForm i = some (d, a, b, k, ty) → s.issues i id t → s.vroom t →
    (∀ l < ty.lanes, flaggedValue i t.ctx (lane ty (t.ctx.getV a) l) (lane ty (t.ctx.getV b) l)
      (lane ty (t.ctx.getV d) l) = some (v l)) →
    let fl := flagsOf ty (t.ctx.getM k) v
    (fctlEnables t.ctx.fctl &&& fl = 0 →
      ∃ r : VWord, exec i s = .next ((s.queued id t i).wrote id i fun c =>
          { c.setV d r with fstat := c.fstat ||| BitVec.ofNat 64 fl }) ∧
        ∀ l < ty.lanes, lane ty r l =
          (if active ty (t.ctx.getM k) l then (v l).1 else lane ty (t.ctx.getV d) l) % 2 ^ ty.width) ∧
    (fctlEnables t.ctx.fctl &&& fl ≠ 0 → exec i s = .next (((s.queued id t i).modTask id fun u =>
      { u with ctx := { u.ctx with fstat := u.ctx.fstat ||| BitVec.ofNat 64 fl } }).takeTrap id 0x11 0 (0xF00 + fl % 32)))

/-- R454, R458, R461, R462, R466: VBCAST, VPERM, VSLIDE and VIOTA of every type write each active lane and keep the others:
the low bits of gs; the lane of va that the lane of vb names; the lane of va at a distance of gs, 0 past the ends; the
lane's number, converted for a floating type. VSEL takes each lane from va where it is active, else from vb, and VMOVS writes
a lane to gd. Of an x19 lane bits 31 to 19 are written as zero and ignored when read (R277). R110: a full
queue holds the thread: a vector instruction, but for VMOVS, which does not enter it, then has no effect. -/
def Obligations.VectorMoves : Prop :=
  (∀ (s : State) (id : Nat) (t : Task) (d a b : VReg) (g : GReg) (k : MReg) (ty : VTy) (n : BitVec 5),
    s.vroom t →
    let on (l : Nat) : Bool := active ty (t.ctx.getM k) l
    let old (l : Nat) : Nat := lane ty (t.ctx.getV d) l
    let bits (x : Nat) : Nat := if ty = .x19 then x % 2 ^ 19 else x
    let from_ (i : Instr) (r : VWord) : Prop :=
      exec i s = .next ((s.queued id t i).wrote id i fun c => c.setV d r)
    (s.issues (.vbcast d g k ty) id t → ∃ r, from_ (.vbcast d g k ty) r ∧ ∀ l < ty.lanes,
      lane ty r l = if on l then bits ((t.ctx.src g).toNat % 2 ^ ty.width) else old l) ∧
    (s.issues (.vperm d a b k ty) id t → ∃ r, from_ (.vperm d a b k ty) r ∧ ∀ l < ty.lanes,
      lane ty r l = if on l then bits (lane ty (t.ctx.getV a) (lane ty (t.ctx.getV b) l % ty.lanes)) else old l) ∧
    (s.issues (.vslide d a g k ty) id t → ∃ r, from_ (.vslide d a g k ty) r ∧ ∀ l < ty.lanes,
      lane ty r l = if on l then
        (if 0 ≤ (l : Int) + (t.ctx.src g).toInt ∧ (l : Int) + (t.ctx.src g).toInt < ty.lanes then
          bits (lane ty (t.ctx.getV a) ((l : Int) + (t.ctx.src g).toInt).toNat) else 0) else old l) ∧
    (s.issues (.viota d k ty) id t → ∃ r, from_ (.viota d k ty) r ∧ ∀ l < ty.lanes,
      lane ty r l = if on l then (match fmtOf ty with
        | none => l
        | some f => (f.pack .rne false (.fin false l 0)).1) % 2 ^ ty.width else old l) ∧
    (s.issues (.vsel d a b k ty) id t → ∃ r, from_ (.vsel d a b k ty) r ∧ ∀ l < ty.lanes,
      lane ty r l = bits (lane ty (t.ctx.getV (if on l then a else b)) l)) ∧
    (s.issues (.vmovs g a n ty) id t → g.isPort = false → exec (.vmovs g a n ty) s =
      .next (s.wrote id (.vmovs g a n ty) fun c => c.setG g
        (if ty.isSigned then BitVec.ofInt 64 (laneInt ty (lane ty (t.ctx.getV a) n.toNat))
         else BitVec.ofNat 64 (bits (lane ty (t.ctx.getV a) n.toNat)))))) ∧
  (∀ (s : State) (id : Nat) (t : Task) (i : Instr),
    (vectorBody i).isSome → (∀ g a l ty, i ≠ .vmovs g a l ty) → s.issues i id t →
    16 ≤ (s.core t.last.tile t.last.core).vq.length → exec i s = .next s)

/-- R455 to R457, R463: VCMP writes bit i of md for each active lane; VRED and VSCAN combine the active lanes in order;
VCVT converts each active lane; VDEC and VENC go through the table in their slot, and trap with cause 0x0E where it holds
none of their kind (R290). FSTAT gains the flags raised; where FCTL enables one of them, vd keeps its contents and the trap
of cause 0x11 is taken with FSTAT set (R283). -/
def Obligations.VectorOthers : Prop :=
  ∀ (s : State) (id : Nat) (t : Task) (d a b : VReg) (c : Cond) (m k : MReg) (ty e : VTy) (p : RedOp) (n : BitVec 2)
    (x : Table),
    s.vroom t →
    let ftz := fctlFtz t.ctx.fctl
    let scan := scanLanes (combine p ty (fctlRm t.ctx.fctl).arith ftz) (redLanes ty k a t.ctx) none
    let to_ (i : Instr) (fl : Nat) (f : Ctx → Ctx) : Prop :=
      (fctlEnables t.ctx.fctl &&& fl = 0 → exec i s = .next ((s.queued id t i).wrote id i
        fun c => f { c with fstat := c.fstat ||| BitVec.ofNat 64 fl })) ∧
      (fctlEnables t.ctx.fctl &&& fl ≠ 0 → exec i s = .next (((s.queued id t i).modTask id fun u =>
        { u with ctx := { u.ctx with fstat := u.ctx.fstat ||| BitVec.ofNat 64 fl } }).takeTrap id 0x11 0 (0xF00 + fl % 32)))
    (s.issues (.vcmp c m a b k ty) id t → ∃ r, to_ (.vcmp c m a b k ty) 0 (fun y => y.setM m r) ∧ ∀ l < 32,
      r.getLsbD l = if ty.lanes ≤ l then false else if active ty (t.ctx.getM k) l then
        condition c ty ftz (lane ty (t.ctx.getV a) l) (lane ty (t.ctx.getV b) l) else (t.ctx.getM m).getLsbD l) ∧
    (s.issues (.vred d a p k ty) id t → to_ (.vred d a p k ty) scan.2 fun y => y.setV d
      (ofLanes ty.width [((scan.1.filterMap fun x => x).getLast?).getD (identity p ty)])) ∧
    (s.issues (.vscan d a p k ty) id t → to_ (.vscan d a p k ty) scan.2 fun y => y.setV d
      (ofLanes ty.width (((lanesOf ty.width (t.ctx.getV d)).zip scan.1).map fun x => x.2.getD x.1))) ∧
    (s.issues (.vcvt d a e k ty) id t →
      let r := (List.range (min ty.lanes e.lanes)).map fun l => if (t.ctx.getM k).getLsbD l then
        convert ty e (fctlRm t.ctx.fctl) ftz (lane ty (t.ctx.getV a) l) else (lane e (t.ctx.getV d) l, 0)
      to_ (.vcvt d a e k ty) (r.foldl (fun f q => f ||| q.2) 0) fun y => y.setV d (ofLanes e.width (r.map (·.1)))) ∧
    ((s.core t.last.tile t.last.core).slots[n.toNat] = some x → x.c4 = (ty == .c4) →
      (s.issues (.vdec d a n k ty) id t → ∃ r, to_ (.vdec d a n k ty) 0 (fun y => y.setV d r) ∧ ∀ l < 8,
        lane .n32 r l = if active .n32 (t.ctx.getM k) l then x.decode (lane .n32 (t.ctx.getV a) l)
          else lane .n32 (t.ctx.getV d) l) ∧
      (s.issues (.venc d a n k ty) id t →
        to_ (.venc d a n k ty) (flagsOf .n32 (t.ctx.getM k) fun l => x.encode (lane .n32 (t.ctx.getV a) l)) fun y =>
          y.setV d (ofLanes 32 ((List.range 8).map fun l => if active .n32 (t.ctx.getM k) l then
            (x.encode (lane .n32 (t.ctx.getV a) l)).1 else lane .n32 (t.ctx.getV d) l)))) ∧
    (∀ i, i = .vdec d a n k ty ∨ i = .venc d a n k ty → s.issues i id t →
      (∀ x, (s.core t.last.tile t.last.core).slots[n.toNat] = some x → x.c4 ≠ (ty == .c4)) →
      exec i s = .next (s.takeTrap id 0xE (BitVec.ofNat 64 (n.toNat * 256)) 0))

/-- VLD and VST (R459) at ga + gb, a multiple of the element size: the active bytes are loaded, the others of vd kept; the
active bytes of vd are stored, the pages of either translated first (R342). VLDX and VSTX (R460) at ga plus each lane of vb,
active lanes in order. -/
def Obligations.VectorMemory : Prop :=
  ∀ (s s0 s1 : State) (id : Nat) (t : Task) (d b : VReg) (ga gb : GReg) (k : MReg) (ty : VTy) (l : List (Nat × Byte))
    (x : List (Nat × Nat)),
    s.vroom t →
    let va := t.ctx.src ga + t.ctx.src gb
    let on := activeBytes ty (t.ctx.getM k)
    let lanes := activeLanes ty (t.ctx.getM k)
    (s.issues (.vld d ga gb k ty) id t → va.toNat % VTy.bytes ty = 0 →
      checkPages id t .load (on.map (va.toNat + ·)) (s.queued id t (.vld d ga gb k ty)) = .ok ((), s0) →
      loadRuns id t va.toNat (runsOf va.toNat on) s0 = .ok (l, s1) →
      exec (.vld d ga gb k ty) s = .next (s1.wrote id (.vld d ga gb k ty) fun c => c.setV d
        (ofLanes 8 ((List.range 32).map fun o =>
          ((look l o).getD ((t.ctx.getV d).extractLsb' (8 * o) 8)).toNat)))) ∧
    (s.issues (.vst d ga gb k ty) id t → va.toNat % VTy.bytes ty = 0 →
      checkPages id t .store (on.map (va.toNat + ·)) (s.queued id t (.vst d ga gb k ty)) = .ok ((), s0) →
      storeBytes id va.toNat (on.map fun o => (o, (t.ctx.getV d).extractLsb' (8 * o) 8)) .dflt false s0 = .ok ((), s1) →
      exec (.vst d ga gb k ty) s = .next (s1.wrote id (.vst d ga gb k ty) fun c => c)) ∧
    ((s.issues (.vld d ga gb k ty) id t → va.toNat % VTy.bytes ty ≠ 0 →
      exec (.vld d ga gb k ty) s = .next (s.takeTrap id 2 va 0)) ∧
     (s.issues (.vst d ga gb k ty) id t → va.toNat % VTy.bytes ty ≠ 0 →
      exec (.vst d ga gb k ty) s = .next (s.takeTrap id 2 va 0))) ∧
    (s.issues (.vldx d ga b k ty) id t → loadLanes id t ty (t.ctx.src ga)
        (lanes.map fun i => (i, lane ty (t.ctx.getV b) i)) (s.queued id t (.vldx d ga b k ty)) = .ok (x, s1) →
      exec (.vldx d ga b k ty) s = .next (s1.wrote id (.vldx d ga b k ty) fun c => c.setV d
        (ofLanes ty.width ((List.range ty.lanes).map fun i =>
          if active ty (t.ctx.getM k) i then (look x i).getD 0 else lane ty (t.ctx.getV d) i)))) ∧
    (s.issues (.vstx d ga b k ty) id t → storeLanes id ty (t.ctx.src ga)
        (lanes.map fun i => (lane ty (t.ctx.getV b) i, lane ty (t.ctx.getV d) i))
        (s.queued id t (.vstx d ga b k ty)) = .ok ((), s1) →
      exec (.vstx d ga b k ty) s = .next (s1.wrote id (.vstx d ga b k ty) fun c => c))

/-- VREP (R113, R464): its issue reads the count, which must not pass 256, and the body, and stays at the VREP, which
then stands at its first repetition; a count of zero goes past the body. Each further turn of the thread runs one body
word of one repetition, with its stepped registers. -/
def Obligations.VrepRuns : Prop :=
  ∀ (s s1 : State) (id : Nat) (t : Task) (n : BitVec 4) (a : GReg) (st : BitVec 5) (body : List Word32),
    let i := Instr.vrep n a st
    let c := t.ctx.src a
    (s.issues i id t → t.ctx.running = none → 256 < c.toNat → exec i s = .next (s.takeTrap id 1 c 0)) ∧
    (s.issues i id t → t.ctx.running = none → c.toNat ≤ 256 →
      fetchBody id t (t.ctx.pc.toNat + 4) (n.toNat + 1) s = .ok (body, s1) →
      (c = 0 → exec i s = .next (s1.wrote id i fun x =>
        { x with vrep := none, pc := t.ctx.pc + BitVec.ofNat 64 (4 + 4 * (n.toNat + 1)) })) ∧
      (c ≠ 0 → exec i s = .next (s1.wrote id i fun x => { x with
        pc := t.ctx.pc, vrep := some ⟨t.ctx.pc, true, true, c.toNat, body, st.toNat, 0, 0⟩ }))) ∧
    (∀ (r : Vrep) (w : Word32) (j : Instr) (f : VBody), s.runs id t → t.ctx.running = some r → r.loaded = true →
      r.rep < r.count → r.body[r.idx]? = some w → bodyInstr w = some j →
      vectorBody (stepped (BitVec.ofNat 5 (r.rep * r.stride)) j) = some f →
      exec i s = runAs (stepped (BitVec.ofNat 5 (r.rep * r.stride)) j) f (fun _ c => r.advance c) id t s)

/-! ### Tasks and futures (R73 to R92, R119 to R133, R361, R368, R370 to R380, R421, R422, R424, R429 to R431, R469) -/

/-- SPAWN (R429, R430): from a descriptor that passes its checks, with a word of at most 18 bits, a record of kind 1 and a
task whose g1 is the argument and whose h0 is the handle passed; READY at once where nothing is to come, else PENDING;
hd takes the handle. Here without `feed`; `f` is 0 where no handle is passed or the register is empty, and else one
that passes the check, whose count has room, and whose last reference has not been dropped while it was doomed. The thread
has issued a SPAWN then (R105). -/
def Obligations.SpawnResults : Prop :=
  ∀ (s s1 s2 : State) (id : Nat) (t : Task) (h p : HReg) (a b : GReg) (i : Instr) (f : Word) (d : Desc) (n : Nat),
    (i = .spawn h a b ∧ f = 0 ∨ i = .spawnPass h a b p ∧ f = t.ctx.getH p) → s.issues i id t →
    let w := t.ctx.getG b
    let arg := t.ctx.getG (b + 1)
    let dep := bvBits w 15 0
    readDesc id t (t.ctx.src a) s = .ok (d, s1) → w.toNat < 2 ^ 18 → w.getLsbD 16 = false →
    (f = 0 ∨ s1.goodHandle t.vd f = true ∧ (s1.fut t.vd (hIndex f)).reach + 1 ≤ 2 ^ 24 - 1 ∧
      ((s1.fut t.vd (hIndex f)).doomed = true → (s1.fut t.vd (hIndex f)).reach ≠ 0)) →
    let rec0 : Fut :=
      { kind := 1, state := if dep = 0 then 2 else 1, reach := 1 + (if w.getLsbD 17 then 1 else 0), dep := dep,
        source := (t.ctx.src a).toNat, arg := arg, prio := d.prio, detach := w.getLsbD 17,
        context := s1.freshContext t.vd, readytime := if dep = 0 then s1.cycles else 0 }
    newFut t.vd rec0 s1 = .ok (n, s2) →
    let s3 := if f = 0 then s2.release id .module else (s2.release id .module).raise t.vd (hIndex f)
    let s4 := (s3.addTask t.vd (.ordinary n) d (if dep = 0 then .ready else .pending) (clusterOf t.last.tile)
      ((({} : Ctx).setG 1 arg).setH 0 f)).2
    let s5 := s4.putH id h (handleOf (s4.fut t.vd n) n)
    exec i s = .next ((s5.modCore t.last.tile t.last.core fun c => { c with
      lastSpawn := c.lastSpawn.setIfInBounds t.last.thread (some (s5.masterAt t.last.tile)) }).wrote id i fun c => c)

/-- GANG (R380): a gang whose shape the device's quota and a bank can hold waits in the device's queue, its record of kind 5
READY, its handle in hd. FORK (R90 to R92, R374): with no trip the future is DONE at once; otherwise there are as many
recruits as chunks, or as idle threads that can take them, at least one, and they start on them together; pre-empted tasks
of its level or above have those threads first (R94). -/
def Obligations.GangAndFork : Prop :=
  ∀ (s s0 s1 s2 : State) (id : Nat) (t : Task) (h : HReg) (a b : GReg) (d : Desc) (l : List Byte) (n : Nat),
    (s.issues (.gang h a) id t → (t.ctx.src a).toNat % 32 = 0 → loadBytes id t (t.ctx.src a).toNat 32 .dflt false s = .ok (l, s0) →
      dwordIn l 16 < 256 → dwordIn l 24 = 0 → readDesc id t (BitVec.ofNat 64 (dwordIn l 0)) s0 = .ok (d, s1) →
      let groups := bits (dwordIn l 16) 3 0 + 1
      let threads := bits (dwordIn l 16) 7 4 + 1
      let arg := BitVec.ofNat 64 (dwordIn l 8)
      groups ≤ (s1.vd t.vd).tileQuota → threads * d.scratch ≤ Config.bankBytes →
      let rec0 : Fut := { kind := 5, state := 2, reach := 1, source := (t.ctx.src a).toNat, arg := arg, prio := d.prio,
                          readytime := s1.cycles }
      newFut t.vd rec0 s1 = .ok (n, s2) →
      let s3 := s2.release id .module
      exec (.gang h a) s = .next (((s3.putH id h (handleOf (s3.fut t.vd n) n)).modVd t.vd fun v =>
        { v with gangs := v.gangs ++ [⟨n, groups, threads, d.entry, arg, d.scratch, d.prio, d.extents⟩] }).wrote id
          (.gang h a) fun c => c)) ∧
    (s.issues (.fork h a b) id t → readDesc id t (t.ctx.src a) s = .ok (d, s1) →
      newFut t.vd { kind := 4, state := 3, reach := 1, source := (t.ctx.src a).toNat, prio := d.prio } s1 = .ok (n, s2) →
      let trips := (t.ctx.getG b).toNat
      let grain := max 1 (t.ctx.getG (b + 1)).toNat
      let chunks := (trips + grain - 1) / grain
      let s3 := s2.release id .module
      let s4 := s3.putH id h (handleOf (s3.fut t.vd n) n)
      let s5 := s4.placeOverdue t.vd d.prio
      let places := if (s5.overdue t.vd d.prio).isEmpty then
          ((fanOut (clusterOf t.last.tile)).flatMap fun k => s5.idleThreads t.vd d k).take (min chunks 16384)
        else []
      (trips = 0 → exec (.fork h a b) s = .next (((s4.complete t.vd n 5 0 0 0).closeFut t.vd n).wrote id
        (.fork h a b) fun c => c)) ∧
      (trips ≠ 0 → places ≠ [] → exec (.fork h a b) s = .next (((s5.modFut t.vd n fun f =>
        { f with made := places.length, left := places.length }).recruits t.vd n d (clusterOf t.last.tile) trips grain
          chunks places.length places 0).wrote id (.fork h a b) fun c => c)) ∧
      (trips ≠ 0 → places = [] → exec (.fork h a b) s = .next ((((s5.modFut t.vd n fun f =>
        { f with made := 1, left := 1 }).addTask t.vd (.recruit n 0) d .ready (clusterOf t.last.tile)
          (recruitCtx trips grain chunks 1 0)).2).wrote id (.fork h a b) fun c => c)))

/-- R119, R126 to R128, R370, R372, R375 to R379, R422: of a handle that passes its check, FWAIT of a final future gives its
result, 0 unless it is DONE, and its status to its destinations, registers or ports, with an acquire, and where it had parked
drops its wait's own reference; FTEST gives the status; FCANCEL cancels; FREF copies the reference, onto its own source with
no effect, and FDROP drops it; SELF makes a reference to the task's own future; FPIN moves one to an empty slot of memory,
and FTAKE takes it back. -/
def Obligations.HandleResults : Prop :=
  ∀ (s s1 s2 : State) (id : Nat) (t : Task) (h g : HReg) (a b : GReg) (tg : Target) (k : Nat) (x : Word)
    (l : List (Word32 × Option Nat)),
    let hd := t.ctx.getH h
    let f := s.fut t.vd (hIndex hd)
    let good : Prop := hd ≠ 0 ∧ s.goodHandle t.vd hd = true
    let room : Prop := f.reach + 1 ≤ 2 ^ 24 - 1
    let seen := if finalState f.state then s.acquire id .module else s
    (s.issues (.fwait h a b) id t → good → hIndex hd ≠ t.ident.index → finalState f.state = true →
      let s3 := if t.waitReacher.isSome then (s.modTask id fun u => { u with waitReacher := none }).dropHandle t.vd hd else s
      let s4 := (s3.acquire id .module).wrote id (.fwait h a b) fun c => c
      let v : List Word := [if f.state = 5 then f.result else 0, f.status]
      writeDests id ([a, b].zip v) s4 = .ok (l, s1) →
      exec (.fwait h a b) s = .next (s1.afterPushes id t (.fwait h a b) v l)) ∧
    (s.issues (.fwait h a b) id t → a.isPort = false → b.isPort = false → good → hIndex hd ≠ t.ident.index →
      finalState f.state = true → t.waitReacher = none → exec (.fwait h a b) s = .next ((s.acquire id .module).wrote id
        (.fwait h a b) fun c => (c.setG a (if f.state = 5 then f.result else 0)).setG b f.status)) ∧
    (s.issues (.ftest h a) id t → a.isPort = false → good → exec (.ftest h a) s =
      .next (seen.wrote id (.ftest h a) fun c => c.setG a f.status)) ∧
    (s.issues (.ftest h a) id t → a.isPort = false → hd = 0 → exec (.ftest h a) s =
      .next (s.wrote id (.ftest h a) fun c => c.setG a 0)) ∧
    (s.issues (.ftest h a) id t → s.portReady t a →
      (good → ∀ s', (seen.wrote id (.ftest h a) fun c => c).pushed id t a f.status = some s' → exec (.ftest h a) s = .next s') ∧
      (hd = 0 → ∀ s', (s.wrote id (.ftest h a) fun c => c).pushed id t a 0 = some s' → exec (.ftest h a) s = .next s')) ∧
    (s.issues (.fcancel h) id t → good → exec (.fcancel h) s =
      .next ((s.cancelFut t.vd (hIndex hd)).wrote id (.fcancel h) fun c => c)) ∧
    (s.issues (.fref g h) id t → good → g ≠ h → room → exec (.fref g h) s =
      .next (((s.raise t.vd (hIndex hd)).putH id g hd).wrote id (.fref g h) fun c => c)) ∧
    (s.issues (.fref h h) id t → good → exec (.fref h h) s = .next (s.wrote id (.fref h h) fun c => c)) ∧
    (s.issues (.fref g h) id t → hd = 0 → exec (.fref g h) s =
      .next ((s.putH id g 0).wrote id (.fref g h) fun c => c)) ∧
    (s.issues (.fdrop h) id t → exec (.fdrop h) s =
      .next ((s.putH id h 0).wrote id (.fdrop h) fun c => c)) ∧
    (s.issues (.self h) id t → (s.fut t.vd t.ident.index).reach + 1 ≤ 2 ^ 24 - 1 →
      exec (.self h) s =
      .next (((s.raise t.vd t.ident.index).putH id h (handleOf (s.fut t.vd t.ident.index) t.ident.index)).wrote id
        (.self h) fun c => c)) ∧
    (s.issues (.fpin h a) id t → good → slotAt id t (t.ctx.src a) (roomFor t.vd hd 1) s = .ok ((tg, k, 0), s1) →
      (s1.fut t.vd (hIndex hd)).reach + 1 ≤ 2 ^ 24 - 1 → slotWrite t (t.ctx.src a) tg k hd s1 = .ok ((), s2) →
      exec (.fpin h a) s = .next (((s2.slotTraffic id t (t.ctx.src a) tg hd 0 10).raise t.vd (hIndex hd)).wrote id (.fpin h a)
        fun c => c)) ∧
    (s.issues (.ftake h a) id t → slotAt id t (t.ctx.src a) (pure ()) s = .ok ((tg, k, x), s1) →
      (x = 0 → exec (.ftake h a) s =
        .next (((s1.slotTraffic id t (t.ctx.src a) tg 0 0 11).putH id h 0).wrote id (.ftake h a) fun c => c)) ∧
      (x ≠ 0 → s1.goodHandle t.vd x = true → slotWrite t (t.ctx.src a) tg k 0 s1 = .ok ((), s2) →
        exec (.ftake h a) s =
          .next (((s2.slotTraffic id t (t.ctx.src a) tg 0 x 11).putH id h x).wrote id (.ftake h a) fun c => c)))

/-- R119, R122: a handle that fails its check traps with cause 0x09 and the handle as TVAL, with no other effect, and so do
an empty register, TVAL zero, a FWAIT on the task's own future, and a pinned slot that holds no good handle; a count that
would pass 2^24 − 1 traps with cause 0x0B in FREF, FWAIT, SELF, FPIN and a SPAWN that passes a handle. R72, R128: FWAIT of a
future that is not final parks the task, with the wait's own reference standing. -/
def Obligations.HandleStops : Prop :=
  ∀ (s s1 : State) (id k : Nat) (t : Task) (h g : HReg) (a b : GReg) (i : Instr) (tg : Target) (x : Word) (d : Desc),
    let hd := t.ctx.getH h
    let f := s.fut t.vd (hIndex hd)
    let own := s.fut t.vd t.ident.index
    s.issues i id t →
    (i = .fwait h a b ∨ i = .fcancel h ∨ i = .fpin h a ∨ i = .depdec h → hd = 0 → exec i s = .next (s.takeTrap id 9 0 0)) ∧
    (i = .fwait h a b ∨ i = .fcancel h ∨ i = .fpin h a ∨ i = .ftest h a ∨ i = .fref g h ∨ i = .depdec h →
      hd ≠ 0 → s.goodHandle t.vd hd = false → exec i s = .next (s.takeTrap id 9 hd 0)) ∧
    (i = .fref g h → g ≠ h → hd ≠ 0 → s.goodHandle t.vd hd = true → 2 ^ 24 - 1 < f.reach + 1 →
      exec i s = .next (s.takeTrap id 0xB hd 0)) ∧
    (i = .self h → 2 ^ 24 - 1 < own.reach + 1 → exec i s = .next (s.takeTrap id 0xB (handleOf own t.ident.index) 0)) ∧
    (i = .fpin h a → hd ≠ 0 → s.goodHandle t.vd hd = true → slotAt id t (t.ctx.src a) (roomFor t.vd hd 1) s = .ok ((tg, k, x), s1) →
      (x ≠ 0 → exec i s = .next (s.takeTrap id 9 x 0)) ∧
      (x = 0 → 2 ^ 24 - 1 < (s1.fut t.vd (hIndex hd)).reach + 1 → exec i s = .next (s.takeTrap id 0xB hd 0))) ∧
    (i = .ftake h a → slotAt id t (t.ctx.src a) (pure ()) s = .ok ((tg, k, x), s1) → x ≠ 0 → s1.goodHandle t.vd x = false →
      exec i s = .next (s.takeTrap id 9 x 0)) ∧
    (i = .spawnPass g a b h → hd ≠ 0 → readDesc id t (t.ctx.src a) s = .ok (d, s1) → (t.ctx.getG b).toNat < 2 ^ 18 →
      (t.ctx.getG b).getLsbD 16 = false →
      let y := s1.fut t.vd (hIndex hd)
      (s1.goodHandle t.vd hd = false ∨ y.doomed = true ∧ y.reach = 0 → exec i s = .next (s.takeTrap id 9 hd 0)) ∧
      (s1.goodHandle t.vd hd = true → 2 ^ 24 - 1 < y.reach + 1 → exec i s = .next (s.takeTrap id 0xB hd 0))) ∧
    (i = .fwait h a b → hd ≠ 0 → s.goodHandle t.vd hd = true → hIndex hd = t.ident.index →
      exec i s = .next (s.takeTrap id 9 hd 0)) ∧
    (i = .fwait h a b → hd ≠ 0 → s.goodHandle t.vd hd = true → hIndex hd ≠ t.ident.index → finalState f.state = false →
      (t.waitReacher = none → 2 ^ 24 - 1 < f.reach + 1 → exec i s = .next (s.takeTrap id 0xB hd 0)) ∧
      (t.delivered = false → t.waitReacher = none → f.reach + 1 ≤ 2 ^ 24 - 1 → exec i s =
        .next (((s.raise t.vd (hIndex hd)).modTask id fun u => { u with waitReacher := some hd }).park id
          (.future (hIndex hd)))) ∧
      (t.delivered = false → t.waitReacher.isSome → exec i s = .next (s.park id (.future (hIndex hd)))))

/-- R130, R107, R368, R421, R424, R469: FDONE completes an ordinary task's future with its result, and the task goes on, doomed
no more (R131); EXIT ends the task, its future DONE; DEPDEC lowers a PENDING child's count after a release, and its message leaves; RPOINT stops a
doomed task and else only goes on; a SLEEP of less than 1,024 master cycles holds its thread, a longer one parks; YIELD
parks and is READY again at once. -/
def Obligations.TaskResults : Prop :=
  ∀ (s s1 : State) (id n : Nat) (t : Task) (h : HReg) (a : GReg) (hd : Word),
    (s.issues (.fdone a) id t → t.ident = .ordinary n → exec (.fdone a) s =
      .next ((((s.release id .module).complete t.vd n 5 (t.ctx.src a) 0 0).modTask id fun u =>
        { u with fdone := true, doomed := false, cancel := false }).wrote id (.fdone a) fun c => c)) ∧
    (s.issues (.exit a) id t → exec (.exit a) s = .next (s.endTask id (.done (t.ctx.src a)))) ∧
    (s.issues (.depdec h) id t → hd = t.ctx.getH h → hd ≠ 0 → s.goodHandle t.vd hd = true → hKind hd = 1 →
      (s.fut t.vd (hIndex hd)).dep ≠ 0 → exec (.depdec h) s =
      .next ((((s.release id .module).feedChild t.vd (hIndex hd)).futMessage 0x25 t.vd (hIndex hd)).wrote id (.depdec h) fun c => c)) ∧
    (s.issues (.depdecMem a) id t → (t.ctx.src a).toNat % 8 = 0 → loadDword id t (t.ctx.src a).toNat s = .ok (hd, s1) →
      hd ≠ 0 → s1.goodHandle t.vd hd = true → hKind hd = 1 → (s1.fut t.vd (hIndex hd)).dep ≠ 0 →
      exec (.depdecMem a) s =
      .next ((((s1.release id .module).feedChild t.vd (hIndex hd)).futMessage 0x25 t.vd (hIndex hd)).wrote id (.depdecMem a) fun c => c)) ∧
    (s.runs id t → (t.delivered = false → exec .rpoint s = .next (s.wrote id .rpoint fun c => c)) ∧
      (t.delivered = true → exec .rpoint s = .next (s.stopHere id s.cur))) ∧
    (s.issues (.sleep a) id t → (t.ctx.src a).toNat < 1024 → exec (.sleep a) s =
      .next ((if t.ctx.src a = 0 then s else s.modTask id fun u =>
        { u with heldTill := s.masterAt t.last.tile + (t.ctx.src a).toNat }).wrote id (.sleep a) fun c => c)) ∧
    (s.issues (.sleep a) id t → t.delivered = false → 1024 ≤ (t.ctx.src a).toNat → exec (.sleep a) s =
      .next ((s.wrote id (.sleep a) fun c => c).park id (.sleep (s.cycles + (t.ctx.src a).toNat)))) ∧
    (s.issues .yield id t → exec .yield s =
      .next (((s.modTask id fun u => { u.unkeep with ctx := { u.ctx with pc := t.ctx.pc + 4 } }).park id .yield).makeReady id none))

/-! ### Groups and exchanges (R88, R89, R183, R184, R381 to R385, R468) -/

/-- A task comes back to an instruction for which its wake has given it a value (R382, R416). -/
abbrev Sys2Proof.Machine.State.resumes (s : State) (i : Instr) (id : Nat) (t : Task) (x : Word) : Prop :=
  s.runs id t ∧ t.proceeds i ∧ s.destHeld t i.dests = false ∧ s.heldStores id = false ∧
    ∃ k, t.keptFor i = some k ∧ k.instr = none ∧ k.vals = [x] ∧ k.todo = none

/-- GJOIN makes the task a member; GLEAVE is a departure by exit; GARRIVE and GBAR arrive, once an episode, after a release;
GBAR gives the episode's status where its arrival fires it, to a register or a port, and parks where it does not, with its
release and its arrival made; resumed, it gives the status that its wake has given it, after an acquire; XPUT drains the
thread's store buffer and leaves as a packet (R202). A group id
above 4,095, and a group of which GBAR's or GARRIVE's task is no member, trap with cause 0x01, TVAL ga, but GLEAVE's
the instruction word (R341). -/
def Obligations.GroupResults : Prop :=
  ∀ (s s1 : State) (id : Nat) (t : Task) (a b : GReg) (l : List (Word32 × Option Nat)),
    let x := t.ctx.src a
    let n := x.toNat
    let g := s.group t.vd n
    let arrived := s.arriveAt t.vd n id
    (s.issues (.gjoin a) id t → n ≤ 4095 → g.member id = false → exec (.gjoin a) s =
      .next ((s.setGroup t.vd n { g with members := g.members ++ [(id, g.begun)] }).wrote id (.gjoin a) fun c => c)) ∧
    (s.issues (.gjoin a) id t → n ≤ 4095 → g.member id = true → exec (.gjoin a) s =
      .next (s.wrote id (.gjoin a) fun c => c)) ∧
    (s.issues (.gleave a) id t → n ≤ 4095 → exec (.gleave a) s =
      .next ((s.depart t.vd n id (s.lidOf t) .exit).wrote id (.gleave a) fun c => c)) ∧
    (s.issues (.garrive a) id t → n ≤ 4095 → g.member id = true → exec (.garrive a) s =
      .next ((if g.hasArrived id then s else arrived.tryFire t.vd n).wrote id (.garrive a) fun c => c)) ∧
    (s.issues (.gbar a b) id t → n ≤ 4095 → g.member id = true → g.hasArrived id = false → arrived.canFire t.vd n = true →
      let w := (arrived.group t.vd n).status
      let fired := ((arrived.fire t.vd n).acquire id .module).wrote id (.gbar a b) fun c => c
      (b.isPort = false → exec (.gbar a b) s =
        .next (((arrived.fire t.vd n).acquire id .module).wrote id (.gbar a b) fun c => c.setG b w)) ∧
      (writeDests id [(b, w)] fired = .ok (l, s1) →
        exec (.gbar a b) s = .next (s1.afterPushes id t (.gbar a b) [w] l))) ∧
    (s.issues (.gbar a b) id t → n ≤ 4095 → g.member id = true → g.hasArrived id = false →
      arrived.canFire t.vd n = false → (∃ u, arrived.task? id = some u ∧ u.delivered = false) →
      exec (.gbar a b) s = .next (arrived.park id (.barrier n))) ∧
    (s.issues (.gbar a b) id t → t.delivered = false → n ≤ 4095 → g.member id = true →
      g.hasArrived id = true → exec (.gbar a b) s = .next (s.park id (.barrier n))) ∧
    (∀ w, s.resumes (.gbar a b) id t w →
      (b.isPort = false → exec (.gbar a b) s =
        .next ((s.acquire id .module).wrote id (.gbar a b) fun c => c.setG b w)) ∧
      (writeDests id [(b, w)] ((s.acquire id .module).wrote id (.gbar a b) fun c => c) = .ok (l, s1) →
        exec (.gbar a b) s = .next (s1.afterPushes id t (.gbar a b) [w] l))) ∧
    (∀ i, (i = .gjoin a ∨ i = .garrive a ∨ i = .gbar a b) → s.issues i id t →
      4095 < n → exec i s = .next (s.takeTrap id 1 x 0)) ∧
    (s.issues (.gleave a) id t → 4095 < n → exec (.gleave a) s = .next (s.takeTrap id 1 (Instr.word (.gleave a)) 0)) ∧
    (∀ i, (i = .garrive a ∨ i = .gbar a b) → s.issues i id t → n ≤ 4095 → g.member id = false →
      exec i s = .next (s.takeTrap id 1 x 0)) ∧
    (s.issues (.xput a b) id t → n % 8 = 0 → Config.windowBase ≤ n → n < Config.windowBase + 2 ^ 36 →
      n % 2 ^ 24 < Config.bankBytes →
      let lid := (n - Config.windowBase) / 2 ^ 24
      (t.owns lid (n % 2 ^ 24) = true ∨ (s.entry t.vd lid).role = 1 ∧ (s.entry t.vd lid).state ≠ 3) →
      exec (.xput a b) s = .next (({ (s.drain id).send 0x07 0 t.last.tile t.last.core t.vd x (t.ctx.src b)
          (.place t.vd id (.window lid (n % 2 ^ 24) (t.owns lid (n % 2 ^ 24))))
          (.xput s.nextXput t.vd id lid (n % 2 ^ 24) (t.ctx.src b)) with
        nextXput := s.nextXput + 1 } : State).wrote id (.xput a b) fun c => c))

/-! ### Queues (R405 to R417) -/

/-- QNEW takes the lowest free slot of a storage tile and gives its handle, 0 with none free; reserved bits and a tile in
another role trap. Of a queue that its home answers for, no packet being on its way: QFREE ends it, and QBIND binds a port to
it, or with 0 unbinds the port, and discards the port's latch; QPUSH releases and pushes, and parks where the push is held;
QPOP takes the entry whose turn it is (R406), with an acquire, or parks as a popper, and gives the entry that its wake has
given it; QLEN counts. A destination takes what it is given as a register or as a port: a push that its queue holds parks the
task. QENQ sends its entry after a release, of system scope where it names
another module (R332, R411), and completes STALE where no route leads there. A handle that its home refuses (R408) traps with
cause 0x09 and the handle as TVAL, in QFREE, QPOP, QLEN, in QBIND, the latch discarded and the binding as it was (R410),
and, its release done, in QPUSH. -/
def Obligations.QueueResults : Prop :=
  ∀ (s s1 : State) (id n : Nat) (t : Task) (a b : GReg) (p : BitVec 3) (hr : HReg) (q : Queue)
    (l : List (Word32 × Option Nat)),
    let x := t.ctx.src a
    let h : Word32 := x.setWidth 32
    let lid := x.toNat % 4096
    let sr := s.release id .module
    let near : Prop := s.packets = [] ∧ s.queueHeld t.vd h = false ∧ s.queue? t.vd h = some q
    let bind (h : Word32) : State := s.modTask id fun u => { u with ctx := u.ctx.setPort p.toNat { bound := h, latch := none } }
    (s.issues (.qnew b a) id t → x.toNat < 2 ^ 13 → (s.entry t.vd lid).role = 2 →
      (s.entry t.vd lid).state ≠ 2 → (s.entry t.vd lid).state ≠ 3 →
      let none' : Prop := ∀ i < 256, (look (s.vd t.vd).queues (lid, i)).isSome = true
      let first (i : Nat) : Prop := i < 256 ∧ look (s.vd t.vd).queues (lid, i) = none ∧
        ∀ j < i, (look (s.vd t.vd).queues (lid, j)).isSome = true
      let made (i : Nat) : State := (s.modVd t.vd fun v =>
        { v with queues := put v.queues (lid, i) { prio := x.getLsbD 12 } }).slotLive t.vd lid i
      let name (i : Nat) : Word := BitVec.ofNat 64 (lid * 2 ^ 20 + i * 2 ^ 12 + ((s.vd t.vd).slotGen lid i).toNat)
      (b.isPort = false → none' → exec (.qnew b a) s = .next (s.wrote id (.qnew b a) fun c => c.setG b 0)) ∧
      (b.isPort = false → ∀ i, first i → exec (.qnew b a) s =
        .next ((made i).wrote id (.qnew b a) fun c => c.setG b (name i))) ∧
      (none' → writeDests id [(b, 0)] (s.wrote id (.qnew b a) fun c => c) = .ok (l, s1) →
        exec (.qnew b a) s = .next (s1.afterPushes id t (.qnew b a) [0] l)) ∧
      (∀ i, first i → writeDests id [(b, name i)] ((made i).wrote id (.qnew b a) fun c => c) = .ok (l, s1) →
        exec (.qnew b a) s = .next (s1.afterPushes id t (.qnew b a) [name i] l))) ∧
    (s.issues (.qnew b a) id t → 2 ^ 13 ≤ x.toNat → exec (.qnew b a) s = .next (s.takeTrap id 1 x 0)) ∧
    (s.issues (.qnew b a) id t → x.toNat < 2 ^ 13 → (s.entry t.vd lid).state ≠ 2 →
      ((s.entry t.vd lid).role ≠ 2 ∨ (s.entry t.vd lid).state = 3) →
      exec (.qnew b a) s = .next (s.takeTrap id 6 (BitVec.ofNat 64 lid) 0)) ∧
    (s.issues (.qfree a) id t → near → exec (.qfree a) s =
      .next ((s.freeQueue t.vd h q).wrote id (.qfree a) fun c => c)) ∧
    (s.issues (.qbind p a) id t → near ∨ h = 0 → exec (.qbind p a) s = .next ((bind h).wrote id (.qbind p a) fun c => c)) ∧
    (s.issues (.qpush a b) id t → s.queueHeld t.vd h = false → sr.packets = [] → sr.queue? t.vd h = some q →
      let r := (sr.message 0x20 t.last.tile t.vd (t.ctx.src b) (.tile t.vd (qLid h)) h.toNat).push t.vd h q (t.ctx.src b)
        (.task id)
      (r.2 = false → exec (.qpush a b) s = .next (r.1.wrote id (.qpush a b) fun c => c)) ∧
      (r.2 = true → exec (.qpush a b) s = .next ((r.1.modTask id fun u =>
        { u.unkeep with ctx := { u.ctx.clearLatches [a, b] with pc := u.ctx.pc + 4 } }).park id (.push [(h, none)] none t.ctx)))) ∧
    (s.issues (.qpop b a) id t → near →
      (∀ y r, q.gives y r →
        let taken := (s.setQueue t.vd h { q with entries := r }).acquire id .module
        (b.isPort = false → exec (.qpop b a) s = .next (taken.wrote id (.qpop b a) fun c => c.setG b y)) ∧
        (writeDests id [(b, y)] (taken.wrote id (.qpop b a) fun c => c) = .ok (l, s1) →
          exec (.qpop b a) s = .next (s1.afterPushes id t (.qpop b a) [y] l))) ∧
      (q.entries = [] → t.delivered = false → exec (.qpop b a) s =
        .next ((s.setQueue t.vd h { q with poppers := q.poppers ++ [id] }).park id (.pop h none)))) ∧
    (∀ y, s.resumes (.qpop b a) id t y →
      (b.isPort = false → exec (.qpop b a) s =
        .next ((s.acquire id .module).wrote id (.qpop b a) fun c => c.setG b y)) ∧
      (writeDests id [(b, y)] ((s.acquire id .module).wrote id (.qpop b a) fun c => c) = .ok (l, s1) →
        exec (.qpop b a) s = .next (s1.afterPushes id t (.qpop b a) [y] l))) ∧
    (s.issues (.qenq hr a b) id t → newFut t.vd { kind := 3, state := 3, reach := 1 } s = .ok (n, s1) →
      let m : BitVec 16 := x.extractLsb' 32 16
      let s2 := s1.release id (if m = s1.moduleId then .module else .system)
      let s3 := s2.putH id hr (handleOf (s2.fut t.vd n) n)
      let sent (goal : Goal) : State := s3.send 0x21 0 t.last.tile t.last.core t.vd x (t.ctx.src b) goal
        (.enqueue t.vd n id m h (t.ctx.src b) s3.cycles) { handle := h.toNat }
      (m = s1.moduleId →
        exec (.qenq hr a b) s = .next ((sent (.tile t.vd (qLid h))).wrote id (.qenq hr a b) fun c => c)) ∧
      (m ≠ s1.moduleId → s3.routes.any (fun r => r.1 = m.toNat) = true →
        exec (.qenq hr a b) s = .next ((sent (.place t.vd id (.peer m.toNat 0))).wrote id (.qenq hr a b) fun c => c)) ∧
      (m ≠ s1.moduleId → s3.routes.any (fun r => r.1 = m.toNat) = false →
        exec (.qenq hr a b) s =
          .next (((s3.complete t.vd n 5 0 0 1).closeFut t.vd n).wrote id (.qenq hr a b) fun c => c))) ∧
    (s.issues (.qlen b a) id t → near → q.entries.length + q.held.length < 2 ^ 32 →
      let v := BitVec.ofNat 64 (q.entries.length + q.held.length)
      (b.isPort = false → exec (.qlen b a) s = .next (s.wrote id (.qlen b a) fun c => c.setG b v)) ∧
      (writeDests id [(b, v)] (s.wrote id (.qlen b a) fun c => c) = .ok (l, s1) →
        exec (.qlen b a) s = .next (s1.afterPushes id t (.qlen b a) [v] l))) ∧
    (s.queueHeld t.vd h = false →
      (s.packets = [] → s.queue? t.vd h = none →
        (∀ i, (i = .qfree a ∨ i = .qlen b a) → s.issues i id t → exec i s = .next (s.takeTrap id 9 (h.setWidth 64) 0)) ∧
        (s.issues (.qbind p a) id t → h ≠ 0 → exec (.qbind p a) s =
          .next ((bind (t.ctx.port p.toNat).bound).takeTrap id 9 (h.setWidth 64) 0)) ∧
        (s.issues (.qpop b a) id t → exec (.qpop b a) s = .next (s.takeTrap id 9 (h.setWidth 64) 0))) ∧
      (sr.packets = [] → sr.queue? t.vd h = none → s.issues (.qpush a b) id t →
        exec (.qpush a b) s = .next (sr.takeTrap id 9 (h.setWidth 64) 0)))

/-! ### Roles and snapshots (R145, R148, R192 to R196, R391, R418, R420, R427, R428, R450) -/

/-- LEASE of an entry with a role sets its lease and its owner, and withdraws a notice that is not a retirement before its
effective tide; UNLEASE ends a lease, and of an entry without one changes nothing; RACK lets a noticed move come at the next
tide; RLOOK reads the entry. LEASE of an entry of no role, or above half of the device's entries, traps with cause 0x12. -/
def Obligations.RoleResults : Prop :=
  ∀ (s : State) (id : Nat) (t : Task) (a b : GReg),
    let x := t.ctx.src a
    let lid := x.toNat
    let k := t.ctx.src b
    let v := s.vd t.vd
    let e := v.entry lid
    (∀ i, (i = .lease a b ∨ i = .unlease a ∨ i = .rack a ∨ i = .rlook b a) → s.issues i id t → 4095 < lid →
      exec i s = .next (s.takeTrap id 1 x 0)) ∧
    (lid ≤ 4095 →
    (s.issues (.lease a b) id t → (k = 0 ∨ 255 < k.toNat) → exec (.lease a b) s = .next (s.takeTrap id 1 k 0)) ∧
    (s.issues (.lease a b) id t → 1 ≤ k.toNat → k.toNat ≤ 255 → e.role ≠ 0 → e.state ≠ 3 →
      (e.lease ≠ 0 ∨ v.leasedEntries + 1 ≤ v.heldEntries / 2) →
      let s1 := s.modEntry t.vd lid fun e => { e with lease := k.toNat, owner := some id }
      (e.state ≠ 1 ∨ e.notice = none ∨ (∃ n, e.notice = some n ∧ (n.kind = 3 ∨ n.tide ≤ s.cycles)) → exec (.lease a b) s =
        .next (s1.wrote id (.lease a b) fun c => c)) ∧
      (e.state = 1 → (∃ n, e.notice = some n ∧ n.kind ≠ 3 ∧ s.cycles < n.tide) → exec (.lease a b) s =
        .next ((s1.withdraw t.vd lid 1).wrote id (.lease a b) fun c => c))) ∧
    (s.issues (.lease a b) id t → 1 ≤ k.toNat → k.toNat ≤ 255 →
      (e.role = 0 ∨ e.state = 3 ∨ (e.lease = 0 ∧ v.heldEntries / 2 < v.leasedEntries + 1)) →
      exec (.lease a b) s = .next (s.takeTrap id 0x12 x 0)) ∧
    (s.issues (.unlease a) id t → exec (.unlease a) s =
      .next ((if e.lease = 0 then s else s.modEntry t.vd lid fun e => { e with lease := 0, owner := none }).wrote id
        (.unlease a) fun c => c)) ∧
    (s.issues (.rack a) id t →
      (∀ n, e.notice = some n → e.state = 1 → exec (.rack a) s = .next ((s.modEntry t.vd lid fun e =>
        { e with notice := some { n with acked := true, tide := min n.tide (tideAfter s.cycles) } }).wrote id (.rack a)
          fun c => c)) ∧
      (e.notice = none ∨ e.state ≠ 1 → exec (.rack a) s = .next (s.wrote id (.rack a) fun c => c))) ∧
    (s.issues (.rlook b a) id t → b.isPort = false → exec (.rlook b a) s =
      .next (s.wrote id (.rlook b a) fun c => c.setG b (BitVec.ofNat 64 (e.gen.toNat * 2 ^ 32 +
        e.lease * 2 ^ 24 + (if e.backed then 2 ^ 23 else 0) + e.role * 2 ^ 14 + e.state * 2 ^ 12 + e.newrole * 2 ^ 10 +
        e.phys)))))

/-- SNAPOPEN of a closed region whose descriptor is sound translates its undo area, releases, writes the header (no line,
open, the capacity) and opens the region; of an open one it traps with cause 0x01. SNAPCOMMIT and SNAPROLL of a closed
region change nothing; of an open one they release and close it, SNAPROLL once the lines journalled are restored. -/
def Obligations.SnapshotResults : Prop :=
  ∀ (s s1 s2 : State) (id : Nat) (t : Task) (a b : GReg) (l : List Byte) (pins : List TlbEntry),
    let n := (t.ctx.src a).toNat
    let g := look (s.vd t.vd).regions n
    (∀ i, (i = .snapopen a ∨ i = .snapcommit a ∨ i = .snaproll a b) → s.issues i id t → 7 < n →
      exec i s = .next (s.takeTrap id 1 (t.ctx.src a) 0)) ∧
    (n ≤ 7 →
    (s.issues (.snapopen a) id t → g = none → readRegion id t ((s.vd t.vd).regionTable + 32 * n) s = .ok (l, s1) →
      let base := dwordIn l 0
      let size := dwordIn l 8
      let undo := dwordIn l 16
      let undosize := dwordIn l 24
      base % 65536 = 0 → size % 65536 = 0 → size ≠ 0 → base + size ≤ Config.windowBase → undo % 64 = 0 →
      336 ≤ undosize → undo + undosize ≤ Config.windowBase → (base + size ≤ undo ∨ undo + undosize ≤ base) →
      (∀ x ∈ (s.vd t.vd).regions, x.2.base + x.2.size ≤ base ∨ base + size ≤ x.2.base) →
      pinUndo t.vd n (undo + undosize) (undosize / 65536 + 2) undo s1 = .ok (pins, s2) →
      let r : Region := { base := base, size := size, undo := undo, undosize := undosize, pins := pins }
      exec (.snapopen a) s = .next ((((s2.release id .module).undoWrite r 0
        (cellsAt 0 ([0, 1, (undosize - 64) / 272, 0, 0, 0, 0, 0].flatMap (toBytes 8)))).modVd t.vd fun v =>
          { v with regions := put v.regions n r }).wrote id (.snapopen a) fun c => c)) ∧
    (s.issues (.snapopen a) id t → g.isSome = true → exec (.snapopen a) s = .next (s.takeTrap id 1 (t.ctx.src a) 0)) ∧
    (s.issues (.snapcommit a) id t →
      (g = none → exec (.snapcommit a) s = .next (s.wrote id (.snapcommit a) fun c => c)) ∧
      (∀ r, g = some r → exec (.snapcommit a) s = .next (((s.release id .module).closeRegion t.vd n r).wrote id
        (.snapcommit a) fun c => c))) ∧
    (s.issues (.snaproll a b) id t →
      (g = none → exec (.snaproll a b) s = .next (s.wrote id (.snaproll a b) fun c => c)) ∧
      (∀ r, g = some r →
        let s3 := s.release id .module
        restoreLines t.vd r (t.ctx.src b) (min (s3.undoDword r 0) ((r.undosize - 64) / 272)) s3 = .ok ((), s1) →
        exec (.snaproll a b) s = .next (((s1.closeRegion t.vd n r).acquire id .module).wrote id (.snaproll a b)
          fun c => c))))

/-! ### System registers and translations (R42, R43, R112, R247, R257, R267, R281, R432, R433, R442, R443) -/

/-- SRRD and SRWR: in the mode that may use it each register is read as it stands, and takes what is written but for
its reserved bits; a write of VSHARE clears the lane counts of its tile's cores. A number that is reserved, or that SRWR
may not write, is in no word that decodes, in either mode (R43, R62), and SRWR of it would trap with cause 0x01. -/
def Obligations.SystemRegisters : Prop :=
  ∀ (s : State) (id : Nat) (t : Task) (g : GReg) (r : BitVec 12),
    let x := t.ctx.src g
    (s.issues (.srrd g r) id t → g.isPort = false → ∀ v : Word,
      (r = 0 ∧ v = t.ctx.fctl ∨ r = 1 ∧ v = t.ctx.fstat ∨ r = 2 ∧ v = (s.tile t.last.tile).vshare ∨
        r = 3 ∧ v = BitVec.ofNat 64 s.cycles ∨ r = 4 ∧ v = s.whereWord t.last ∨ r = 0x100 ∧ v = t.ctx.tcause ∨
        r = 0x101 ∧ v = t.ctx.tval ∨ r = 0x102 ∧ v = t.ctx.tepc ∨ r = 0x103 ∧ v = t.ctx.tstatus ∨
        r = 0x104 ∧ v = (s.vd t.vd).tvec ∨ r = 0x200 ∧ v = (s.vd t.vd).l2bypass) →
      exec (.srrd g r) s = .next (s.wrote id (.srrd g r) fun c => c.setG g v)) ∧
    (s.issues (.srwr g r) id t → ∀ s' : State,
      (r = 0 ∧ s' = (s.modTask id fun u => { u with ctx := { u.ctx with fctl := fctlWrite u.ctx.fctl x } }) ∨
       r = 1 ∧ s' = (s.modTask id fun u => { u with ctx := { u.ctx with fstat := x &&& 0x3F } }) ∨
       r = 2 ∧ s' = (s.modTile t.last.tile fun u =>
         { u with vshare := x &&& 0xFFFFFFFF, cores := u.cores.map fun c => { c with laneCount := 0 } }) ∨
       r = 0x100 ∧ s' = (s.modTask id fun u => { u with ctx := { u.ctx with tcause := x &&& 0x0FFF00FF } }) ∨
       r = 0x101 ∧ s' = (s.modTask id fun u => { u with ctx := { u.ctx with tval := x } }) ∨
       r = 0x102 ∧ s' = (s.modTask id fun u => { u with ctx := { u.ctx with tepc := x &&& 0xFFFFFFFFFFFFFFFC } }) ∨
       r = 0x103 ∧ s' = (s.modTask id fun u => { u with ctx := { u.ctx with tstatus := x &&& 0xFFF3 } }) ∨
       r = 0x104 ∧ s' = (s.modVd t.vd fun v => { v with
         tvec := x &&& 0x01FFFFFFFFFFFFFC, tvecOld := v.tvec, tvecChanged := s.masters })) →
      exec (.srwr g r) s = .next (s'.wrote id (.srwr g r) fun c => c)) ∧
    (s.issues (.srwr g r) id t → (r.toNat ∈ [3, 4, 0x200] ∨ 5 ≤ r.toNat ∧ r.toNat < 0x100 ∨ 0x105 ≤ r.toNat) →
      exec (.srwr g r) s = .next (s.takeTrap id 1 (Instr.word (.srwr g r)) 0)) ∧
    (∀ (w : Word32) (rest : List Word32), decode w rest = .ok (.srrd g r) →
      r.toNat ≤ 4 ∨ 0x100 ≤ r.toNat ∧ r.toNat ≤ 0x104 ∨ r = 0x200) ∧
    (∀ (w : Word32) (rest : List Word32), decode w rest = .ok (.srwr g r) →
      r.toNat ≤ 2 ∨ 0x100 ≤ r.toNat ∧ r.toNat ≤ 0x104)

/-- TINV and TINV of all (R257, R442): every copy of the translations named is gone from every TLB and extent table of the
device, the stores translated with them are performed, and no register is written; while a command that pins one then is
still to end, the thread stays at the instruction, and does no more. -/
def Obligations.TinvResults : Prop :=
  ∀ (s : State) (id : Nat) (t : Task) (a : GReg),
    let va := (t.ctx.src a).toNat
    let z := pageSize (s.pageAround t.vd va)
    let near : TlbEntry → Bool := fun x => x.vd = t.vd && (x.vpn * pageSize x.level) / z == va / z
    let every : TlbEntry → Bool := fun x => x.vd = t.vd
    let holders (gone : TlbEntry → Bool) : List Nat := (s.pinners.filter fun c => c.pins.any gone).map fun c => c.id
    let s1 := (s.forget near).performWhere t.vd fun w => w / z == va / z
    let s2 := (s.forget every).performWhere t.vd fun _ => true
    (s.issues (.tinv a) id t → t.tinv = none →
      (holders near = [] → exec (.tinv a) s = .next (s1.wrote id (.tinv a) fun c => c)) ∧
      (holders near ≠ [] → exec (.tinv a) s = .next (s1.modTask id fun u => { u with tinv := some (holders near) }))) ∧
    (s.issues .tinvAll id t → t.tinv = none →
      (holders every = [] → exec .tinvAll s = .next (s2.wrote id .tinvAll fun c => c)) ∧
      (holders every ≠ [] → exec .tinvAll s = .next (s2.modTask id fun u => { u with tinv := some (holders every) }))) ∧
    (∀ i l, i = .tinv a ∨ i = .tinvAll → s.issues i id t → t.tinv = some l →
      (s.pinners.any (fun c => c.id ∈ l) = true → exec i s = .next s) ∧
      (s.pinners.any (fun c => c.id ∈ l) = false → exec i s =
        .next ((s.modTask id fun u => { u with tinv := none }).wrote id i fun c => c)))

/-! ### Tile commands (R56 to R61, R115, R117, R194, R256, R270, R345, R437 to R446) -/

/-- The checks of a command itself, before its pages are pinned (R345, R397, R437, R438, R441, R444, R446). -/
def Sys2Proof.Machine.State.ownChecks (s : State) (id : Nat) (t : Task) (i : Instr) (vals : List Word) : Prop :=
  let w := viewOf i vals
  let short : Prop := (w.rest.getD 0 0).toNat < 2 ^ 32
  let inBanks (sh : Shape) : Prop := sh.acc.toNat + sh.blocks - 1 ≤ 63
  let berth (x : Option Arg) : Prop := checkBerth t x s = .ok ((), s)
  match i with
  | .mma _ sh _ _ _ | .mmas _ sh _ _ _ => inBanks sh ∧ berth w.a ∧ berth w.b
  | .accz _ sh | .accld _ sh _ | .accst _ sh _ _ _ _ => inBanks sh
  | .tcopy _ _ c _ => short ∧ lenOf w % elemBytes c.ty = 0 ∧ addrOf w.a % elemBytes c.ty = 0 ∧ addrOf w.c % elemBytes c.ty = 0
  | .tfill _ c _ _ => short ∧ lenOf w % elemBytes c.ty = 0 ∧ addrOf w.c % elemBytes c.ty = 0
  | .tgather _ a b c _ => short ∧ extentFits w.a = true ∧ addrOf w.a % elemBytes a.ty = 0 ∧ addrOf w.b % elemBytes b.ty = 0 ∧
      addrOf w.c % elemBytes c.ty = 0
  | .tscatter _ a b c _ => short ∧ extentFits w.c = true ∧ addrOf w.a % elemBytes a.ty = 0 ∧ addrOf w.b % elemBytes b.ty = 0 ∧
      addrOf w.c % elemBytes c.ty = 0
  | .txchg _ sh _ => (vals.getD 0 0).toNat ≤ 4095 ∧ (s.group t.vd (vals.getD 0 0).toNat).member id = true ∧ inBanks sh
  | .tsub _ _ _ _ _ => short ∧ (ringOf w.c).1 % 256 = 0 ∧ addrOf w.a % 256 = 0 ∧ (t.ringAt (ringOf w.c).1 (ringOf w.c).2).isSome = true
  | .tabld .. => addrOf w.a % 64 = 0
  | .qfence .. => True
  | _ => False

/-- The check that a push makes of its tables once the pages are pinned (R290, R437), the table that a TABLD carries, and
the state in which it has read its image: its packets are on their way, its lines in the L2. -/
def Sys2Proof.Machine.State.tableChecks (s : State) (id : Nat) (t : Task) (c : Cmd) : Option Table → State → Prop :=
  match c.instr with
  | .mma _ _ a b _ | .mmas _ _ a b _ => fun x s' => x = none ∧ s' = s ∧ checkTable id t.last a.ty 0 s = .ok ((), s) ∧
      checkTable id t.last b.ty 1 s = .ok ((), s)
  | .tabld .. => fun x s' =>
      let r := s.engineRead t.last.tile c (addrOf c.view.a) 1088
      let l := plainBytes r.1
      (∀ y ∈ r.1, ∃ z, y = .ok z) ∧ s' = r.2 ∧
      tableFault (ofBytes (l.take 8)) ((l.drop 8).take 56 |>.all (· == 0)) (words32 256 (l.drop 64)) = none ∧
      x = some (tableOf (ofBytes (l.take 8)) (words32 256 (l.drop 64)))
  | _ => fun x s' => x = none ∧ s' = s

/-- The head of a tile command's word 0. -/
def Sys2Proof.Machine.headOf : Instr → Option CmdHead
  | .mma hd .. | .mmas hd .. | .accz hd _ | .accld hd .. | .accst hd .. | .tcopy hd .. | .tfill hd .. | .tgather hd ..
  | .tscatter hd .. | .txchg hd .. | .tsub hd .. | .qfence hd .. | .tabld hd .. => some hd
  | _ => none

/-- A command that passes its checks, whose pages are pinned and whose lines are reserved, and that finds its queue with
room, its partition free or its own and a record to be had, enters its queue with its values, and the thread goes on past
its eight words. TABLD carries the table that it has read. -/
def Obligations.CommandPush : Prop :=
  ∀ (s s0 s1 s2 s3 : State) (id : Nat) (t : Task) (i : Instr) (hd : CmdHead) (pins : List TlbEntry) (r : List (Nat × Nat))
    (f : Option Nat) (tb : Option Table),
    headOf i = some hd → s.issues i id t →
    let vals := i.sources.map t.ctx.src
    let ranges := rangesOf i (viewOf i vals)
    let p := t.last
    let q := Instr.engine i
    s.ownChecks id t i vals →
    pinAll id t (rangeRuns i ranges) [] (s.release id .tile) = .ok (pins, s0) →
    let c : Cmd := { id := s0.nextCmd, task := id, vd := t.vd, instr := i, fctl := t.ctx.fctl, vals := vals, pins := pins,
                     fut := none, link := hd.chain }
    s0.tableChecks id t c tb s1 → reserveAll id t.vd ranges s1 = .ok (r, s2) →
    ((s2.core p.tile p.core).queue q).length < 16 →
    (Instr.owns i = true → (s2.core p.tile p.core).owner = none ∨ (s2.core p.tile p.core).owner = some id) →
    (hd.fut.isSome = true → (s1.vd t.vd).live < (s1.vd t.vd).futQuota) → cmdFuture id t.vd hd s2 = .ok (f, s3) →
    let s4 : State := { s3 with nextCmd := s3.nextCmd + 1 }
    let s5 := if Instr.owns i then s4.modCore p.tile p.core fun k => { k with owner := some id } else s4
    exec i s = .next ((s5.enter p q { c with fut := f, table := tb, reserved := r } hd.tag).wrote id i fun x => x)

/-- TUNSUB (R190, R445) of a ring inside the task's window begins the end of the subscription that runs with that ring on a
core of the tile, which is over after the panel in flight; with no such subscription its future is DONE at once. -/
def Obligations.TunsubResults : Prop :=
  ∀ (s s1 : State) (id off : Nat) (t : Task) (hd : CmdHead) (c : Opnd) (f : Option Nat),
    let i := Instr.tunsub hd c
    let ring := ringOf (viewOf i (i.sources.map t.ctx.src)).c
    let runs (k : Nat) : Prop := ∃ u, (s1.core t.last.tile k).sub = some u ∧ u.cmd.task = id ∧ u.ring = off
    s.issues i id t → t.ringAt ring.1 ring.2 = some off →
    (hd.fut.isSome = true → (s.vd t.vd).live < (s.vd t.vd).futQuota) →
    cmdFuture id t.vd hd (s.release id .tile) = .ok (f, s1) →
    ((∀ k < 4, ¬ runs k) → exec i s = .next ((match f with
      | some n => (s1.complete t.vd n 5 0 0 0).closeFut t.vd n
      | none => s1).wrote id i fun x => x)) ∧
    (∀ k < 4, runs k → (∀ j < k, ¬ runs j) → exec i s = .next ((s1.modCore t.last.tile k fun x =>
      { x with sub := x.sub.map fun u => { u with ending := true, waiters := u.waiters ++ f.toList } }).wrote id i
        fun x => x))

/-! ### Dispatch, pre-emption, reclamation (R85, R92 to R103, R131 to R136, R271) -/

/-- The mode bit of a device is settled for a tile: it did not change within the last 64 master cycles of its die (R4, R104). -/
abbrev Sys2Proof.Machine.State.modeSettled (s : State) (vd tile : Nat) : Prop :=
  s.within (s.vd vd).modeChanged tile 64 = false

/-- DISPATCH (R98 to R100): an idle thread of a compute tile takes the first task of its cluster that nothing holds back (`pick`):
a task that has not run gives way to the first class-1 task that no cluster can place and pre-empted task of its level or
above that may run there (R94, R100), and is passed over where none may. The task for which a pre-emption or a completion
keeps the thread comes first (R92, R93; notes/assumptions/82.md). WORK_STEAL (R102): with none to take in its own, it takes
such a task of the nearest cluster that has one, which is then homed here.
TIME_SLICE_EXPIRY (R93): a task that has held its thread for 2^20 cycles is due. AGING (R96): a READY task below level 7
rises one level for each 2^20 cycles since its readytime. DISPATCH_COUNT_HALVING (R101): every 2^20 master cycles, those
that are due together. R71: among threads that no depth-first device limits, a core's issue slot is the first one that can
issue, starting after the one that issued last; a thread issues where it holds a RUNNING task that no short SLEEP holds.
R105: a limited thread, whose device is in depth-first mode and which has issued SPAWN in the last 4,096 cycles, is passed
over, and has the slot the next time the round-robin comes to it. -/
def Obligations.DispatchEvents : Prop :=
  (∀ (s : State) (tile core : Nat), core < 4 →
    (∀ n id t, s.taskAt ⟨tile, core, n⟩ = some (id, t) → s.limited t ⟨tile, core, n⟩ = false ∧
      (s.core tile core).passed.toList.getD n false = false) →
    s.issueSlot tile core = (((List.range 4).map fun i => ((s.core tile core).lastThread + 1 + i) % 4).find? fun n =>
      s.eligible ⟨tile, core, n⟩, s)) ∧
  (∀ (s : State) (tile core n id : Nat) (t : Task) (r : List Nat),
    s.taskAt ⟨tile, core, n⟩ = some (id, t) → s.eligible ⟨tile, core, n⟩ = true → s.limited t ⟨tile, core, n⟩ = true →
    let note (x : Bool) : State := s.modCore tile core fun c => { c with passed := c.passed.setIfInBounds n x }
    ((s.core tile core).passed.toList.getD n false = false →
      s.slotFrom tile core (n :: r) = (note true).slotFrom tile core r) ∧
    ((s.core tile core).passed.toList.getD n false = true → s.slotFrom tile core (n :: r) = (some n, note false))) ∧
  ∀ (s : State) (p : Place) (vd id : Nat) (t : Task),
    (s.deviceAt p = some vd → s.isIdle p = true → s.modeSettled vd p.tile →
      let mode := (s.vd vd).depthFirst
      let fits (x : Nat × Task) : Bool := s.waitsFor vd x.2 p && s.mayRun x.2 p
      let holders (x : Nat × Task) := s.heldBackBy vd p x.2.prio mode
      (∀ x r, (x.2.cls = 1 ∨ holders x = [] → s.pick vd p mode (x :: r) = some x) ∧
        (∀ y, x.2.cls ≠ 1 → (holders x).find? fits = some y → s.pick vd p mode (x :: r) = some y) ∧
        (x.2.cls ≠ 1 → holders x ≠ [] → (holders x).find? fits = none → s.pick vd p mode (x :: r) = s.pick vd p mode r)) ∧
      (∀ x, s.tasks.find? (fun x => decide (x.2.direct = some p) && fits x) = some x →
        (x.2.cls = 1 ∨ ∀ y ∈ holders x, y.2.last = p) → exec (.dispatch p) s = .next (s.startOn x.1 p)) ∧
      (s.tasks.find? (fun x => decide (x.2.direct = some p) && fits x) = none →
        exec (.dispatch p) s = .next ((s.pick vd p mode (s.queueFor vd p mode)).elim s fun x => s.startOn x.1 p) ∧
        (s.queueFor vd p mode = [] →
          let able (c : Nat) := s.tasks.filter fun x => s.waitsFor vd x.2 p && x.2.home = c && x.2.bound.isNone
          ∀ c x, (probeOrder (clusterOf p.tile)).find? (fun c => !(able c).isEmpty) = some c →
            s.pick vd p mode (s.inOrder mode (able c)) = some x → s.mayRun x.2 p = true →
            exec (.workSteal p) s =
              .next ((s.modTask x.1 fun u => { u with home := clusterOf p.tile }).startOn x.1 p)))) ∧
    (s.isIdle p = false → exec (.dispatch p) s = .next s ∧ exec (.workSteal p) s = .next s) ∧
    (s.taskAt p = some (id, t) → t.due = false → t.since + 2 ^ 20 ≤ s.cycles →
      exec (.timeSliceExpiry p) s = .next (s.modTask id fun u => { u with due := true })) ∧
    (s.task? id = some t → t.status = .ready → t.prio < 7 → t.readytime + 2 ^ 20 * (t.prio - t.descPrio + 1) ≤ s.cycles →
      exec (.aging id) s = .next (match t.ident with
        | .ordinary i => (s.modTask id fun u => { u with prio := u.prio + 1 }).modFut t.vd i fun f =>
            { f with prio := t.prio + 1 }
        | _ => s.modTask id fun u => { u with prio := u.prio + 1 })) ∧
    (∀ c, let n := (s.dies.toList.getD (c / 64) {}).master / 2 ^ 20 - (s.cluster c).halved
      (n = 0 → exec (.dispatchCountHalving c) s = .next s) ∧
      (n ≠ 0 → exec (.dispatchCountHalving c) s = .next { s.modCluster c (fun x => { x with halved := x.halved + n }) with
        vds := s.vds.map fun v => (v.1, { v.2 with
          used := v.2.used.map fun u => if u.1 = c then (u.1, u.2 / 2 ^ n) else u }) }))

/-- PREEMPTION (R93, R271): where no thread can take a READY task, a due task of its device, of no higher descriptor priority,
whose thread the waiting one could take, is quiesced, and its thread kept for the waiting one, which gives way to a
pre-empted task of its level or above where it has never run (R94); its save ended (SAVE_TRANSFER_COMPLETE), once no move
holds its stores and exchanges, which are performed (R215, R271), it is READY, bound to no core. DOOMED_FLAG_DELIVERY (R134): the flag reaches the core of a running task, and a waiting one is stopped
where it stands. RECLAIM (R136): a stopped task whose stores no move holds is torn down, and with no started command left
its place and its future are given back; of a device that is being destroyed it writes no future (R329). GANG_PLACEMENT (R85, R86): the first gang of an ACTIVE device starts whole, in a
group of its own, with no pre-empted task of its level or above waiting (R94). -/
def Obligations.StopAndStartEvents : Prop :=
  ∀ (s : State) (w id vd gid : Nat) (x t : Task) (p : Place) (g : GangWait) (rest : List GangWait) (tiles : List Nat),
    (s.task? w = some x → x.status = .ready → x.doomed = false → x.direct = none →
      (x.ran = true ∨ s.overdue x.vd x.prio = []) →
      (∀ n ∈ s.computeTiles x.vd, ∀ p ∈ placesOf n, s.mayRun x p = false) →
      let victim (id : Nat) (y : Task) (p : Place) : Prop := (id, y) ∈ s.tasks ∧ y.status = .running p ∧ y.vd = x.vd ∧
        y.due = true ∧ y.descPrio ≤ x.prio ∧ s.computes x.vd p.tile = true ∧
        (x.bound = none ∨ x.bound = some (p.tile, p.core)) ∧ s.mayFollow x id p = true
      (∃ id y p, victim id y p) →
      ∃ id y p, victim id y p ∧
        exec (.preemption w) s = .next ((s.quiesce id p).modTask w fun u => { u with direct := some p })) ∧
    (s.task? w = some x → ∀ p, x.status = .saving p → x.doomed = false → s.running w = false →
      (s.saveWaits x.vd w p.tile = true → exec (.saveTransferComplete w) s = .next s) ∧
      (s.saveWaits x.vd w p.tile = false →
        let u := ((s.release w .module).saveAway w p.tile p.core).writeContext w true
        exec (.saveTransferComplete w) s = .next ((u.modTask w fun y =>
          { y with home := u.homeAfter y.vd p.tile, bound := none, prio := y.descPrio, extTable := [], due := false,
                   preempted := true }).makeReady w x.woke))) ∧
    (s.task? id = some t → t.doomed = true → t.status = .running p → t.delivered = false →
      exec (.doomedFlagDelivery id) s = .next (s.setTask id { t with delivered := true })) ∧
    (s.task? id = some t → t.doomed = true → (t.status = .pending ∨ t.status = .ready ∨ ∃ w, t.status = .blocked w) →
      exec (.doomedFlagDelivery id) s = .next (s.setTask id { t with status := .stopping none })) ∧
    (s.task? id = some t → (∃ q, t.status = .stopping q) → s.saveWaits t.vd id t.last.tile = false → t.torn = false →
      ((s.vd t.vd).destroying = true → exec (.reclaim id) s = .next (s.quietDown id t)) ∧
      ((s.vd t.vd).destroying = false →
        ((s.tearDown id).running id = false → exec (.reclaim id) s = .next ((s.tearDown id).reclaimed id)) ∧
        ((s.tearDown id).running id = true → exec (.reclaim id) s = .next (s.tearDown id)))) ∧
    (s.task? id = some t → s.saveWaits t.vd id t.last.tile = true → exec (.reclaim id) s = .next s) ∧
    ((s.vd vd).gangs = g :: rest → (s.vd vd).pwr = 0 → (s.vd vd).destroying = false → s.overdue vd g.prio = [] →
      s.gangTiles vd g = some tiles →
      (s.vd vd).freeGroup = some gid →
      let d : Desc := { entry := g.entry, scratch := g.scratch, prio := g.prio, extents := g.extents }
      exec (.gangPlacement vd) s = .next (((s.modVd vd fun v => { v with gangs := rest }).modFut vd g.fut fun f =>
        { f with state := 3, ran := true, made := g.groups * g.threads, left := g.groups * g.threads }).gangStart vd g gid
          ((tiles.zipIdx).flatMap fun x =>
            (((s.idleThreads vd d x.1).take g.threads).zipIdx).map fun y => (x.2, y.2, y.1))))

/-! ### Store buffers, vector lanes, engines, berths (R110 to R117, R188 to R190, R201, R210, R234, R298, R412) -/

/-- STORE_BUFFER_DRAIN (R201): the oldest store of a buffer reaches its tile's L1 and its packet leaves; one of a release of
module or system scope is then performed at once (R207). The part of a vector store that lies in the next line drains with
it (R459). The packet of the k-th store on its way from the tile moves on, and at its home, with none before it on its path
(R241), it is performed and acknowledged (R234). VECTOR_LANE_BIND (R111): a free lane group takes a ready head of the core
that it serves, once no halving is due. VECTOR_RETIRE: the oldest instruction leaves, its lane group is free, and one cycle
or more is counted. LANE_COUNT_HALVING: every 4,096 master cycles, those that are due together. -/
def Obligations.CoreEvents : Prop :=
  ∀ (s : State) (id n k j c g i vd u : Nat) (t : Task) (st : Store) (r : List Store) (e : VqEntry) (l : List VqEntry)
    (p : Pkt),
    (s.task? id = some t → t.sbuf = st :: r →
      let s1 := ((s.setTask id { t with sbuf := r }).modTile t.last.tile fun y => { y with l1 := l1Update y.l1 st }).send 0x02
        (flits st.bytes.length) t.last.tile t.last.core t.vd (BitVec.ofNat 64 st.va) 0 (.place t.vd id st.target)
        (.store t.vd id st) st.op
      let s2 := if st.rel then s1.flush (fun p => match p.body with
        | .store _ v x => v = id && x.rel
        | _ => false) else s1
      exec (.storeBufferDrain id 0) s =
        .next (if (s2.task? id).any fun y => y.sbuf.head?.any fun x => x.joined then s2.drainFirst id else s2)) ∧
    (s.task? id = some t → s.nthStore t.last.tile k = some j → s.packets[j]? = some p →
      (p.loc ≠ .arrived → exec (.storeBufferDrain id (k + 1)) s = .next (s.hop j)) ∧
      (s.mayReceive j p = true → p.body = .store vd u st → exec (.storeBufferDrain id (k + 1)) s =
        .next ((({ s with packets := s.packets.eraseIdx j } : State).perform vd u st).answer p 0x03 0))) ∧
    (g < 4 → (s.tile n).lanes.toList[g]? = some none → s.laneDue n = 0 → (s.tile n).vserve = some c →
      ((s.tile n).core c).vhead = some i →
      exec (.vectorLaneBind n g) s = .next (s.setTile n (({ s.tile n with
        lanes := (s.tile n).lanes.setIfInBounds g (some c) } : Tile).setCore c { (s.tile n).core c with
          vq := ((s.tile n).core c).vq.mapIdx fun j y => if j = i then { y with bound := some g } else y }))) ∧
    (((s.tile n).core c).vq = e :: l → e.bound = some g → ∃ m, exec (.vectorRetire n c) s =
      .next (({ s with draws := s.draws + 1 } : State).setTile n (({ s.tile n with
        lanes := (s.tile n).lanes.setIfInBounds g none } : Tile).setCore c { (s.tile n).core c with
          vq := l, laneCount := ((s.tile n).core c).laneCount + 1 + m }))) ∧
    (s.laneDue n = 0 → exec (.laneCountHalving n) s = .next s) ∧
    (s.laneDue n ≠ 0 → exec (.laneCountHalving n) s = .next (s.modTile n fun y => { y with
      halved := y.halved + s.laneDue n, cores := y.cores.map fun q => { q with laneCount := q.laneCount / 2 ^ s.laneDue n } }))

/-- ENGINE_COMMAND_START (R115): an engine that serves no command starts the head of the next core, round-robin from the one it
served last, whose head is ready. ENGINE_COMMAND_COMPLETE: a QFENCE at the head of its queue completes once no command that
it awaits is left (R412); a started copy or store command performs its packets and ends (R210, R234), for TSCATTER in an
order that is open; TABLD gives its table to its slot (R437); ACCZ writes its blocks (R348); a subscription that is over
ends (R190). A fill of a running subscription takes the next berth, if it is EMPTY, and makes it FILLING, its streamer
serving the cores round-robin (R115); it is complete when the panel is written, and waits while the berth does not hold
FILLING, or a flash channel of another die serves a streamer of its own die first (R23); a DRAINING berth of a subscription without pull becomes EMPTY (R188, R190). A TXCHG message that arrives is held by
its member (R300), or with the saved TXCHG (R449). What the cluster's byte budget does not admit waits (R317). `s1`: the
command's packets on their way delivered. -/
def Obligations.EngineEvents : Prop :=
  ∀ (s : State) (n k b d v g r : Nat) (q : EngQ) (c m : Cmd) (l : List Cmd) (u : Sub) (w : Word) (y : Message),
    (q ≠ .stream → (∀ j < 4, ∀ x ∈ ((s.tile n).core j).queue q, x.started = false) →
      ((List.range 4).map fun j => ((s.tile n).served.toList.getD (engineNumber q) 3 + 1 + j) % 4).find?
        (fun j => (s.startable n j q).isSome) = some k → s.startable n k q = some c →
      let s1 := (s.modTile n fun t => { t with served := t.served.setIfInBounds (engineNumber q) k }).startCmd n k c
      (s.afforded s1 n = true → exec (.engineCommandStart n q) s = .next s1) ∧
      (s.afforded s1 n = false → exec (.engineCommandStart n q) s = .next s)) ∧
    (∀ j p, s.packets[j]? = some p → p.body = .txchg v g r d y → s.mayReceive j p = true →
      exec (.txchgMessageArrival j) s =
        .next (let s1 := ({ s with packets := s.packets.eraseIdx j } : State).answer p 0x03 0
          (s1.setGroup v g { s1.group v g with rounds := (s1.group v g).rounds.map fun x =>
            if x.n = r then { x with msgs := put x.msgs d y } else x }).saveMessage v g r d y)) ∧
    ((s.core n k).sub = some u →
      (u.filling = none → u.ending = false → u.next < u.total → u.berths ≠ 0 → s.isSaving u.cmd.task = false →
        s.berthWord u.cmd.task u.ring (u.next % u.berths) = some w → berthState w = 0 →
        s.computes u.cmd.vd n = true → s.streamerNext u.streamer = some (n, k) →
        let s1 := s.berthMove u.cmd.task u.ring (u.next % u.berths) 0 (withState 1)
        exec (.berthFillStart n k) s = .next (({ s1 with dies := s1.dies.mapIdx fun i x => if i = u.streamer / 8 then
          { x with streamers := x.streamers.setIfInBounds (u.streamer % 8) (4 * (n % 256) + k) } else x } : State).modCore n k
            fun x => { x with sub := some { u with filling := some u.next } })) ∧
      (u.filling.isSome = true → s.fillWaits u = false → s.fillYields u = false → s.afforded (s.fillDone n k) n = true →
        exec (.berthFillComplete n k) s = .next (s.fillDone n k)) ∧
      (u.filling = none ∨ s.fillWaits u = true ∨ s.fillYields u = true ∨ s.afforded (s.fillDone n k) n = false →
        exec (.berthFillComplete n k) s = .next s) ∧
      (b < u.berths → s.berthWord u.cmd.task u.ring b = some w → berthState w = 4 → u.pull = false →
        exec (.berthDrain n k b) s = .next (s.berthMove u.cmd.task u.ring b 4 (withState 0)))) ∧
    ((s.core n k).queue q = c :: l →
      let here : State := { s with cur := ⟨n, k, s.cur.thread⟩ }
      let s1 := here.flush (Pkt.engineOf c.id)
      (c.isFence = true → s.pendingAmong c.preds = false → s.pendingAmong (c.awaits.filter (· ≠ c.id)) = false →
        exec (.engineCommandComplete n k q) s = .next (here.finishCmd c 0)) ∧
      (c.isFence = false → c.started = true → s.engineHeld n c = false → s.berthsTaken c = true →
        (∀ o : Bool, (o = false ∧ ((∃ hd a d len, c.instr = .tcopy hd a d len) ∨ (∃ hd d len v, c.instr = .tfill hd d len v) ∨
            (∃ hd a b d len, c.instr = .tgather hd a b d len) ∨ (∃ hd sh d a b ty, c.instr = .accst hd sh d a b ty))) ∨
            (o = true ∧ ∃ hd a b d len, c.instr = .tscatter hd a b d len) →
          let s2 := s1.doPackets n k c.id o c.packets
          s2.findCmd n k c.id = some m →
          ((s2.cluster (clusterOf n)).granted = (s1.cluster (clusterOf n)).granted ∨ (s2.cluster (clusterOf n)).fits 0 = true →
            exec (.engineCommandComplete n k q) s = .next (s2.finishCmd m m.detail)) ∧
          ((s2.cluster (clusterOf n)).granted ≠ (s1.cluster (clusterOf n)).granted → (s2.cluster (clusterOf n)).fits 0 = false →
            exec (.engineCommandComplete n k q) s = .next s)) ∧
        (∀ hd slot a, c.instr = .tabld hd slot a → exec (.engineCommandComplete n k q) s =
          .next ((s1.modCore n k fun x => { x with slots := x.slots.setIfInBounds slot.toNat c.table }).finishCmd c 0)) ∧
        (∀ hd sh, c.instr = .accz hd sh → c.detail ≠ 2 → exec (.engineCommandComplete n k q) s =
          .next (((s1.modCore n k fun x => x.writeAcc (s1.accWrites n k c s1.draws).1).leaveBerths n k c).finishCmd c
            (s1.accWrites n k c s1.draws).2)) ∧
        (∀ hd a d len pull, c.instr = .tsub hd a d len pull → (s1.core n k).sub = some u →
          u.cmd.id = c.id → s1.subOver u = true → exec (.engineCommandComplete n k q) s = .next (s1.endSub n k))))

/-- A started MMA or MMAS (R284, R292 to R294, R296, R398, R399) whose rows read without error: at its completion every
element of its range becomes what the pipeline makes of it, K-block after K-block with one rounding each, under the
command's captured FCTL; no other element of the partition is written. `ra` and `rb`: the rows of A and B, read in `s1`, the
state of the completion: when a matrix command reads its operands is the model's choice (notes/assumptions/16.md, DESIGN
CHOICE), where R205 gives a span of time; unkept positions of a sparse row read as notes/assumptions/20.md says. -/
def Obligations.MatrixResults : Prop :=
  ∀ (s : State) (n k : Nat) (c : Cmd) (l : List Cmd) (hd : CmdHead) (sh : Shape) (oa ob : Opnd) (sc : ScaleMode)
    (a b : Arg) (ra rb : Nat → MRow) (sparse : Bool),
    (s.core n k).queue .matrix = c :: l → c.started = true → s.engineHeld n c = false → s.berthsTaken c = true →
    c.detail ≠ 2 →
    c.instr = (if sparse then .mmas hd sh oa ob sc else .mma hd sh oa ob sc) → c.view.a = some a → c.view.b = some b →
    let s1 := ({ s with cur := ⟨n, k, s.cur.thread⟩ } : State).flush (Pkt.engineOf c.id)
    let slot (j : Nat) := (s1.core n k).slots.toList.getD j none
    let xa := (c.view.rest.getD 0 0).toNat
    let xb := (c.view.rest.getD 1 0).toNat
    (∀ i < sh.rows, (if sparse then s1.sparseRow c a sc xa (slot 0) i else s1.denseRow c a sc xa (slot 0) i) =
      .ok (ra i)) →
    (∀ j < sh.cols, s1.denseRow c b sc xb (slot 1) j = .ok (rb j)) →
    ∃ w : List (Nat × Word32),
      exec (.engineCommandComplete n k .matrix) s = .next (((({ s1 with draws := s1.draws + 1 } : State).modCore n k
        fun x => x.writeAcc w).leaveBerths n k c).finishCmd c 0) ∧
      (∀ i j, i < sh.rows → j < sh.cols → look w (accIndex sh i j) =
        some (BitVec.ofNat 32 (pipeline c.fctl (accGet (s1.core n k).acc (accIndex sh i j)).toNat (ra i) (rb j)))) ∧
      (∀ x ∈ w, ∃ i j, i < sh.rows ∧ j < sh.cols ∧ x.1 = accIndex sh i j)

/-! ### What reaches its home (R162, R183, R184, R258, R259, R332, R365, R407, R409, R411) -/

/-- BARRIER_FIRE of an episode in which all have arrived; EVENT_ARRIVAL, XPUT_LANDING and ENQUEUE_REPLY of a packet at its
destination stop with none before it that must come first, and its acknowledgement or reply, which carries what the queue's
home answers (R234); FORWARD of a packet that an old home has sent on, which is applied at the new one (R162), where what
stands at an old home that the logical tile has left is not; HELD_PUSH_ACCEPT of the first push held, for a parked popper or
where there is room (R407), none for a device that is being destroyed (R329); REMOTE_ENQUEUE_ARRIVAL at a queue that
answers; FAULT_RECORD_DEFERRED once the fault ring has room. -/
def Obligations.ArrivalEvents : Prop :=
  ∀ (s : State) (k vd id lid off n gr f slot : Nat) (x : Word) (mask : Word32) (h : Word32) (mo src : BitVec 16)
    (st : Store) (q : Queue) (who : Pusher) (rest : List (Word × Pusher)) (t : Task) (p : Pkt),
    let s1 : State := { s with packets := s.packets.eraseIdx k }
    let active (s : State) : State := s.modVd vd fun v => { v with idleSince := none }
    (s.canFire vd gr = true → exec (.barrierFire vd gr) s = .next (s.fire vd gr)) ∧
    (s.packets[k]? = some p → s.mayReceive k p = true →
      (p.body = .event vd id mask → (s.vd vd).pwr = 0 →
        (∀ y ∈ s.packets.take k, ∀ m, y.body = .event vd id m → clusterOf (s.dstOf y) ≠ clusterOf p.hdr.dst) →
        exec (.eventArrival k) s =
          .next ((if mask.getLsbD 31 then s1 else active s1).eventHere vd p.hdr.dst mask)) ∧
      (s.astray p = false →
        (p.body = .xput n vd id lid off x → p.forwards = false →
          (s.packets.zipIdx.any fun q => (decide (q.2 < k) || q.1.forwards) && q.1.sameIssuer p) = false →
          exec (.xputLanding k) s = .next ((s1.land vd id lid off x).answer p 0x03 0)) ∧
        (p.body = .enqueue vd f id mo h x n → p.forwards = false → s.enqueueBefore k vd id mo h = false →
          (mo = s.moduleId → (s.vd vd).pwr = 0 → exec (.enqueueReply k true) s = .next ((active s1).enqueue vd h x f)) ∧
          (mo ≠ s.moduleId → ∀ d, exec (.enqueueReply k d) s = .next (s1.answerEnqueue p.hdr.dst vd f h !d))) ∧
        (p.forwards = true → ((s.packets.take k).any fun q => q.forwards && q.homed == p.homed) = false →
          (p.body = .store vd id st → exec (.forward k) s = .next ((s1.perform vd id st).answer p 0x03 0)) ∧
          (p.body = .xput n vd id lid off x → exec (.forward k) s = .next ((s1.land vd id lid off x).answer p 0x03 0)) ∧
          (∀ c t, p.body = .engine vd c st → p.goal = .place vd t st.target →
            let r := s1.performAt vd t st
            exec (.forward k) s = .next ((if r.2 then r.1
              else r.1.modCmdAt c fun c => { c with detail := worse c.detail 3 }).answer p 0x03 0)) ∧
          (∀ kind len y l, p.body = .request kind len y l → exec (.forward k) s = .next (s1.answer p kind len y)) ∧
          (p.body = .enqueue vd f id mo h x n → mo = s.moduleId → (s.vd vd).pwr = 0 →
            exec (.forward k) s = .next ((active s1).enqueue vd h x f)))) ∧
      (s.astray p = true → exec (.xputLanding k) s = .next s ∧ exec (.forward k) s = .next s)) ∧
    (let a := (s.vd vd).futBase + 64 * f
     s.answerEnqueue n vd f h (refused := true) = ((s.complete vd f 5 0 0 1).closeFut vd f).message 0x22 n vd 1
       (.place vd 0 (.phys a false)) h.toNat (BitVec.ofNat 64 a) ∧
     s.answerEnqueue n vd f h (refused := false) = ((s.complete vd f 5 0 0 0).closeFut vd f).message 0x22 n vd 0
       (.place vd 0 (.phys a false)) h.toNat (BitVec.ofNat 64 a)) ∧
    (look (s.vd vd).queues (lid, slot) = some q → q.held = (x, who) :: rest → (s.vd vd).pwr = 0 →
      (s.vd vd).destroying = false →
      let hd : Word32 := BitVec.ofNat 32 (lid * 2 ^ 20 + slot * 2 ^ 12 + ((s.vd vd).slotGen lid slot).toNat)
      (s.firstPopper q = none → s.hasRoom vd hd q = true → exec (.heldPushAccept vd lid slot) s =
        .next (((active s).setQueue vd hd { q with held := rest, entries := q.entries ++ [x] }).acceptedFor vd hd who)) ∧
      (∀ u, s.firstPopper q = some u → exec (.heldPushAccept vd lid slot) s =
        .next ((((active s).setQueue vd hd { q with held := rest, poppers := q.poppers.filter (· ≠ u) }).hand u x).acceptedFor
          vd hd who)) ∧
      (s.firstPopper q = none → s.hasRoom vd hd q = false → exec (.heldPushAccept vd lid slot) s = .next s)) ∧
    ((look (s.vd vd).queues (lid, slot)).isSome = true → (s.vd vd).destroying = true →
      exec (.heldPushAccept vd lid slot) s = .next s) ∧
    ((look s.vds vd).isSome = true → (s.vd vd).destroying = false → (s.vd vd).pwr = 0 → s.queueHeld vd h = false →
      let s2 := active s
      (s2.queue? vd h = none → exec (.remoteEnqueueArrival src vd h x) s = .next { s2 with response := [1] }) ∧
      (s2.queue? vd h = some q → exec (.remoteEnqueueArrival src vd h x) s = .next { (s2.push vd h q x (.peer src)).1 with
        response := if (s2.push vd h q x (.peer src)).2 then [] else [0] })) ∧
    (∀ access cause va level pte, s.task? id = some t → t.status = .blocked (.ring (access, cause, va, level, pte)) →
      (s.faultRecord t access cause va level pte = none → exec (.faultRecordDeferred id) s = .next s) ∧
      (∀ rec0 u, s.faultRecord t access cause va level pte = some (n, rec0, u) →
        (access = 3 → exec (.faultRecordDeferred id) s = .next ((u.modTask id fun y =>
          { y with woke := some (.trap cause (BitVec.ofNat 64 va)) }).makeReady id none)) ∧
        (access ≠ 3 →
          let u1 := u.modTask id fun y => { y with fault := some { n := n, record := rec0, va := va },
                                                   status := .blocked (.fault (pte / 256) (rec0 / 256)) }
          exec (.faultRecordDeferred id) s = .next (match u1.walk (u1.vd t.vd).root va with
            | .ok _ => u1.makeReady id none
            | .error _ => u1))))

/-! ### The census, the tide, tiles (R149 to R166, R225 to R246) -/

/-- CENSUS_SAMPLE (R150), once its boundary has passed, adds to the pressures of each device that is not collapsed its READY
tasks, its compute and storage tiles with their live lines, and the occupied data slots at its tiles' stops; the boundary is
counted in CYCLES, which is the model's reading of R4 (notes/assumptions/92.md, DESIGN CHOICE). A pressure is high and low by
the thresholds of R150. CENSUS_EPOCH, in a module with one device: every lease falls by one and lapses at zero (R149), failing
tiles of its entries are to be retired (R165), and the other decisions of R151 follow; with no pressure high and no tile above
the share there are none; what was measured begins anew. NOTICE issues a decided change that still stands, or a retirement, or drops it;
NOTICE_RECORD_DEFERRED writes the first record that waits. TILE_FAILING_MARK marks a tile; TILE_FAILURE of a pool tile
retires it; INJECTION_STARVATION gives its rank to the first entry of a stop into a direction that has been refused for 1,024
master cycles of its die from the first refusal on (R237; notes/assumptions/44.md, DESIGN CHOICE). In a drain a notice and its record wait (R244). -/
def Obligations.CensusEvents : Prop :=
  ∀ (s : State) (vd n d : Nat) (c : Decision) (r : List Decision) (x : Word × Word × Word × Word)
    (l : List (Word × Word × Word × Word)),
    (s.clock.sample < s.cycles / 4096 → (s.vds.map Prod.fst).Nodup → ∃ t, exec .censusSample s = .next t ∧
      t.clock = { s.clock with sample := s.clock.sample + 1 } ∧ t.mem = s.mem ∧ t.tasks = s.tasks ∧ t.tiles = s.tiles ∧
      t.vds.map Prod.fst = s.vds.map Prod.fst ∧ (look s.vds vd = none → t.vd vd = s.vd vd) ∧
      ∀ v, look s.vds vd = some v →
        let held := v.rolemap.filter fun x =>
          x.2.role ≠ 0 && x.2.state ≠ 3 && !x.2.backed && (s.tile x.2.phys).owner == some (vd, x.1)
        let ready := (s.tasks.filter fun x => x.2.vd = vd && x.2.status = .ready).length
        let q := v.pressure
        (v.pwr = 2 → t.vd vd = v) ∧
        (v.pwr ≠ 2 → t.vd vd = { v with pressure := { q with
          samples := q.samples + 1, readySum := q.readySum + ready, anyReady := q.anyReady || ready ≠ 0,
          computeSum := q.computeSum + (held.filter fun x => x.2.role = 1).length,
          storageSum := q.storageSum + (held.filter fun x => x.2.role = 2).length,
          liveSum := q.liveSum + ((held.filter fun x => x.2.role = 2).map fun x => (s.tile x.2.phys).live.length).sum,
          occupied := q.occupied + (held.map fun x => s.dataTaken x.2.phys).sum,
          slots := q.slots + (held.map fun x => s.dataSlots x.2.phys).sum } })) ∧
    (let q := (s.vd vd).pressure
     ∀ g ∈ s.gauges vd, (g.role = 1 → g.tiles ≠ 0 → q.computeSum ≠ 0 →
        (g.high = true ↔ 4 * q.computeSum ≤ q.readySum) ∧ (g.low = true ↔ 2 * q.readySum < q.computeSum)) ∧
      (g.role = 1 → g.tiles = 0 → g.high = q.anyReady ∧ g.low = !q.anyReady) ∧
      (g.role = 2 → g.tiles ≠ 0 → q.storageSum ≠ 0 →
        let x := q.liveSum + q.misses * q.samples
        (g.high = true ↔ 3 * 40960 * q.storageSum ≤ 4 * x) ∧ (g.low = true ↔ 4 * x < 40960 * q.storageSum)) ∧
      (g.role = 3 → q.slots ≠ 0 →
        (g.high = true ↔ 3 * q.slots ≤ 5 * q.occupied) ∧ (g.low = true ↔ 5 * q.occupied < q.slots))) ∧
    (s.clock.epoch < s.cycles / 2 ^ 20 →
      let s0 : State := { s with clock := { s.clock with epoch := s.clock.epoch + 1 } }
      (s.vds = [] → s.tiles = [] → exec .censusEpoch s = .next s0) ∧
      (∀ v, s.vds = [(vd, v)] → (∀ x ∈ s.tiles, x.2.failing = true → x.2.owner.isSome = true) →
        (v.pwr ≠ 0 → exec .censusEpoch s =
          .next { s0 with vds := [(vd, { v with decisions := [], pressure := {} })] }) ∧
        (v.pwr = 0 →
          let lapsed (e : Entry) : Entry :=
            { e with lease := e.lease - 1, owner := if e.lease = 1 then none else e.owner }
          let fails := (v.rolemap.filter fun x => x.2.role ≠ 0 && !x.2.backed && (x.2.state = 0 || x.2.state = 1) &&
            (s.tile x.2.phys).failing && !(x.2.notice.any fun n => n.kind = 3)).map fun x => x.1
          let s1 : State := { s0 with vds := [(vd, { v with
            rolemap := v.rolemap.map fun x => (x.1, lapsed x.2),
            decisions := fails.map fun l => ⟨l, (v.entry l).role, none, 3⟩ })] }
          exec .censusEpoch s = .next ((s1.decisionsOf vd).modVd vd fun v => { v with pressure := {} }) ∧
          ((∀ g ∈ s1.gauges vd, g.high = false) → s1.tilesOf vd ≤ s1.tileShare vd → s1.decisionsOf vd = s1)))) ∧
    ((s.vd vd).decisions = c :: r →
      let t := s.modVd vd fun v => { v with decisions := r }
      (s.draining = true → exec (.notice vd) s = .next s) ∧
      (s.draining = false → c.kind ≠ 3 → s.stands vd c = true → exec (.notice vd) s = .next (t.issue vd c)) ∧
      (s.draining = false → c.kind ≠ 3 → s.stands vd c = false → exec (.notice vd) s = .next t) ∧
      (s.draining = false → c.kind = 3 →
        let e := s.entry vd c.lid
        let fails : Prop := e.role ≠ 0 ∧ e.state ≤ 1 ∧ e.backed = false ∧ (s.tile e.phys).failing = true ∧
          (s.tile e.phys).owner = some (vd, c.lid)
        (fails → (s.vd vd).pwr = 0 → exec (.notice vd) s = .next (t.issueRetirement vd c.lid)) ∧
        (¬ fails → exec (.notice vd) s = .next t))) ∧
    ((s.vd vd).deferred = x :: l → s.draining = false → s.noticeUsed (s.vd vd) + (s.vd vd).noticeReserved < 256 →
      let t := (s.modVd vd fun v => { v with deferred := l }).noticePut vd x
      exec (.noticeRecordDeferred vd) s = .next (if bvBits x.1 19 16 = 3 then t.roleLine vd else t)) ∧
    (n < 1024 → (s.tile n).retired = false →
      exec (.tileFailingMark n) s = .next (s.modTile n fun t => { t with failing := true }) ∧
      ((s.tile n).owner = none → exec (.tileFailure n) s = .next (s.retirePool n))) ∧
    (let refused : Pkt → Prop := fun p => p.starved = false ∧ p.stop = n ∧ nextMove n (s.dstOf p) = .ring d ∧
        ∃ c, p.since = some c ∧ c + 1024 ≤ s.masterAt n
     (∀ k p, s.packets[k]? = some p → refused p → (∀ j q, j < k → s.packets[j]? = some q → ¬ refused q) →
       exec (.injectionStarvation n d) s = .next { s with packets := s.packets.modify k fun p => { p with starved := true } }) ∧
     ((∀ p ∈ s.packets, ¬ refused p) → exec (.injectionStarvation n d) s = .next s))

/-- TIDE_DRAIN begins a drain, in each die that holds a message in a ring, which changes no memory, task, tile or device; a
shift ends the drain of a die whose message slots it leaves empty (R242); once no die drains, TIDE_DRAIN_END begins the
moves whose effective tide has come. ROLE_MOVE_COMPLETE of a compute entry on which nothing runs any more, whose tasks are
saved (R159) once no move holds their stores and exchanges, of a routing entry, of a storage entry whose new home is free, and of an entry that a pool tile fills. In a
preset cycle (R243) each link is followed by one that starts where it ends. -/
def Obligations.MoveEvents : Prop :=
  ∀ (s : State) (vd lid n : Nat),
    let e := s.entry vd lid
    (s.draining = false → s.clock.tide < s.cycles / 65536 → ∃ t, exec .tideDrain s = .next t ∧ t.draining = true ∧
      t.mem = s.mem ∧ t.tasks = s.tasks ∧ t.tiles = s.tiles ∧ t.vds = s.vds ∧ t.packets = s.packets ∧ t.clock = s.clock ∧
      (∀ x ∈ t.stops, x.2.peak = 0) ∧ ∀ i : Fin 4, (t.dies[i]).draining = !s.ringEmpty i ∧ (t.dies[i]).shifts = 0 ∧
        (t.dies[i]).sidePeak = 0 ∧ (t.dies[i]).vertPeak = 0) ∧
    (∀ i : Fin 4, (s.dies[i]).draining = true → s.ringEmpty i = false → ((s.shift i).dies[i]).shifts = (s.dies[i]).shifts + 1 ∧
      ((s.shift i).dies[i]).draining = !(s.shift i).ringEmpty i) ∧
    (s.draining = true → (∃ i : Fin 4, (s.dies[i]).draining = true) → exec .tideDrainEnd s = .next s) ∧
    (s.draining = true → (∀ i : Fin 4, (s.dies[i]).draining = false) →
      let s1 : State := { s with draining := false, clock := { s.clock with tide := s.clock.tide + 1 } }
      exec .tideDrainEnd s = .next ((s1.dueMoves ((s.clock.tide + 1) * 65536)).foldl
        (fun s x => s.beginMove x.1 x.2 ((s1.clock.tide) * 65536)) s1)) ∧
    (e.state = 2 → e.role = 1 → s.quiet e.phys = true → s.settledOff vd e.phys = true → e.target = none →
      exec (.roleMoveComplete vd lid) s = .next ((s.saveOff vd e.phys).completeInPlace vd lid)) ∧
    (e.state = 2 → e.role = 3 → s.routed e.phys = true → e.target = none →
      exec (.roleMoveComplete vd lid) s = .next (s.completeInPlace vd lid)) ∧
    (e.state = 2 → e.role = 2 → e.backed = false → (s.tile e.phys).owner = some (vd, lid) → s.targetBusy e = false →
      exec (.roleMoveComplete vd lid) s = .next ((match e.target with
        | some n => if (s.tile n).role = 1 then s.saveOff vd n else s
        | none => s).completeStorage vd lid)) ∧
    (e.state = 2 → e.role = 0 → e.target = some n →
      exec (.roleMoveComplete vd lid) s = .next (s.completeCast vd lid n)) ∧
    (∀ (walk : List Nat) (stop dir : Nat), presetOk walk = true → stop < 1024 → dir < 4 →
      ∃ d, d < 4 ∧ nextLink walk stop dir = some (neighbour stop dir, d))

/-! ### Idle collapse and wake (R304 to R315, R425) -/

/-- IDLE_COLLAPSE of a device that has been idle for its delay, whose cycles are counted in CYCLES, the model's reading of R4
(notes/assumptions/92.md, DESIGN CHOICE): it is COLLAPSING, and with no pending notice nothing else
changes. COLLAPSE_COMPLETE leaves it COLLAPSED, counted once more, with its role map frozen, its failing tiles retired, its
L2 lines dropped and its groups down (R310). WAKE, WAKETIME, IDLECTL: the registers take their values; a wake write of an
ACTIVE device restarts its idle count and stores to its mailbox; WAKETIME_EXPIRY is a wake write of 0. WAKE_COMPLETE leaves
the device ACTIVE. SLEEP_EXPIRY makes the task READY. -/
def Obligations.IdleEvents : Prop :=
  ∀ (s : State) (vd id since : Nat) (x : BitVec 64) (t : Task) (till : Nat),
    let v := s.vd vd
    (v.idleSince = some since → v.pwr = 0 → v.idleEn = true → v.destroying = false → since + v.idleDelay * 4096 ≤ s.cycles →
      s.deviceIdle vd v = true → (∀ e ∈ v.rolemap, e.2.state ≠ 1 ∧ e.2.notice = none) → exec (.idleCollapse vd) s =
        .next (s.modVd vd fun v => { v with pwr := 1, idleSince := none, decisions := [], collapseStep := 0 })) ∧
    (v.pwr = 1 → (∀ e ∈ v.rolemap, e.2.state ≠ 2 ∧ e.2.notice = none) →
      let failing := (v.rolemap.filter fun x => x.2.role ≠ 0 && x.2.state ≠ 3 && !x.2.backed && (s.tile x.2.phys).failing).map
        fun x => x.2.phys
      let s1 := ((((s.modVd vd fun v => { v with pwr := 4 }).collapseTasks vd).modVd vd fun v =>
        { v with frozen := v.rolemap, reserve := s.reserveOf vd }).freezeMap vd)
      let s2 := (v.rolemap.foldl (fun s x => s.collapseEntry vd x.1) s1).collapseL2 vd
      exec (.collapseComplete vd) s = .next (((failing.foldl (fun s n => s.retire n) s2).groupsDown vd).modVd vd fun v =>
        { v with pwr := 2, ncoll := v.ncoll + 1 })) ∧
    (v.pwr = 3 → exec (.wakeComplete vd) s = .next (((((if v.collapseStep = 9 then s.resume vd else s.abort vd).modVd vd
      fun v => { v with heldItems := [], pwr := 0, collapseStep := 0, idleSince := none }).makeAll vd v.heldItems).modVd vd
        fun v => { v with idleSince := none }).migrateEvents vd)) ∧
    (s.answers vd = true → v.pwr = 0 → exec (.wake vd x) s = .next (((s.modVd vd fun v => { v with wake := x }).modVd vd
      fun v => { v with idleSince := none }).mailboxStore vd x)) ∧
    (s.answers vd = true → (x = 0 ∨ s.cycles < x.toNat) →
      exec (.waketime vd x) s = .next (s.modVd vd fun v => { v with waketime := x })) ∧
    (s.answers vd = true → x ≠ 0 → x.toNat ≤ s.cycles →
      exec (.waketime vd x) s = .next ((s.modVd vd fun v => { v with waketime := 0 }).wakeWrite vd 0)) ∧
    (s.answers vd = true → v.waketime ≠ 0 → v.waketime.toNat ≤ s.cycles → exec (.waketimeExpiry vd) s =
      .next ((s.modVd vd fun v => { v with waketime := 0 }).wakeWrite vd 0)) ∧
    (s.answers vd = true → exec (.idlectl vd x) s = .next (s.modVd vd fun v => { v with
      idleEn := x.getLsbD 32, idleDelay := if bvBits x 31 0 = 0 then 1 else bvBits x 31 0 })) ∧
    (s.task? id = some t → t.status = .blocked (.sleep till) → till ≤ s.cycles →
      ((s.vd t.vd).pwr = 0 → exec (.sleepExpiry id) s = .next (s.makeReady id none)) ∧
      ((s.vd t.vd).pwr = 1 ∨ (s.vd t.vd).pwr = 2 → exec (.sleepExpiry id) s = .next (s.wakeEvent t.vd)) ∧
      ((s.vd t.vd).pwr = 3 → exec (.sleepExpiry id) s = .next s)) ∧
    (s.task? id = some t → t.status = .blocked (.sleep till) → s.cycles < till → exec (.sleepExpiry id) s = .next s)

/-! ### Power (R317 to R325, R336) -/

/-- BUDGET, PCTL and DIECTL are requests, which the next boundary applies; a 1 written to THROTTLE clears a sticky bit; TELEPER
takes at most 16; a sensor re-calibrated begins to pass its checks anew; POWER_INTERVAL moves its clock on, applies every
request, and the applied pattern is the smallest of the five; the byte budget of a cluster in which no current, thermal or
slew reason lives is whole (R26). CURRENT_SAMPLE of 2,950 A and above lowers the current pattern of each cluster of the die
by 4, at least to 1, and no budget within the interval (R29). -/
def Obligations.PowerEvents : Prop :=
  ∀ (s : State) (c k die amps : Nat) (x : BitVec 64) (rs : List SensorReading),
    (c < 256 →
      exec (.budget c x) s = .next (s.modCluster c fun y => { y with reqBudget := some (x.setWidth 24) }) ∧
      exec (.pctl c x) s = .next (s.modCluster c fun y => { y with reqPctl := some (x.setWidth 4) }) ∧
      exec (.throttle c x) s = .next (s.modCluster c fun y =>
        { y with throttle := y.throttle &&& ~~~(x.setWidth 13 &&& 0x1F) }) ∧
      exec (.teleper c x) s = .next (s.modCluster c fun y => { y with teleper := BitVec.ofNat 5 (min 16 (bvBits x 4 0)) }) ∧
      (k < 4 → exec (.sensorRecalibration c k) s = .next (s.modCluster c fun y => { y with sensors := { y.sensors with
        recal := y.sensors.recal.setIfInBounds k true, passed := y.sensors.passed.setIfInBounds k 0 } }))) ∧
    (∀ h : die < 4, exec (.dieCtl die x) s =
      .next { s with dies := s.dies.set die { s.dies[die] with reqDiectl := some (x.getLsbD 0) } }) ∧
    (s.clock.interval < s.cycles / 4096 → ∃ t, exec (.powerInterval rs) s = .next t ∧
      t.clock = { s.clock with interval := s.clock.interval + 1 } ∧
      ∀ c < 256, (t.cluster c).budget = (s.cluster c).reqBudget.getD (s.cluster c).budget ∧
        (t.cluster c).pctl = (s.cluster c).reqPctl.getD (s.cluster c).pctl ∧ (t.cluster c).reqBudget = none ∧
        (t.cluster c).granted = 0 ∧ (t.cluster c).first = none ∧ ((t.cluster c).live % 8 = 0 → (t.cluster c).limit = none) ∧
        (t.cluster c).reqPctl = none ∧ (t.cluster c).applied ≤ (t.cluster c).pctl.toNat + 1 ∧
        (t.cluster c).applied = (t.cluster c).smallest) ∧
    (∀ h : die < 4, (s.dies[die]).sampled < (s.dies[die]).master / 256 → 2950 ≤ amps →
      ((s.dies[die]).lowered = none ∨ ∃ c, (s.dies[die]).lowered = some c ∧ c + 1024 ≤ (s.dies[die]).master) →
      ∃ t, exec (.currentSample die amps) s = .next t ∧ t.mem = s.mem ∧ t.tasks = s.tasks ∧
        ∀ c ∈ clustersOf die, (t.cluster c).current = max 1 ((s.cluster c).current - 4) ∧
          (t.cluster c).limit = (s.cluster c).limit ∧ (t.cluster c).budget = (s.cluster c).budget ∧
          (t.cluster c).applied = min (s.cluster c).applied (t.cluster c).current)

/-! ### Hosts, devices, boot (R83, R216, R316, R324 to R336) -/

/-- Semaphores (R326): a free one is claimed, and only its owner frees it; a link that goes down frees its port's. CREATE and
DESTROY (R327 to R329) are accepted, but ignored while a command runs, and COMMAND_DONE gives the result; a write of the
host region that is no aligned doubleword, or names no register, is aborted (R324). CXL.mem and peers (R216, R330): an
access that the module does not map is answered with an error, and one that no device owns and no monitor watches is
performed. HDM_DECODER_COMMIT, APERTURE_TABLE_WRITE (R331), PEER_LINK_TIMEOUT (R332) in every state: the enqueues that the
port carries are gone, and the future of each completes STALE, in their order; PSEUDO_CHANNEL_RETIREMENT. -/
def Obligations.HostEvents : Prop :=
  ∀ (s : State) (port sem addr n bytes i vd : Nat) (r : CmdRecord) (a : MemAccess) (x : BitVec 128) (y : BitVec 64),
    let own := (s.sems.toList.getD sem 0).toNat
    (port < 2 → sem < 32 → own = 0 → exec (.semClaim port sem) s =
      .next { s with sems := s.sems.setIfInBounds sem (BitVec.ofNat 2 (port + 1)) }) ∧
    (port < 2 → sem < 32 → own ≠ 0 → exec (.semClaim port sem) s = .next s) ∧
    (port < 2 → sem < 32 → own = port + 1 → exec (.semFree port sem) s =
      .next { s with sems := s.sems.setIfInBounds sem 0 }) ∧
    (port < 2 → sem < 32 → own ≠ port + 1 → exec (.semFree port sem) s = .next s) ∧
    exec (.hostLinkDown port) s = .next { s with sems := s.sems.map fun z => if z.toNat = port + 1 then 0 else z } ∧
    (s.cmdstat ≠ 1 → port < 2 → r.op = 1 → addr % 128 = 0 →
      exec (.create port addr r) s = .next ((s.create port r).2.beginCommand addr (s.create port r).1 none)) ∧
    (s.cmdstat ≠ 1 → port < 2 → r.op = 2 → s.holdsSem port r = true → r.reserved = false → addr % 128 = 0 → r.vd < 64 →
      (look s.vds r.vd).isSome = true → exec (.destroy port addr r) s =
        .next (((s.modVd r.vd fun v => { v with destroying := true }).stopDevice r.vd).beginCommand addr 2 (some r.vd))) ∧
    (s.cmdstat ≠ 1 → port < 2 → r.op ≠ 1 → r.op ≠ 2 → exec (.create port addr r) s = .next (s.beginCommand addr 5 none)) ∧
    (s.cmdstat = 1 → exec (.create port addr r) s = .next s ∧ exec (.destroy port addr r) s = .next s) ∧
    (s.cmdstat = 1 → s.dying = none → exec .commandDone s = .next { s with cmdstat := s.cmdresult }) ∧
    (s.cmdstat = 1 → s.dying = some vd → s.deviceRuns vd = false → exec .commandDone s =
      .next { s.removeDevice vd with cmdstat := s.cmdresult, dying := none }) ∧
    (bytes ≠ 8 ∨ n % 8 ≠ 0 → exec (.hostRegionWrite port n bytes y) s = .next { s with response := [2] }) ∧
    (n % 8 = 0 → n < 0x100 → exec (.hostRegionWrite port n 8 y) s =
      .next { s.semWrite port (n / 8) y.toNat with response := [0] }) ∧
    (¬ (n < 0x100 ∨ n = 0x1000 ∨ n = 0x1008 ∨ (0x10000 ≤ n ∧ n < 0x50000 ∧ n % 0x1000 ≤ 0x20) ∨
        (0x1000000 ≤ n ∧ n < 0x2000000 ∧ windowReg (n - 0x1000000) ≠ none)) → exec (.hostRegionWrite port n 8 y) s = .next { s with response := [2] }) ∧
    (s.hdmCommitted = false ∨ a.addr < s.hdmBase → exec (.cxlMemAccess a) s = .next { s with response := [1] }) ∧
    (s.hdmCommitted = true → s.hdmBase ≤ a.addr →
      let b : MemAccess := { a with addr := a.addr - s.hdmBase }
      s.reaches b = true → s.devicesOf b.addr b.bytes = [] → s.watchers b.addr b.bytes = [] →
      exec (.cxlMemAccess a) s = .next (s.access b)) ∧
    (s.reaches a = true → s.devicesOf a.addr a.bytes = [] → s.watchers a.addr a.bytes = [] →
      exec (.peerAccessArrival a) s = .next (s.access a)) ∧
    (s.reaches a = false → exec (.peerAccessArrival a) s = .next { s with response := [1] }) ∧
    exec (.hdmDecoderCommit n) s = .next { s with hdmBase := n, hdmCommitted := true, response := [0] } ∧
    exec (.peerLinkTimeout port) s = .next ((s.packets.filter (s.portCarries port)).foldl (fun s p => match p.body with
      | .enqueue v f .. => (s.complete v f 5 0 0 1).closeFut v f
      | _ => s) { s with packets := s.packets.filter fun p => !s.portCarries port p }) ∧
    (s.packets.all (fun p => !s.portCarries port p) = true → exec (.peerLinkTimeout port) s = .next s) ∧
    (n < 512 → n ∉ s.retired → exec (.pseudoChannelRetirement n) s = .next { s with retired := n :: s.retired }) ∧
    (i < 16 → (look s.vds vd).isSome = true → exec (.apertureTableWrite vd i x) s = .next (s.modVd vd fun v =>
      { v with apertures := put v.apertures i (x &&& 0xFFFFFFFFFFFFFFFF00000000FFFFFC0D) }))

/-- BOOT (R333): the active slot runs where its records pass, else the other, and with both failed the module stays in
reset. LIVE_UPDATE (R334) of records that fail, or of a die that serves a device, switches no die. FREEZE and UNFREEZE
(R336) change nothing but the clocks. Attestation (R335) in the order of SPDM 1.2; out of it a request is answered by
ERROR. -/
def Obligations.BootEvents : Prop :=
  ∀ (s : State) (a b : List CfgRecord) (die : Nat),
    let f := max s.rollback Config.fusedRollback
    let s1 : State := { s with rollback := f }
    (s.boot = .inReset → s.activeSlot = 0 →
      (slotPasses a f = true → exec (.boot a b) s = .next (s1.runSlot 0 a b)) ∧
      (slotPasses a f = false → slotPasses b f = true → exec (.boot a b) s = .next (s1.runSlot 1 b a)) ∧
      (slotPasses a f = false → slotPasses b f = false → exec (.boot a b) s =
        .next { s1 with boot := .failed, cxlStatus := Config.bootFailure })) ∧
    (s.boot = .running → (∀ d ∈ s.dies.toList, d.updated = false) →
      (slotPasses a s.rollback = false ∨ s.serves die = true → exec (.liveUpdate a die) s = .next { s with inactive := a }) ∧
      (∀ h : die < 4, slotPasses a s.rollback = true → s.serves die = false → exec (.liveUpdate a die) s =
        .next { s with inactive := a, dies := s.dies.set die { s.dies[die] with updated := true } })) ∧
    exec .freeze s = .next { s with freeze := true } ∧ exec .unfreeze s = .next { s with freeze := false } ∧
    exec .getVersion s = .next { s with spdm := 1, response := [0x12] } ∧
    (s.spdm = 1 → exec .getCapabilities s = .next { s with spdm := 2, response := [0x84, 0xE1, 0xE3, 0x81, 0x82, 0xE0] }) ∧
    (s.spdm = 2 → exec .negotiateAlgorithms s = .next { s with spdm := 3, response := [521, 512] }) ∧
    (s.spdm = 3 → exec .getDigests s = .next { s with response := digestWords (Config.sha512 Config.certificate) } ∧
      exec .getCertificate s = .next { s with response := Config.certificate } ∧
      exec .getMeasurements s = .next { s with response := s.measured.flatMap fun r => digestWords (CfgRecord.digest r) }) ∧
    (s.spdm ≠ 1 → exec .getCapabilities s = .next { s with response := [0x7F] }) ∧
    (s.spdm ≠ 2 → exec .negotiateAlgorithms s = .next { s with response := [0x7F] }) ∧
    (s.spdm ≠ 3 → exec .getDigests s = .next { s with response := [0x7F] } ∧
      exec .getCertificate s = .next { s with response := [0x7F] } ∧
      exec .getMeasurements s = .next { s with response := [0x7F] })

end Statements
end

