-- ==== Sys2Proof/Laws/State.lean ====
section
/-! SUPPORT. What each update of a record leaves alone, one lemma per field and update, and what a read after a write
gives. -/

namespace Sys2Proof.Machine


/-! ### State.setTile -/

@[simp] theorem State.setTile_mem (s : State) (n : Nat) (x : Tile) : (s.setTile n x).mem = s.mem := rfl
@[simp] theorem State.setTile_errored (s : State) (n : Nat) (x : Tile) : (s.setTile n x).errored = s.errored := rfl
@[simp] theorem State.setTile_tasks (s : State) (n : Nat) (x : Tile) : (s.setTile n x).tasks = s.tasks := rfl
@[simp] theorem State.setTile_nextTask (s : State) (n : Nat) (x : Tile) : (s.setTile n x).nextTask = s.nextTask := rfl
@[simp] theorem State.setTile_nextCmd (s : State) (n : Nat) (x : Tile) : (s.setTile n x).nextCmd = s.nextCmd := rfl
@[simp] theorem State.setTile_nextXput (s : State) (n : Nat) (x : Tile) : (s.setTile n x).nextXput = s.nextXput := rfl
@[simp] theorem State.setTile_vds (s : State) (n : Nat) (x : Tile) : (s.setTile n x).vds = s.vds := rfl
@[simp] theorem State.setTile_packets (s : State) (n : Nat) (x : Tile) : (s.setTile n x).packets = s.packets := rfl
@[simp] theorem State.setTile_cycles (s : State) (n : Nat) (x : Tile) : (s.setTile n x).cycles = s.cycles := rfl
@[simp] theorem State.setTile_clock (s : State) (n : Nat) (x : Tile) : (s.setTile n x).clock = s.clock := rfl
@[simp] theorem State.setTile_draining (s : State) (n : Nat) (x : Tile) : (s.setTile n x).draining = s.draining := rfl
@[simp] theorem State.setTile_stops (s : State) (n : Nat) (x : Tile) : (s.setTile n x).stops = s.stops := rfl
@[simp] theorem State.setTile_homeMap (s : State) (n : Nat) (x : Tile) : (s.setTile n x).homeMap = s.homeMap := rfl
@[simp] theorem State.setTile_sliceStops (s : State) (n : Nat) (x : Tile) : (s.setTile n x).sliceStops = s.sliceStops := rfl
@[simp] theorem State.setTile_hostStops (s : State) (n : Nat) (x : Tile) : (s.setTile n x).hostStops = s.hostStops := rfl
@[simp] theorem State.setTile_peerStops (s : State) (n : Nat) (x : Tile) : (s.setTile n x).peerStops = s.peerStops := rfl
@[simp] theorem State.setTile_presets (s : State) (n : Nat) (x : Tile) : (s.setTile n x).presets = s.presets := rfl
@[simp] theorem State.setTile_groupPower (s : State) (n : Nat) (x : Tile) : (s.setTile n x).groupPower = s.groupPower := rfl
@[simp] theorem State.setTile_corrections (s : State) (n : Nat) (x : Tile) : (s.setTile n x).corrections = s.corrections := rfl
@[simp] theorem State.setTile_sems (s : State) (n : Nat) (x : Tile) : (s.setTile n x).sems = s.sems := rfl
@[simp] theorem State.setTile_cmdaddr (s : State) (n : Nat) (x : Tile) : (s.setTile n x).cmdaddr = s.cmdaddr := rfl
@[simp] theorem State.setTile_cmdstat (s : State) (n : Nat) (x : Tile) : (s.setTile n x).cmdstat = s.cmdstat := rfl
@[simp] theorem State.setTile_cmdresult (s : State) (n : Nat) (x : Tile) : (s.setTile n x).cmdresult = s.cmdresult := rfl
@[simp] theorem State.setTile_dying (s : State) (n : Nat) (x : Tile) : (s.setTile n x).dying = s.dying := rfl
@[simp] theorem State.setTile_freeze (s : State) (n : Nat) (x : Tile) : (s.setTile n x).freeze = s.freeze := rfl
@[simp] theorem State.setTile_clusters (s : State) (n : Nat) (x : Tile) : (s.setTile n x).clusters = s.clusters := rfl
@[simp] theorem State.setTile_dies (s : State) (n : Nat) (x : Tile) : (s.setTile n x).dies = s.dies := rfl
@[simp] theorem State.setTile_telemetryBase (s : State) (n : Nat) (x : Tile) : (s.setTile n x).telemetryBase = s.telemetryBase := rfl
@[simp] theorem State.setTile_telemetryK (s : State) (n : Nat) (x : Tile) : (s.setTile n x).telemetryK = s.telemetryK := rfl
@[simp] theorem State.setTile_hdmBase (s : State) (n : Nat) (x : Tile) : (s.setTile n x).hdmBase = s.hdmBase := rfl
@[simp] theorem State.setTile_hdmCommitted (s : State) (n : Nat) (x : Tile) : (s.setTile n x).hdmCommitted = s.hdmCommitted := rfl
@[simp] theorem State.setTile_moduleId (s : State) (n : Nat) (x : Tile) : (s.setTile n x).moduleId = s.moduleId := rfl
@[simp] theorem State.setTile_routes (s : State) (n : Nat) (x : Tile) : (s.setTile n x).routes = s.routes := rfl
@[simp] theorem State.setTile_retired (s : State) (n : Nat) (x : Tile) : (s.setTile n x).retired = s.retired := rfl
@[simp] theorem State.setTile_boot (s : State) (n : Nat) (x : Tile) : (s.setTile n x).boot = s.boot := rfl
@[simp] theorem State.setTile_cxlStatus (s : State) (n : Nat) (x : Tile) : (s.setTile n x).cxlStatus = s.cxlStatus := rfl
@[simp] theorem State.setTile_activeSlot (s : State) (n : Nat) (x : Tile) : (s.setTile n x).activeSlot = s.activeSlot := rfl
@[simp] theorem State.setTile_active (s : State) (n : Nat) (x : Tile) : (s.setTile n x).active = s.active := rfl
@[simp] theorem State.setTile_inactive (s : State) (n : Nat) (x : Tile) : (s.setTile n x).inactive = s.inactive := rfl
@[simp] theorem State.setTile_rollback (s : State) (n : Nat) (x : Tile) : (s.setTile n x).rollback = s.rollback := rfl
@[simp] theorem State.setTile_spdm (s : State) (n : Nat) (x : Tile) : (s.setTile n x).spdm = s.spdm := rfl
@[simp] theorem State.setTile_serial (s : State) (n : Nat) (x : Tile) : (s.setTile n x).serial = s.serial := rfl
@[simp] theorem State.setTile_response (s : State) (n : Nat) (x : Tile) : (s.setTile n x).response = s.response := rfl
@[simp] theorem State.setTile_readout (s : State) (n : Nat) (x : Tile) : (s.setTile n x).readout = s.readout := rfl
@[simp] theorem State.setTile_agenda (s : State) (n : Nat) (x : Tile) : (s.setTile n x).agenda = s.agenda := rfl
@[simp] theorem State.setTile_cur (s : State) (n : Nat) (x : Tile) : (s.setTile n x).cur = s.cur := rfl
@[simp] theorem State.setTile_draws (s : State) (n : Nat) (x : Tile) : (s.setTile n x).draws = s.draws := rfl

/-! ### State.setTask -/

@[simp] theorem State.setTask_mem (s : State) (n : Nat) (x : Task) : (s.setTask n x).mem = s.mem := rfl
@[simp] theorem State.setTask_errored (s : State) (n : Nat) (x : Task) : (s.setTask n x).errored = s.errored := rfl
@[simp] theorem State.setTask_tiles (s : State) (n : Nat) (x : Task) : (s.setTask n x).tiles = s.tiles := rfl
@[simp] theorem State.setTask_nextTask (s : State) (n : Nat) (x : Task) : (s.setTask n x).nextTask = s.nextTask := rfl
@[simp] theorem State.setTask_nextCmd (s : State) (n : Nat) (x : Task) : (s.setTask n x).nextCmd = s.nextCmd := rfl
@[simp] theorem State.setTask_nextXput (s : State) (n : Nat) (x : Task) : (s.setTask n x).nextXput = s.nextXput := rfl
@[simp] theorem State.setTask_vds (s : State) (n : Nat) (x : Task) : (s.setTask n x).vds = s.vds := rfl
@[simp] theorem State.setTask_packets (s : State) (n : Nat) (x : Task) : (s.setTask n x).packets = s.packets := rfl
@[simp] theorem State.setTask_cycles (s : State) (n : Nat) (x : Task) : (s.setTask n x).cycles = s.cycles := rfl
@[simp] theorem State.setTask_clock (s : State) (n : Nat) (x : Task) : (s.setTask n x).clock = s.clock := rfl
@[simp] theorem State.setTask_draining (s : State) (n : Nat) (x : Task) : (s.setTask n x).draining = s.draining := rfl
@[simp] theorem State.setTask_stops (s : State) (n : Nat) (x : Task) : (s.setTask n x).stops = s.stops := rfl
@[simp] theorem State.setTask_homeMap (s : State) (n : Nat) (x : Task) : (s.setTask n x).homeMap = s.homeMap := rfl
@[simp] theorem State.setTask_sliceStops (s : State) (n : Nat) (x : Task) : (s.setTask n x).sliceStops = s.sliceStops := rfl
@[simp] theorem State.setTask_hostStops (s : State) (n : Nat) (x : Task) : (s.setTask n x).hostStops = s.hostStops := rfl
@[simp] theorem State.setTask_peerStops (s : State) (n : Nat) (x : Task) : (s.setTask n x).peerStops = s.peerStops := rfl
@[simp] theorem State.setTask_presets (s : State) (n : Nat) (x : Task) : (s.setTask n x).presets = s.presets := rfl
@[simp] theorem State.setTask_groupPower (s : State) (n : Nat) (x : Task) : (s.setTask n x).groupPower = s.groupPower := rfl
@[simp] theorem State.setTask_corrections (s : State) (n : Nat) (x : Task) : (s.setTask n x).corrections = s.corrections := rfl
@[simp] theorem State.setTask_sems (s : State) (n : Nat) (x : Task) : (s.setTask n x).sems = s.sems := rfl
@[simp] theorem State.setTask_cmdaddr (s : State) (n : Nat) (x : Task) : (s.setTask n x).cmdaddr = s.cmdaddr := rfl
@[simp] theorem State.setTask_cmdstat (s : State) (n : Nat) (x : Task) : (s.setTask n x).cmdstat = s.cmdstat := rfl
@[simp] theorem State.setTask_cmdresult (s : State) (n : Nat) (x : Task) : (s.setTask n x).cmdresult = s.cmdresult := rfl
@[simp] theorem State.setTask_dying (s : State) (n : Nat) (x : Task) : (s.setTask n x).dying = s.dying := rfl
@[simp] theorem State.setTask_freeze (s : State) (n : Nat) (x : Task) : (s.setTask n x).freeze = s.freeze := rfl
@[simp] theorem State.setTask_clusters (s : State) (n : Nat) (x : Task) : (s.setTask n x).clusters = s.clusters := rfl
@[simp] theorem State.setTask_dies (s : State) (n : Nat) (x : Task) : (s.setTask n x).dies = s.dies := rfl
@[simp] theorem State.setTask_telemetryBase (s : State) (n : Nat) (x : Task) : (s.setTask n x).telemetryBase = s.telemetryBase := rfl
@[simp] theorem State.setTask_telemetryK (s : State) (n : Nat) (x : Task) : (s.setTask n x).telemetryK = s.telemetryK := rfl
@[simp] theorem State.setTask_hdmBase (s : State) (n : Nat) (x : Task) : (s.setTask n x).hdmBase = s.hdmBase := rfl
@[simp] theorem State.setTask_hdmCommitted (s : State) (n : Nat) (x : Task) : (s.setTask n x).hdmCommitted = s.hdmCommitted := rfl
@[simp] theorem State.setTask_moduleId (s : State) (n : Nat) (x : Task) : (s.setTask n x).moduleId = s.moduleId := rfl
@[simp] theorem State.setTask_routes (s : State) (n : Nat) (x : Task) : (s.setTask n x).routes = s.routes := rfl
@[simp] theorem State.setTask_retired (s : State) (n : Nat) (x : Task) : (s.setTask n x).retired = s.retired := rfl
@[simp] theorem State.setTask_boot (s : State) (n : Nat) (x : Task) : (s.setTask n x).boot = s.boot := rfl
@[simp] theorem State.setTask_cxlStatus (s : State) (n : Nat) (x : Task) : (s.setTask n x).cxlStatus = s.cxlStatus := rfl
@[simp] theorem State.setTask_activeSlot (s : State) (n : Nat) (x : Task) : (s.setTask n x).activeSlot = s.activeSlot := rfl
@[simp] theorem State.setTask_active (s : State) (n : Nat) (x : Task) : (s.setTask n x).active = s.active := rfl
@[simp] theorem State.setTask_inactive (s : State) (n : Nat) (x : Task) : (s.setTask n x).inactive = s.inactive := rfl
@[simp] theorem State.setTask_rollback (s : State) (n : Nat) (x : Task) : (s.setTask n x).rollback = s.rollback := rfl
@[simp] theorem State.setTask_spdm (s : State) (n : Nat) (x : Task) : (s.setTask n x).spdm = s.spdm := rfl
@[simp] theorem State.setTask_serial (s : State) (n : Nat) (x : Task) : (s.setTask n x).serial = s.serial := rfl
@[simp] theorem State.setTask_response (s : State) (n : Nat) (x : Task) : (s.setTask n x).response = s.response := rfl
@[simp] theorem State.setTask_readout (s : State) (n : Nat) (x : Task) : (s.setTask n x).readout = s.readout := rfl
@[simp] theorem State.setTask_agenda (s : State) (n : Nat) (x : Task) : (s.setTask n x).agenda = s.agenda := rfl
@[simp] theorem State.setTask_cur (s : State) (n : Nat) (x : Task) : (s.setTask n x).cur = s.cur := rfl
@[simp] theorem State.setTask_draws (s : State) (n : Nat) (x : Task) : (s.setTask n x).draws = s.draws := rfl

/-! ### State.setVd -/

@[simp] theorem State.setVd_mem (s : State) (n : Nat) (x : Vd) : (s.setVd n x).mem = s.mem := rfl
@[simp] theorem State.setVd_errored (s : State) (n : Nat) (x : Vd) : (s.setVd n x).errored = s.errored := rfl
@[simp] theorem State.setVd_tiles (s : State) (n : Nat) (x : Vd) : (s.setVd n x).tiles = s.tiles := rfl
@[simp] theorem State.setVd_tasks (s : State) (n : Nat) (x : Vd) : (s.setVd n x).tasks = s.tasks := rfl
@[simp] theorem State.setVd_nextTask (s : State) (n : Nat) (x : Vd) : (s.setVd n x).nextTask = s.nextTask := rfl
@[simp] theorem State.setVd_nextCmd (s : State) (n : Nat) (x : Vd) : (s.setVd n x).nextCmd = s.nextCmd := rfl
@[simp] theorem State.setVd_nextXput (s : State) (n : Nat) (x : Vd) : (s.setVd n x).nextXput = s.nextXput := rfl
@[simp] theorem State.setVd_packets (s : State) (n : Nat) (x : Vd) : (s.setVd n x).packets = s.packets := rfl
@[simp] theorem State.setVd_cycles (s : State) (n : Nat) (x : Vd) : (s.setVd n x).cycles = s.cycles := rfl
@[simp] theorem State.setVd_clock (s : State) (n : Nat) (x : Vd) : (s.setVd n x).clock = s.clock := rfl
@[simp] theorem State.setVd_draining (s : State) (n : Nat) (x : Vd) : (s.setVd n x).draining = s.draining := rfl
@[simp] theorem State.setVd_stops (s : State) (n : Nat) (x : Vd) : (s.setVd n x).stops = s.stops := rfl
@[simp] theorem State.setVd_homeMap (s : State) (n : Nat) (x : Vd) : (s.setVd n x).homeMap = s.homeMap := rfl
@[simp] theorem State.setVd_sliceStops (s : State) (n : Nat) (x : Vd) : (s.setVd n x).sliceStops = s.sliceStops := rfl
@[simp] theorem State.setVd_hostStops (s : State) (n : Nat) (x : Vd) : (s.setVd n x).hostStops = s.hostStops := rfl
@[simp] theorem State.setVd_peerStops (s : State) (n : Nat) (x : Vd) : (s.setVd n x).peerStops = s.peerStops := rfl
@[simp] theorem State.setVd_presets (s : State) (n : Nat) (x : Vd) : (s.setVd n x).presets = s.presets := rfl
@[simp] theorem State.setVd_groupPower (s : State) (n : Nat) (x : Vd) : (s.setVd n x).groupPower = s.groupPower := rfl
@[simp] theorem State.setVd_corrections (s : State) (n : Nat) (x : Vd) : (s.setVd n x).corrections = s.corrections := rfl
@[simp] theorem State.setVd_sems (s : State) (n : Nat) (x : Vd) : (s.setVd n x).sems = s.sems := rfl
@[simp] theorem State.setVd_cmdaddr (s : State) (n : Nat) (x : Vd) : (s.setVd n x).cmdaddr = s.cmdaddr := rfl
@[simp] theorem State.setVd_cmdstat (s : State) (n : Nat) (x : Vd) : (s.setVd n x).cmdstat = s.cmdstat := rfl
@[simp] theorem State.setVd_cmdresult (s : State) (n : Nat) (x : Vd) : (s.setVd n x).cmdresult = s.cmdresult := rfl
@[simp] theorem State.setVd_dying (s : State) (n : Nat) (x : Vd) : (s.setVd n x).dying = s.dying := rfl
@[simp] theorem State.setVd_freeze (s : State) (n : Nat) (x : Vd) : (s.setVd n x).freeze = s.freeze := rfl
@[simp] theorem State.setVd_clusters (s : State) (n : Nat) (x : Vd) : (s.setVd n x).clusters = s.clusters := rfl
@[simp] theorem State.setVd_dies (s : State) (n : Nat) (x : Vd) : (s.setVd n x).dies = s.dies := rfl
@[simp] theorem State.setVd_telemetryBase (s : State) (n : Nat) (x : Vd) : (s.setVd n x).telemetryBase = s.telemetryBase := rfl
@[simp] theorem State.setVd_telemetryK (s : State) (n : Nat) (x : Vd) : (s.setVd n x).telemetryK = s.telemetryK := rfl
@[simp] theorem State.setVd_hdmBase (s : State) (n : Nat) (x : Vd) : (s.setVd n x).hdmBase = s.hdmBase := rfl
@[simp] theorem State.setVd_hdmCommitted (s : State) (n : Nat) (x : Vd) : (s.setVd n x).hdmCommitted = s.hdmCommitted := rfl
@[simp] theorem State.setVd_moduleId (s : State) (n : Nat) (x : Vd) : (s.setVd n x).moduleId = s.moduleId := rfl
@[simp] theorem State.setVd_routes (s : State) (n : Nat) (x : Vd) : (s.setVd n x).routes = s.routes := rfl
@[simp] theorem State.setVd_retired (s : State) (n : Nat) (x : Vd) : (s.setVd n x).retired = s.retired := rfl
@[simp] theorem State.setVd_boot (s : State) (n : Nat) (x : Vd) : (s.setVd n x).boot = s.boot := rfl
@[simp] theorem State.setVd_cxlStatus (s : State) (n : Nat) (x : Vd) : (s.setVd n x).cxlStatus = s.cxlStatus := rfl
@[simp] theorem State.setVd_activeSlot (s : State) (n : Nat) (x : Vd) : (s.setVd n x).activeSlot = s.activeSlot := rfl
@[simp] theorem State.setVd_active (s : State) (n : Nat) (x : Vd) : (s.setVd n x).active = s.active := rfl
@[simp] theorem State.setVd_inactive (s : State) (n : Nat) (x : Vd) : (s.setVd n x).inactive = s.inactive := rfl
@[simp] theorem State.setVd_rollback (s : State) (n : Nat) (x : Vd) : (s.setVd n x).rollback = s.rollback := rfl
@[simp] theorem State.setVd_spdm (s : State) (n : Nat) (x : Vd) : (s.setVd n x).spdm = s.spdm := rfl
@[simp] theorem State.setVd_serial (s : State) (n : Nat) (x : Vd) : (s.setVd n x).serial = s.serial := rfl
@[simp] theorem State.setVd_response (s : State) (n : Nat) (x : Vd) : (s.setVd n x).response = s.response := rfl
@[simp] theorem State.setVd_readout (s : State) (n : Nat) (x : Vd) : (s.setVd n x).readout = s.readout := rfl
@[simp] theorem State.setVd_agenda (s : State) (n : Nat) (x : Vd) : (s.setVd n x).agenda = s.agenda := rfl
@[simp] theorem State.setVd_cur (s : State) (n : Nat) (x : Vd) : (s.setVd n x).cur = s.cur := rfl
@[simp] theorem State.setVd_draws (s : State) (n : Nat) (x : Vd) : (s.setVd n x).draws = s.draws := rfl

/-! ### State.modStop -/

@[simp] theorem State.modStop_mem (s : State) (n : Nat) (f : NetStop → NetStop) : (s.modStop n f).mem = s.mem := rfl
@[simp] theorem State.modStop_errored (s : State) (n : Nat) (f : NetStop → NetStop) : (s.modStop n f).errored = s.errored := rfl
@[simp] theorem State.modStop_tiles (s : State) (n : Nat) (f : NetStop → NetStop) : (s.modStop n f).tiles = s.tiles := rfl
@[simp] theorem State.modStop_tasks (s : State) (n : Nat) (f : NetStop → NetStop) : (s.modStop n f).tasks = s.tasks := rfl
@[simp] theorem State.modStop_nextTask (s : State) (n : Nat) (f : NetStop → NetStop) : (s.modStop n f).nextTask = s.nextTask := rfl
@[simp] theorem State.modStop_nextCmd (s : State) (n : Nat) (f : NetStop → NetStop) : (s.modStop n f).nextCmd = s.nextCmd := rfl
@[simp] theorem State.modStop_nextXput (s : State) (n : Nat) (f : NetStop → NetStop) : (s.modStop n f).nextXput = s.nextXput := rfl
@[simp] theorem State.modStop_vds (s : State) (n : Nat) (f : NetStop → NetStop) : (s.modStop n f).vds = s.vds := rfl
@[simp] theorem State.modStop_packets (s : State) (n : Nat) (f : NetStop → NetStop) : (s.modStop n f).packets = s.packets := rfl
@[simp] theorem State.modStop_cycles (s : State) (n : Nat) (f : NetStop → NetStop) : (s.modStop n f).cycles = s.cycles := rfl
@[simp] theorem State.modStop_clock (s : State) (n : Nat) (f : NetStop → NetStop) : (s.modStop n f).clock = s.clock := rfl
@[simp] theorem State.modStop_draining (s : State) (n : Nat) (f : NetStop → NetStop) : (s.modStop n f).draining = s.draining := rfl
@[simp] theorem State.modStop_homeMap (s : State) (n : Nat) (f : NetStop → NetStop) : (s.modStop n f).homeMap = s.homeMap := rfl
@[simp] theorem State.modStop_sliceStops (s : State) (n : Nat) (f : NetStop → NetStop) : (s.modStop n f).sliceStops = s.sliceStops := rfl
@[simp] theorem State.modStop_hostStops (s : State) (n : Nat) (f : NetStop → NetStop) : (s.modStop n f).hostStops = s.hostStops := rfl
@[simp] theorem State.modStop_peerStops (s : State) (n : Nat) (f : NetStop → NetStop) : (s.modStop n f).peerStops = s.peerStops := rfl
@[simp] theorem State.modStop_presets (s : State) (n : Nat) (f : NetStop → NetStop) : (s.modStop n f).presets = s.presets := rfl
@[simp] theorem State.modStop_groupPower (s : State) (n : Nat) (f : NetStop → NetStop) : (s.modStop n f).groupPower = s.groupPower := rfl
@[simp] theorem State.modStop_corrections (s : State) (n : Nat) (f : NetStop → NetStop) : (s.modStop n f).corrections = s.corrections := rfl
@[simp] theorem State.modStop_sems (s : State) (n : Nat) (f : NetStop → NetStop) : (s.modStop n f).sems = s.sems := rfl
@[simp] theorem State.modStop_cmdaddr (s : State) (n : Nat) (f : NetStop → NetStop) : (s.modStop n f).cmdaddr = s.cmdaddr := rfl
@[simp] theorem State.modStop_cmdstat (s : State) (n : Nat) (f : NetStop → NetStop) : (s.modStop n f).cmdstat = s.cmdstat := rfl
@[simp] theorem State.modStop_cmdresult (s : State) (n : Nat) (f : NetStop → NetStop) : (s.modStop n f).cmdresult = s.cmdresult := rfl
@[simp] theorem State.modStop_dying (s : State) (n : Nat) (f : NetStop → NetStop) : (s.modStop n f).dying = s.dying := rfl
@[simp] theorem State.modStop_freeze (s : State) (n : Nat) (f : NetStop → NetStop) : (s.modStop n f).freeze = s.freeze := rfl
@[simp] theorem State.modStop_clusters (s : State) (n : Nat) (f : NetStop → NetStop) : (s.modStop n f).clusters = s.clusters := rfl
@[simp] theorem State.modStop_dies (s : State) (n : Nat) (f : NetStop → NetStop) : (s.modStop n f).dies = s.dies := rfl
@[simp] theorem State.modStop_telemetryBase (s : State) (n : Nat) (f : NetStop → NetStop) : (s.modStop n f).telemetryBase = s.telemetryBase := rfl
@[simp] theorem State.modStop_telemetryK (s : State) (n : Nat) (f : NetStop → NetStop) : (s.modStop n f).telemetryK = s.telemetryK := rfl
@[simp] theorem State.modStop_hdmBase (s : State) (n : Nat) (f : NetStop → NetStop) : (s.modStop n f).hdmBase = s.hdmBase := rfl
@[simp] theorem State.modStop_hdmCommitted (s : State) (n : Nat) (f : NetStop → NetStop) : (s.modStop n f).hdmCommitted = s.hdmCommitted := rfl
@[simp] theorem State.modStop_moduleId (s : State) (n : Nat) (f : NetStop → NetStop) : (s.modStop n f).moduleId = s.moduleId := rfl
@[simp] theorem State.modStop_routes (s : State) (n : Nat) (f : NetStop → NetStop) : (s.modStop n f).routes = s.routes := rfl
@[simp] theorem State.modStop_retired (s : State) (n : Nat) (f : NetStop → NetStop) : (s.modStop n f).retired = s.retired := rfl
@[simp] theorem State.modStop_boot (s : State) (n : Nat) (f : NetStop → NetStop) : (s.modStop n f).boot = s.boot := rfl
@[simp] theorem State.modStop_cxlStatus (s : State) (n : Nat) (f : NetStop → NetStop) : (s.modStop n f).cxlStatus = s.cxlStatus := rfl
@[simp] theorem State.modStop_activeSlot (s : State) (n : Nat) (f : NetStop → NetStop) : (s.modStop n f).activeSlot = s.activeSlot := rfl
@[simp] theorem State.modStop_active (s : State) (n : Nat) (f : NetStop → NetStop) : (s.modStop n f).active = s.active := rfl
@[simp] theorem State.modStop_inactive (s : State) (n : Nat) (f : NetStop → NetStop) : (s.modStop n f).inactive = s.inactive := rfl
@[simp] theorem State.modStop_rollback (s : State) (n : Nat) (f : NetStop → NetStop) : (s.modStop n f).rollback = s.rollback := rfl
@[simp] theorem State.modStop_spdm (s : State) (n : Nat) (f : NetStop → NetStop) : (s.modStop n f).spdm = s.spdm := rfl
@[simp] theorem State.modStop_serial (s : State) (n : Nat) (f : NetStop → NetStop) : (s.modStop n f).serial = s.serial := rfl
@[simp] theorem State.modStop_response (s : State) (n : Nat) (f : NetStop → NetStop) : (s.modStop n f).response = s.response := rfl
@[simp] theorem State.modStop_readout (s : State) (n : Nat) (f : NetStop → NetStop) : (s.modStop n f).readout = s.readout := rfl
@[simp] theorem State.modStop_agenda (s : State) (n : Nat) (f : NetStop → NetStop) : (s.modStop n f).agenda = s.agenda := rfl
@[simp] theorem State.modStop_cur (s : State) (n : Nat) (f : NetStop → NetStop) : (s.modStop n f).cur = s.cur := rfl
@[simp] theorem State.modStop_draws (s : State) (n : Nat) (f : NetStop → NetStop) : (s.modStop n f).draws = s.draws := rfl

/-! ### State.modCluster -/

@[simp] theorem State.modCluster_mem (s : State) (n : Nat) (f : Cluster → Cluster) : (s.modCluster n f).mem = s.mem := rfl
@[simp] theorem State.modCluster_errored (s : State) (n : Nat) (f : Cluster → Cluster) : (s.modCluster n f).errored = s.errored := rfl
@[simp] theorem State.modCluster_tiles (s : State) (n : Nat) (f : Cluster → Cluster) : (s.modCluster n f).tiles = s.tiles := rfl
@[simp] theorem State.modCluster_tasks (s : State) (n : Nat) (f : Cluster → Cluster) : (s.modCluster n f).tasks = s.tasks := rfl
@[simp] theorem State.modCluster_nextTask (s : State) (n : Nat) (f : Cluster → Cluster) : (s.modCluster n f).nextTask = s.nextTask := rfl
@[simp] theorem State.modCluster_nextCmd (s : State) (n : Nat) (f : Cluster → Cluster) : (s.modCluster n f).nextCmd = s.nextCmd := rfl
@[simp] theorem State.modCluster_nextXput (s : State) (n : Nat) (f : Cluster → Cluster) : (s.modCluster n f).nextXput = s.nextXput := rfl
@[simp] theorem State.modCluster_vds (s : State) (n : Nat) (f : Cluster → Cluster) : (s.modCluster n f).vds = s.vds := rfl
@[simp] theorem State.modCluster_packets (s : State) (n : Nat) (f : Cluster → Cluster) : (s.modCluster n f).packets = s.packets := rfl
@[simp] theorem State.modCluster_cycles (s : State) (n : Nat) (f : Cluster → Cluster) : (s.modCluster n f).cycles = s.cycles := rfl
@[simp] theorem State.modCluster_clock (s : State) (n : Nat) (f : Cluster → Cluster) : (s.modCluster n f).clock = s.clock := rfl
@[simp] theorem State.modCluster_draining (s : State) (n : Nat) (f : Cluster → Cluster) : (s.modCluster n f).draining = s.draining := rfl
@[simp] theorem State.modCluster_stops (s : State) (n : Nat) (f : Cluster → Cluster) : (s.modCluster n f).stops = s.stops := rfl
@[simp] theorem State.modCluster_homeMap (s : State) (n : Nat) (f : Cluster → Cluster) : (s.modCluster n f).homeMap = s.homeMap := rfl
@[simp] theorem State.modCluster_sliceStops (s : State) (n : Nat) (f : Cluster → Cluster) : (s.modCluster n f).sliceStops = s.sliceStops := rfl
@[simp] theorem State.modCluster_hostStops (s : State) (n : Nat) (f : Cluster → Cluster) : (s.modCluster n f).hostStops = s.hostStops := rfl
@[simp] theorem State.modCluster_peerStops (s : State) (n : Nat) (f : Cluster → Cluster) : (s.modCluster n f).peerStops = s.peerStops := rfl
@[simp] theorem State.modCluster_presets (s : State) (n : Nat) (f : Cluster → Cluster) : (s.modCluster n f).presets = s.presets := rfl
@[simp] theorem State.modCluster_groupPower (s : State) (n : Nat) (f : Cluster → Cluster) : (s.modCluster n f).groupPower = s.groupPower := rfl
@[simp] theorem State.modCluster_corrections (s : State) (n : Nat) (f : Cluster → Cluster) : (s.modCluster n f).corrections = s.corrections := rfl
@[simp] theorem State.modCluster_sems (s : State) (n : Nat) (f : Cluster → Cluster) : (s.modCluster n f).sems = s.sems := rfl
@[simp] theorem State.modCluster_cmdaddr (s : State) (n : Nat) (f : Cluster → Cluster) : (s.modCluster n f).cmdaddr = s.cmdaddr := rfl
@[simp] theorem State.modCluster_cmdstat (s : State) (n : Nat) (f : Cluster → Cluster) : (s.modCluster n f).cmdstat = s.cmdstat := rfl
@[simp] theorem State.modCluster_cmdresult (s : State) (n : Nat) (f : Cluster → Cluster) : (s.modCluster n f).cmdresult = s.cmdresult := rfl
@[simp] theorem State.modCluster_dying (s : State) (n : Nat) (f : Cluster → Cluster) : (s.modCluster n f).dying = s.dying := rfl
@[simp] theorem State.modCluster_freeze (s : State) (n : Nat) (f : Cluster → Cluster) : (s.modCluster n f).freeze = s.freeze := rfl
@[simp] theorem State.modCluster_dies (s : State) (n : Nat) (f : Cluster → Cluster) : (s.modCluster n f).dies = s.dies := rfl
@[simp] theorem State.modCluster_telemetryBase (s : State) (n : Nat) (f : Cluster → Cluster) : (s.modCluster n f).telemetryBase = s.telemetryBase := rfl
@[simp] theorem State.modCluster_telemetryK (s : State) (n : Nat) (f : Cluster → Cluster) : (s.modCluster n f).telemetryK = s.telemetryK := rfl
@[simp] theorem State.modCluster_hdmBase (s : State) (n : Nat) (f : Cluster → Cluster) : (s.modCluster n f).hdmBase = s.hdmBase := rfl
@[simp] theorem State.modCluster_hdmCommitted (s : State) (n : Nat) (f : Cluster → Cluster) : (s.modCluster n f).hdmCommitted = s.hdmCommitted := rfl
@[simp] theorem State.modCluster_moduleId (s : State) (n : Nat) (f : Cluster → Cluster) : (s.modCluster n f).moduleId = s.moduleId := rfl
@[simp] theorem State.modCluster_routes (s : State) (n : Nat) (f : Cluster → Cluster) : (s.modCluster n f).routes = s.routes := rfl
@[simp] theorem State.modCluster_retired (s : State) (n : Nat) (f : Cluster → Cluster) : (s.modCluster n f).retired = s.retired := rfl
@[simp] theorem State.modCluster_boot (s : State) (n : Nat) (f : Cluster → Cluster) : (s.modCluster n f).boot = s.boot := rfl
@[simp] theorem State.modCluster_cxlStatus (s : State) (n : Nat) (f : Cluster → Cluster) : (s.modCluster n f).cxlStatus = s.cxlStatus := rfl
@[simp] theorem State.modCluster_activeSlot (s : State) (n : Nat) (f : Cluster → Cluster) : (s.modCluster n f).activeSlot = s.activeSlot := rfl
@[simp] theorem State.modCluster_active (s : State) (n : Nat) (f : Cluster → Cluster) : (s.modCluster n f).active = s.active := rfl
@[simp] theorem State.modCluster_inactive (s : State) (n : Nat) (f : Cluster → Cluster) : (s.modCluster n f).inactive = s.inactive := rfl
@[simp] theorem State.modCluster_rollback (s : State) (n : Nat) (f : Cluster → Cluster) : (s.modCluster n f).rollback = s.rollback := rfl
@[simp] theorem State.modCluster_spdm (s : State) (n : Nat) (f : Cluster → Cluster) : (s.modCluster n f).spdm = s.spdm := rfl
@[simp] theorem State.modCluster_serial (s : State) (n : Nat) (f : Cluster → Cluster) : (s.modCluster n f).serial = s.serial := rfl
@[simp] theorem State.modCluster_response (s : State) (n : Nat) (f : Cluster → Cluster) : (s.modCluster n f).response = s.response := rfl
@[simp] theorem State.modCluster_readout (s : State) (n : Nat) (f : Cluster → Cluster) : (s.modCluster n f).readout = s.readout := rfl
@[simp] theorem State.modCluster_agenda (s : State) (n : Nat) (f : Cluster → Cluster) : (s.modCluster n f).agenda = s.agenda := rfl
@[simp] theorem State.modCluster_cur (s : State) (n : Nat) (f : Cluster → Cluster) : (s.modCluster n f).cur = s.cur := rfl
@[simp] theorem State.modCluster_draws (s : State) (n : Nat) (f : Cluster → Cluster) : (s.modCluster n f).draws = s.draws := rfl

/-! ### State.modTile and State.modCore: through setTile -/

@[simp] theorem State.modTile_mem (s : State) (n : Nat) (g : Tile → Tile) : (s.modTile n g).mem = s.mem := rfl
@[simp] theorem State.modTile_errored (s : State) (n : Nat) (g : Tile → Tile) : (s.modTile n g).errored = s.errored := rfl
@[simp] theorem State.modTile_tasks (s : State) (n : Nat) (g : Tile → Tile) : (s.modTile n g).tasks = s.tasks := rfl
@[simp] theorem State.modTile_nextTask (s : State) (n : Nat) (g : Tile → Tile) : (s.modTile n g).nextTask = s.nextTask := rfl
@[simp] theorem State.modTile_nextCmd (s : State) (n : Nat) (g : Tile → Tile) : (s.modTile n g).nextCmd = s.nextCmd := rfl
@[simp] theorem State.modTile_nextXput (s : State) (n : Nat) (g : Tile → Tile) : (s.modTile n g).nextXput = s.nextXput := rfl
@[simp] theorem State.modTile_vds (s : State) (n : Nat) (g : Tile → Tile) : (s.modTile n g).vds = s.vds := rfl
@[simp] theorem State.modTile_packets (s : State) (n : Nat) (g : Tile → Tile) : (s.modTile n g).packets = s.packets := rfl
@[simp] theorem State.modTile_cycles (s : State) (n : Nat) (g : Tile → Tile) : (s.modTile n g).cycles = s.cycles := rfl
@[simp] theorem State.modTile_clock (s : State) (n : Nat) (g : Tile → Tile) : (s.modTile n g).clock = s.clock := rfl
@[simp] theorem State.modTile_draining (s : State) (n : Nat) (g : Tile → Tile) : (s.modTile n g).draining = s.draining := rfl
@[simp] theorem State.modTile_stops (s : State) (n : Nat) (g : Tile → Tile) : (s.modTile n g).stops = s.stops := rfl
@[simp] theorem State.modTile_homeMap (s : State) (n : Nat) (g : Tile → Tile) : (s.modTile n g).homeMap = s.homeMap := rfl
@[simp] theorem State.modTile_sliceStops (s : State) (n : Nat) (g : Tile → Tile) : (s.modTile n g).sliceStops = s.sliceStops := rfl
@[simp] theorem State.modTile_hostStops (s : State) (n : Nat) (g : Tile → Tile) : (s.modTile n g).hostStops = s.hostStops := rfl
@[simp] theorem State.modTile_peerStops (s : State) (n : Nat) (g : Tile → Tile) : (s.modTile n g).peerStops = s.peerStops := rfl
@[simp] theorem State.modTile_presets (s : State) (n : Nat) (g : Tile → Tile) : (s.modTile n g).presets = s.presets := rfl
@[simp] theorem State.modTile_groupPower (s : State) (n : Nat) (g : Tile → Tile) : (s.modTile n g).groupPower = s.groupPower := rfl
@[simp] theorem State.modTile_corrections (s : State) (n : Nat) (g : Tile → Tile) : (s.modTile n g).corrections = s.corrections := rfl
@[simp] theorem State.modTile_sems (s : State) (n : Nat) (g : Tile → Tile) : (s.modTile n g).sems = s.sems := rfl
@[simp] theorem State.modTile_cmdaddr (s : State) (n : Nat) (g : Tile → Tile) : (s.modTile n g).cmdaddr = s.cmdaddr := rfl
@[simp] theorem State.modTile_cmdstat (s : State) (n : Nat) (g : Tile → Tile) : (s.modTile n g).cmdstat = s.cmdstat := rfl
@[simp] theorem State.modTile_cmdresult (s : State) (n : Nat) (g : Tile → Tile) : (s.modTile n g).cmdresult = s.cmdresult := rfl
@[simp] theorem State.modTile_dying (s : State) (n : Nat) (g : Tile → Tile) : (s.modTile n g).dying = s.dying := rfl
@[simp] theorem State.modTile_freeze (s : State) (n : Nat) (g : Tile → Tile) : (s.modTile n g).freeze = s.freeze := rfl
@[simp] theorem State.modTile_clusters (s : State) (n : Nat) (g : Tile → Tile) : (s.modTile n g).clusters = s.clusters := rfl
@[simp] theorem State.modTile_dies (s : State) (n : Nat) (g : Tile → Tile) : (s.modTile n g).dies = s.dies := rfl
@[simp] theorem State.modTile_telemetryBase (s : State) (n : Nat) (g : Tile → Tile) : (s.modTile n g).telemetryBase = s.telemetryBase := rfl
@[simp] theorem State.modTile_telemetryK (s : State) (n : Nat) (g : Tile → Tile) : (s.modTile n g).telemetryK = s.telemetryK := rfl
@[simp] theorem State.modTile_hdmBase (s : State) (n : Nat) (g : Tile → Tile) : (s.modTile n g).hdmBase = s.hdmBase := rfl
@[simp] theorem State.modTile_hdmCommitted (s : State) (n : Nat) (g : Tile → Tile) : (s.modTile n g).hdmCommitted = s.hdmCommitted := rfl
@[simp] theorem State.modTile_moduleId (s : State) (n : Nat) (g : Tile → Tile) : (s.modTile n g).moduleId = s.moduleId := rfl
@[simp] theorem State.modTile_routes (s : State) (n : Nat) (g : Tile → Tile) : (s.modTile n g).routes = s.routes := rfl
@[simp] theorem State.modTile_retired (s : State) (n : Nat) (g : Tile → Tile) : (s.modTile n g).retired = s.retired := rfl
@[simp] theorem State.modTile_boot (s : State) (n : Nat) (g : Tile → Tile) : (s.modTile n g).boot = s.boot := rfl
@[simp] theorem State.modTile_cxlStatus (s : State) (n : Nat) (g : Tile → Tile) : (s.modTile n g).cxlStatus = s.cxlStatus := rfl
@[simp] theorem State.modTile_activeSlot (s : State) (n : Nat) (g : Tile → Tile) : (s.modTile n g).activeSlot = s.activeSlot := rfl
@[simp] theorem State.modTile_active (s : State) (n : Nat) (g : Tile → Tile) : (s.modTile n g).active = s.active := rfl
@[simp] theorem State.modTile_inactive (s : State) (n : Nat) (g : Tile → Tile) : (s.modTile n g).inactive = s.inactive := rfl
@[simp] theorem State.modTile_rollback (s : State) (n : Nat) (g : Tile → Tile) : (s.modTile n g).rollback = s.rollback := rfl
@[simp] theorem State.modTile_spdm (s : State) (n : Nat) (g : Tile → Tile) : (s.modTile n g).spdm = s.spdm := rfl
@[simp] theorem State.modTile_serial (s : State) (n : Nat) (g : Tile → Tile) : (s.modTile n g).serial = s.serial := rfl
@[simp] theorem State.modTile_response (s : State) (n : Nat) (g : Tile → Tile) : (s.modTile n g).response = s.response := rfl
@[simp] theorem State.modTile_readout (s : State) (n : Nat) (g : Tile → Tile) : (s.modTile n g).readout = s.readout := rfl
@[simp] theorem State.modTile_agenda (s : State) (n : Nat) (g : Tile → Tile) : (s.modTile n g).agenda = s.agenda := rfl
@[simp] theorem State.modTile_cur (s : State) (n : Nat) (g : Tile → Tile) : (s.modTile n g).cur = s.cur := rfl
@[simp] theorem State.modTile_draws (s : State) (n : Nat) (g : Tile → Tile) : (s.modTile n g).draws = s.draws := rfl
@[simp] theorem State.modCore_mem (s : State) (n c : Nat) (g : Core → Core) : (s.modCore n c g).mem = s.mem := rfl
@[simp] theorem State.modCore_errored (s : State) (n c : Nat) (g : Core → Core) : (s.modCore n c g).errored = s.errored := rfl
@[simp] theorem State.modCore_tasks (s : State) (n c : Nat) (g : Core → Core) : (s.modCore n c g).tasks = s.tasks := rfl
@[simp] theorem State.modCore_nextTask (s : State) (n c : Nat) (g : Core → Core) : (s.modCore n c g).nextTask = s.nextTask := rfl
@[simp] theorem State.modCore_nextCmd (s : State) (n c : Nat) (g : Core → Core) : (s.modCore n c g).nextCmd = s.nextCmd := rfl
@[simp] theorem State.modCore_nextXput (s : State) (n c : Nat) (g : Core → Core) : (s.modCore n c g).nextXput = s.nextXput := rfl
@[simp] theorem State.modCore_vds (s : State) (n c : Nat) (g : Core → Core) : (s.modCore n c g).vds = s.vds := rfl
@[simp] theorem State.modCore_packets (s : State) (n c : Nat) (g : Core → Core) : (s.modCore n c g).packets = s.packets := rfl
@[simp] theorem State.modCore_cycles (s : State) (n c : Nat) (g : Core → Core) : (s.modCore n c g).cycles = s.cycles := rfl
@[simp] theorem State.modCore_clock (s : State) (n c : Nat) (g : Core → Core) : (s.modCore n c g).clock = s.clock := rfl
@[simp] theorem State.modCore_draining (s : State) (n c : Nat) (g : Core → Core) : (s.modCore n c g).draining = s.draining := rfl
@[simp] theorem State.modCore_stops (s : State) (n c : Nat) (g : Core → Core) : (s.modCore n c g).stops = s.stops := rfl
@[simp] theorem State.modCore_homeMap (s : State) (n c : Nat) (g : Core → Core) : (s.modCore n c g).homeMap = s.homeMap := rfl
@[simp] theorem State.modCore_sliceStops (s : State) (n c : Nat) (g : Core → Core) : (s.modCore n c g).sliceStops = s.sliceStops := rfl
@[simp] theorem State.modCore_hostStops (s : State) (n c : Nat) (g : Core → Core) : (s.modCore n c g).hostStops = s.hostStops := rfl
@[simp] theorem State.modCore_peerStops (s : State) (n c : Nat) (g : Core → Core) : (s.modCore n c g).peerStops = s.peerStops := rfl
@[simp] theorem State.modCore_presets (s : State) (n c : Nat) (g : Core → Core) : (s.modCore n c g).presets = s.presets := rfl
@[simp] theorem State.modCore_groupPower (s : State) (n c : Nat) (g : Core → Core) : (s.modCore n c g).groupPower = s.groupPower := rfl
@[simp] theorem State.modCore_corrections (s : State) (n c : Nat) (g : Core → Core) : (s.modCore n c g).corrections = s.corrections := rfl
@[simp] theorem State.modCore_sems (s : State) (n c : Nat) (g : Core → Core) : (s.modCore n c g).sems = s.sems := rfl
@[simp] theorem State.modCore_cmdaddr (s : State) (n c : Nat) (g : Core → Core) : (s.modCore n c g).cmdaddr = s.cmdaddr := rfl
@[simp] theorem State.modCore_cmdstat (s : State) (n c : Nat) (g : Core → Core) : (s.modCore n c g).cmdstat = s.cmdstat := rfl
@[simp] theorem State.modCore_cmdresult (s : State) (n c : Nat) (g : Core → Core) : (s.modCore n c g).cmdresult = s.cmdresult := rfl
@[simp] theorem State.modCore_dying (s : State) (n c : Nat) (g : Core → Core) : (s.modCore n c g).dying = s.dying := rfl
@[simp] theorem State.modCore_freeze (s : State) (n c : Nat) (g : Core → Core) : (s.modCore n c g).freeze = s.freeze := rfl
@[simp] theorem State.modCore_clusters (s : State) (n c : Nat) (g : Core → Core) : (s.modCore n c g).clusters = s.clusters := rfl
@[simp] theorem State.modCore_dies (s : State) (n c : Nat) (g : Core → Core) : (s.modCore n c g).dies = s.dies := rfl
@[simp] theorem State.modCore_telemetryBase (s : State) (n c : Nat) (g : Core → Core) : (s.modCore n c g).telemetryBase = s.telemetryBase := rfl
@[simp] theorem State.modCore_telemetryK (s : State) (n c : Nat) (g : Core → Core) : (s.modCore n c g).telemetryK = s.telemetryK := rfl
@[simp] theorem State.modCore_hdmBase (s : State) (n c : Nat) (g : Core → Core) : (s.modCore n c g).hdmBase = s.hdmBase := rfl
@[simp] theorem State.modCore_hdmCommitted (s : State) (n c : Nat) (g : Core → Core) : (s.modCore n c g).hdmCommitted = s.hdmCommitted := rfl
@[simp] theorem State.modCore_moduleId (s : State) (n c : Nat) (g : Core → Core) : (s.modCore n c g).moduleId = s.moduleId := rfl
@[simp] theorem State.modCore_routes (s : State) (n c : Nat) (g : Core → Core) : (s.modCore n c g).routes = s.routes := rfl
@[simp] theorem State.modCore_retired (s : State) (n c : Nat) (g : Core → Core) : (s.modCore n c g).retired = s.retired := rfl
@[simp] theorem State.modCore_boot (s : State) (n c : Nat) (g : Core → Core) : (s.modCore n c g).boot = s.boot := rfl
@[simp] theorem State.modCore_cxlStatus (s : State) (n c : Nat) (g : Core → Core) : (s.modCore n c g).cxlStatus = s.cxlStatus := rfl
@[simp] theorem State.modCore_activeSlot (s : State) (n c : Nat) (g : Core → Core) : (s.modCore n c g).activeSlot = s.activeSlot := rfl
@[simp] theorem State.modCore_active (s : State) (n c : Nat) (g : Core → Core) : (s.modCore n c g).active = s.active := rfl
@[simp] theorem State.modCore_inactive (s : State) (n c : Nat) (g : Core → Core) : (s.modCore n c g).inactive = s.inactive := rfl
@[simp] theorem State.modCore_rollback (s : State) (n c : Nat) (g : Core → Core) : (s.modCore n c g).rollback = s.rollback := rfl
@[simp] theorem State.modCore_spdm (s : State) (n c : Nat) (g : Core → Core) : (s.modCore n c g).spdm = s.spdm := rfl
@[simp] theorem State.modCore_serial (s : State) (n c : Nat) (g : Core → Core) : (s.modCore n c g).serial = s.serial := rfl
@[simp] theorem State.modCore_response (s : State) (n c : Nat) (g : Core → Core) : (s.modCore n c g).response = s.response := rfl
@[simp] theorem State.modCore_readout (s : State) (n c : Nat) (g : Core → Core) : (s.modCore n c g).readout = s.readout := rfl
@[simp] theorem State.modCore_agenda (s : State) (n c : Nat) (g : Core → Core) : (s.modCore n c g).agenda = s.agenda := rfl
@[simp] theorem State.modCore_cur (s : State) (n c : Nat) (g : Core → Core) : (s.modCore n c g).cur = s.cur := rfl
@[simp] theorem State.modCore_draws (s : State) (n c : Nat) (g : Core → Core) : (s.modCore n c g).draws = s.draws := rfl

/-! ### State.modTask and State.modVd: nothing for an absent number -/

@[simp] theorem State.modTask_mem (s : State) (n : Nat) (g : Task → Task) : (s.modTask n g).mem = s.mem := by
  unfold State.modTask; split <;> rfl
@[simp] theorem State.modTask_errored (s : State) (n : Nat) (g : Task → Task) : (s.modTask n g).errored = s.errored := by
  unfold State.modTask; split <;> rfl
@[simp] theorem State.modTask_tiles (s : State) (n : Nat) (g : Task → Task) : (s.modTask n g).tiles = s.tiles := by
  unfold State.modTask; split <;> rfl
@[simp] theorem State.modTask_nextTask (s : State) (n : Nat) (g : Task → Task) : (s.modTask n g).nextTask = s.nextTask := by
  unfold State.modTask; split <;> rfl
@[simp] theorem State.modTask_nextCmd (s : State) (n : Nat) (g : Task → Task) : (s.modTask n g).nextCmd = s.nextCmd := by
  unfold State.modTask; split <;> rfl
@[simp] theorem State.modTask_nextXput (s : State) (n : Nat) (g : Task → Task) : (s.modTask n g).nextXput = s.nextXput := by
  unfold State.modTask; split <;> rfl
@[simp] theorem State.modTask_vds (s : State) (n : Nat) (g : Task → Task) : (s.modTask n g).vds = s.vds := by
  unfold State.modTask; split <;> rfl
@[simp] theorem State.modTask_packets (s : State) (n : Nat) (g : Task → Task) : (s.modTask n g).packets = s.packets := by
  unfold State.modTask; split <;> rfl
@[simp] theorem State.modTask_cycles (s : State) (n : Nat) (g : Task → Task) : (s.modTask n g).cycles = s.cycles := by
  unfold State.modTask; split <;> rfl
@[simp] theorem State.modTask_clock (s : State) (n : Nat) (g : Task → Task) : (s.modTask n g).clock = s.clock := by
  unfold State.modTask; split <;> rfl
@[simp] theorem State.modTask_draining (s : State) (n : Nat) (g : Task → Task) : (s.modTask n g).draining = s.draining := by
  unfold State.modTask; split <;> rfl
@[simp] theorem State.modTask_stops (s : State) (n : Nat) (g : Task → Task) : (s.modTask n g).stops = s.stops := by
  unfold State.modTask; split <;> rfl
@[simp] theorem State.modTask_homeMap (s : State) (n : Nat) (g : Task → Task) : (s.modTask n g).homeMap = s.homeMap := by
  unfold State.modTask; split <;> rfl
@[simp] theorem State.modTask_sliceStops (s : State) (n : Nat) (g : Task → Task) : (s.modTask n g).sliceStops = s.sliceStops := by
  unfold State.modTask; split <;> rfl
@[simp] theorem State.modTask_hostStops (s : State) (n : Nat) (g : Task → Task) : (s.modTask n g).hostStops = s.hostStops := by
  unfold State.modTask; split <;> rfl
@[simp] theorem State.modTask_peerStops (s : State) (n : Nat) (g : Task → Task) : (s.modTask n g).peerStops = s.peerStops := by
  unfold State.modTask; split <;> rfl
@[simp] theorem State.modTask_presets (s : State) (n : Nat) (g : Task → Task) : (s.modTask n g).presets = s.presets := by
  unfold State.modTask; split <;> rfl
@[simp] theorem State.modTask_groupPower (s : State) (n : Nat) (g : Task → Task) : (s.modTask n g).groupPower = s.groupPower := by
  unfold State.modTask; split <;> rfl
@[simp] theorem State.modTask_corrections (s : State) (n : Nat) (g : Task → Task) : (s.modTask n g).corrections = s.corrections := by
  unfold State.modTask; split <;> rfl
@[simp] theorem State.modTask_sems (s : State) (n : Nat) (g : Task → Task) : (s.modTask n g).sems = s.sems := by
  unfold State.modTask; split <;> rfl
@[simp] theorem State.modTask_cmdaddr (s : State) (n : Nat) (g : Task → Task) : (s.modTask n g).cmdaddr = s.cmdaddr := by
  unfold State.modTask; split <;> rfl
@[simp] theorem State.modTask_cmdstat (s : State) (n : Nat) (g : Task → Task) : (s.modTask n g).cmdstat = s.cmdstat := by
  unfold State.modTask; split <;> rfl
@[simp] theorem State.modTask_cmdresult (s : State) (n : Nat) (g : Task → Task) : (s.modTask n g).cmdresult = s.cmdresult := by
  unfold State.modTask; split <;> rfl
@[simp] theorem State.modTask_dying (s : State) (n : Nat) (g : Task → Task) : (s.modTask n g).dying = s.dying := by
  unfold State.modTask; split <;> rfl
@[simp] theorem State.modTask_freeze (s : State) (n : Nat) (g : Task → Task) : (s.modTask n g).freeze = s.freeze := by
  unfold State.modTask; split <;> rfl
@[simp] theorem State.modTask_clusters (s : State) (n : Nat) (g : Task → Task) : (s.modTask n g).clusters = s.clusters := by
  unfold State.modTask; split <;> rfl
@[simp] theorem State.modTask_dies (s : State) (n : Nat) (g : Task → Task) : (s.modTask n g).dies = s.dies := by
  unfold State.modTask; split <;> rfl
@[simp] theorem State.modTask_telemetryBase (s : State) (n : Nat) (g : Task → Task) : (s.modTask n g).telemetryBase = s.telemetryBase := by
  unfold State.modTask; split <;> rfl
@[simp] theorem State.modTask_telemetryK (s : State) (n : Nat) (g : Task → Task) : (s.modTask n g).telemetryK = s.telemetryK := by
  unfold State.modTask; split <;> rfl
@[simp] theorem State.modTask_hdmBase (s : State) (n : Nat) (g : Task → Task) : (s.modTask n g).hdmBase = s.hdmBase := by
  unfold State.modTask; split <;> rfl
@[simp] theorem State.modTask_hdmCommitted (s : State) (n : Nat) (g : Task → Task) : (s.modTask n g).hdmCommitted = s.hdmCommitted := by
  unfold State.modTask; split <;> rfl
@[simp] theorem State.modTask_moduleId (s : State) (n : Nat) (g : Task → Task) : (s.modTask n g).moduleId = s.moduleId := by
  unfold State.modTask; split <;> rfl
@[simp] theorem State.modTask_routes (s : State) (n : Nat) (g : Task → Task) : (s.modTask n g).routes = s.routes := by
  unfold State.modTask; split <;> rfl
@[simp] theorem State.modTask_retired (s : State) (n : Nat) (g : Task → Task) : (s.modTask n g).retired = s.retired := by
  unfold State.modTask; split <;> rfl
@[simp] theorem State.modTask_boot (s : State) (n : Nat) (g : Task → Task) : (s.modTask n g).boot = s.boot := by
  unfold State.modTask; split <;> rfl
@[simp] theorem State.modTask_cxlStatus (s : State) (n : Nat) (g : Task → Task) : (s.modTask n g).cxlStatus = s.cxlStatus := by
  unfold State.modTask; split <;> rfl
@[simp] theorem State.modTask_activeSlot (s : State) (n : Nat) (g : Task → Task) : (s.modTask n g).activeSlot = s.activeSlot := by
  unfold State.modTask; split <;> rfl
@[simp] theorem State.modTask_active (s : State) (n : Nat) (g : Task → Task) : (s.modTask n g).active = s.active := by
  unfold State.modTask; split <;> rfl
@[simp] theorem State.modTask_inactive (s : State) (n : Nat) (g : Task → Task) : (s.modTask n g).inactive = s.inactive := by
  unfold State.modTask; split <;> rfl
@[simp] theorem State.modTask_rollback (s : State) (n : Nat) (g : Task → Task) : (s.modTask n g).rollback = s.rollback := by
  unfold State.modTask; split <;> rfl
@[simp] theorem State.modTask_spdm (s : State) (n : Nat) (g : Task → Task) : (s.modTask n g).spdm = s.spdm := by
  unfold State.modTask; split <;> rfl
@[simp] theorem State.modTask_serial (s : State) (n : Nat) (g : Task → Task) : (s.modTask n g).serial = s.serial := by
  unfold State.modTask; split <;> rfl
@[simp] theorem State.modTask_response (s : State) (n : Nat) (g : Task → Task) : (s.modTask n g).response = s.response := by
  unfold State.modTask; split <;> rfl
@[simp] theorem State.modTask_readout (s : State) (n : Nat) (g : Task → Task) : (s.modTask n g).readout = s.readout := by
  unfold State.modTask; split <;> rfl
@[simp] theorem State.modTask_agenda (s : State) (n : Nat) (g : Task → Task) : (s.modTask n g).agenda = s.agenda := by
  unfold State.modTask; split <;> rfl
@[simp] theorem State.modTask_cur (s : State) (n : Nat) (g : Task → Task) : (s.modTask n g).cur = s.cur := by
  unfold State.modTask; split <;> rfl
@[simp] theorem State.modTask_draws (s : State) (n : Nat) (g : Task → Task) : (s.modTask n g).draws = s.draws := by
  unfold State.modTask; split <;> rfl
@[simp] theorem State.modVd_mem (s : State) (n : Nat) (g : Vd → Vd) : (s.modVd n g).mem = s.mem := by
  unfold State.modVd; split <;> rfl
@[simp] theorem State.modVd_errored (s : State) (n : Nat) (g : Vd → Vd) : (s.modVd n g).errored = s.errored := by
  unfold State.modVd; split <;> rfl
@[simp] theorem State.modVd_tiles (s : State) (n : Nat) (g : Vd → Vd) : (s.modVd n g).tiles = s.tiles := by
  unfold State.modVd; split <;> rfl
@[simp] theorem State.modVd_tasks (s : State) (n : Nat) (g : Vd → Vd) : (s.modVd n g).tasks = s.tasks := by
  unfold State.modVd; split <;> rfl
@[simp] theorem State.modVd_nextTask (s : State) (n : Nat) (g : Vd → Vd) : (s.modVd n g).nextTask = s.nextTask := by
  unfold State.modVd; split <;> rfl
@[simp] theorem State.modVd_nextCmd (s : State) (n : Nat) (g : Vd → Vd) : (s.modVd n g).nextCmd = s.nextCmd := by
  unfold State.modVd; split <;> rfl
@[simp] theorem State.modVd_nextXput (s : State) (n : Nat) (g : Vd → Vd) : (s.modVd n g).nextXput = s.nextXput := by
  unfold State.modVd; split <;> rfl
@[simp] theorem State.modVd_packets (s : State) (n : Nat) (g : Vd → Vd) : (s.modVd n g).packets = s.packets := by
  unfold State.modVd; split <;> rfl
@[simp] theorem State.modVd_cycles (s : State) (n : Nat) (g : Vd → Vd) : (s.modVd n g).cycles = s.cycles := by
  unfold State.modVd; split <;> rfl
@[simp] theorem State.modVd_clock (s : State) (n : Nat) (g : Vd → Vd) : (s.modVd n g).clock = s.clock := by
  unfold State.modVd; split <;> rfl
@[simp] theorem State.modVd_draining (s : State) (n : Nat) (g : Vd → Vd) : (s.modVd n g).draining = s.draining := by
  unfold State.modVd; split <;> rfl
@[simp] theorem State.modVd_stops (s : State) (n : Nat) (g : Vd → Vd) : (s.modVd n g).stops = s.stops := by
  unfold State.modVd; split <;> rfl
@[simp] theorem State.modVd_homeMap (s : State) (n : Nat) (g : Vd → Vd) : (s.modVd n g).homeMap = s.homeMap := by
  unfold State.modVd; split <;> rfl
@[simp] theorem State.modVd_sliceStops (s : State) (n : Nat) (g : Vd → Vd) : (s.modVd n g).sliceStops = s.sliceStops := by
  unfold State.modVd; split <;> rfl
@[simp] theorem State.modVd_hostStops (s : State) (n : Nat) (g : Vd → Vd) : (s.modVd n g).hostStops = s.hostStops := by
  unfold State.modVd; split <;> rfl
@[simp] theorem State.modVd_peerStops (s : State) (n : Nat) (g : Vd → Vd) : (s.modVd n g).peerStops = s.peerStops := by
  unfold State.modVd; split <;> rfl
@[simp] theorem State.modVd_presets (s : State) (n : Nat) (g : Vd → Vd) : (s.modVd n g).presets = s.presets := by
  unfold State.modVd; split <;> rfl
@[simp] theorem State.modVd_groupPower (s : State) (n : Nat) (g : Vd → Vd) : (s.modVd n g).groupPower = s.groupPower := by
  unfold State.modVd; split <;> rfl
@[simp] theorem State.modVd_corrections (s : State) (n : Nat) (g : Vd → Vd) : (s.modVd n g).corrections = s.corrections := by
  unfold State.modVd; split <;> rfl
@[simp] theorem State.modVd_sems (s : State) (n : Nat) (g : Vd → Vd) : (s.modVd n g).sems = s.sems := by
  unfold State.modVd; split <;> rfl
@[simp] theorem State.modVd_cmdaddr (s : State) (n : Nat) (g : Vd → Vd) : (s.modVd n g).cmdaddr = s.cmdaddr := by
  unfold State.modVd; split <;> rfl
@[simp] theorem State.modVd_cmdstat (s : State) (n : Nat) (g : Vd → Vd) : (s.modVd n g).cmdstat = s.cmdstat := by
  unfold State.modVd; split <;> rfl
@[simp] theorem State.modVd_cmdresult (s : State) (n : Nat) (g : Vd → Vd) : (s.modVd n g).cmdresult = s.cmdresult := by
  unfold State.modVd; split <;> rfl
@[simp] theorem State.modVd_dying (s : State) (n : Nat) (g : Vd → Vd) : (s.modVd n g).dying = s.dying := by
  unfold State.modVd; split <;> rfl
@[simp] theorem State.modVd_freeze (s : State) (n : Nat) (g : Vd → Vd) : (s.modVd n g).freeze = s.freeze := by
  unfold State.modVd; split <;> rfl
@[simp] theorem State.modVd_clusters (s : State) (n : Nat) (g : Vd → Vd) : (s.modVd n g).clusters = s.clusters := by
  unfold State.modVd; split <;> rfl
@[simp] theorem State.modVd_dies (s : State) (n : Nat) (g : Vd → Vd) : (s.modVd n g).dies = s.dies := by
  unfold State.modVd; split <;> rfl
@[simp] theorem State.modVd_telemetryBase (s : State) (n : Nat) (g : Vd → Vd) : (s.modVd n g).telemetryBase = s.telemetryBase := by
  unfold State.modVd; split <;> rfl
@[simp] theorem State.modVd_telemetryK (s : State) (n : Nat) (g : Vd → Vd) : (s.modVd n g).telemetryK = s.telemetryK := by
  unfold State.modVd; split <;> rfl
@[simp] theorem State.modVd_hdmBase (s : State) (n : Nat) (g : Vd → Vd) : (s.modVd n g).hdmBase = s.hdmBase := by
  unfold State.modVd; split <;> rfl
@[simp] theorem State.modVd_hdmCommitted (s : State) (n : Nat) (g : Vd → Vd) : (s.modVd n g).hdmCommitted = s.hdmCommitted := by
  unfold State.modVd; split <;> rfl
@[simp] theorem State.modVd_moduleId (s : State) (n : Nat) (g : Vd → Vd) : (s.modVd n g).moduleId = s.moduleId := by
  unfold State.modVd; split <;> rfl
@[simp] theorem State.modVd_routes (s : State) (n : Nat) (g : Vd → Vd) : (s.modVd n g).routes = s.routes := by
  unfold State.modVd; split <;> rfl
@[simp] theorem State.modVd_retired (s : State) (n : Nat) (g : Vd → Vd) : (s.modVd n g).retired = s.retired := by
  unfold State.modVd; split <;> rfl
@[simp] theorem State.modVd_boot (s : State) (n : Nat) (g : Vd → Vd) : (s.modVd n g).boot = s.boot := by
  unfold State.modVd; split <;> rfl
@[simp] theorem State.modVd_cxlStatus (s : State) (n : Nat) (g : Vd → Vd) : (s.modVd n g).cxlStatus = s.cxlStatus := by
  unfold State.modVd; split <;> rfl
@[simp] theorem State.modVd_activeSlot (s : State) (n : Nat) (g : Vd → Vd) : (s.modVd n g).activeSlot = s.activeSlot := by
  unfold State.modVd; split <;> rfl
@[simp] theorem State.modVd_active (s : State) (n : Nat) (g : Vd → Vd) : (s.modVd n g).active = s.active := by
  unfold State.modVd; split <;> rfl
@[simp] theorem State.modVd_inactive (s : State) (n : Nat) (g : Vd → Vd) : (s.modVd n g).inactive = s.inactive := by
  unfold State.modVd; split <;> rfl
@[simp] theorem State.modVd_rollback (s : State) (n : Nat) (g : Vd → Vd) : (s.modVd n g).rollback = s.rollback := by
  unfold State.modVd; split <;> rfl
@[simp] theorem State.modVd_spdm (s : State) (n : Nat) (g : Vd → Vd) : (s.modVd n g).spdm = s.spdm := by
  unfold State.modVd; split <;> rfl
@[simp] theorem State.modVd_serial (s : State) (n : Nat) (g : Vd → Vd) : (s.modVd n g).serial = s.serial := by
  unfold State.modVd; split <;> rfl
@[simp] theorem State.modVd_response (s : State) (n : Nat) (g : Vd → Vd) : (s.modVd n g).response = s.response := by
  unfold State.modVd; split <;> rfl
@[simp] theorem State.modVd_readout (s : State) (n : Nat) (g : Vd → Vd) : (s.modVd n g).readout = s.readout := by
  unfold State.modVd; split <;> rfl
@[simp] theorem State.modVd_agenda (s : State) (n : Nat) (g : Vd → Vd) : (s.modVd n g).agenda = s.agenda := by
  unfold State.modVd; split <;> rfl
@[simp] theorem State.modVd_cur (s : State) (n : Nat) (g : Vd → Vd) : (s.modVd n g).cur = s.cur := by
  unfold State.modVd; split <;> rfl
@[simp] theorem State.modVd_draws (s : State) (n : Nat) (g : Vd → Vd) : (s.modVd n g).draws = s.draws := by
  unfold State.modVd; split <;> rfl

/-! ### Ctx: one register file at a time -/

@[simp] theorem Ctx.setV_g (c : Ctx) (r : VReg) (x : VWord) : (c.setV r x).g = c.g := rfl
@[simp] theorem Ctx.setV_m (c : Ctx) (r : VReg) (x : VWord) : (c.setV r x).m = c.m := rfl
@[simp] theorem Ctx.setV_h (c : Ctx) (r : VReg) (x : VWord) : (c.setV r x).h = c.h := rfl
@[simp] theorem Ctx.setV_q (c : Ctx) (r : VReg) (x : VWord) : (c.setV r x).q = c.q := rfl
@[simp] theorem Ctx.setV_pc (c : Ctx) (r : VReg) (x : VWord) : (c.setV r x).pc = c.pc := rfl
@[simp] theorem Ctx.setV_mode (c : Ctx) (r : VReg) (x : VWord) : (c.setV r x).mode = c.mode := rfl
@[simp] theorem Ctx.setV_fctl (c : Ctx) (r : VReg) (x : VWord) : (c.setV r x).fctl = c.fctl := rfl
@[simp] theorem Ctx.setV_fstat (c : Ctx) (r : VReg) (x : VWord) : (c.setV r x).fstat = c.fstat := rfl
@[simp] theorem Ctx.setV_tcause (c : Ctx) (r : VReg) (x : VWord) : (c.setV r x).tcause = c.tcause := rfl
@[simp] theorem Ctx.setV_tval (c : Ctx) (r : VReg) (x : VWord) : (c.setV r x).tval = c.tval := rfl
@[simp] theorem Ctx.setV_tepc (c : Ctx) (r : VReg) (x : VWord) : (c.setV r x).tepc = c.tepc := rfl
@[simp] theorem Ctx.setV_tstatus (c : Ctx) (r : VReg) (x : VWord) : (c.setV r x).tstatus = c.tstatus := rfl
@[simp] theorem Ctx.setV_vrep (c : Ctx) (r : VReg) (x : VWord) : (c.setV r x).vrep = c.vrep := rfl
@[simp] theorem Ctx.setV_outer (c : Ctx) (r : VReg) (x : VWord) : (c.setV r x).outer = c.outer := rfl
@[simp] theorem Ctx.setH_g (c : Ctx) (r : HReg) (x : Word) : (c.setH r x).g = c.g := rfl
@[simp] theorem Ctx.setH_v (c : Ctx) (r : HReg) (x : Word) : (c.setH r x).v = c.v := rfl
@[simp] theorem Ctx.setH_m (c : Ctx) (r : HReg) (x : Word) : (c.setH r x).m = c.m := rfl
@[simp] theorem Ctx.setH_q (c : Ctx) (r : HReg) (x : Word) : (c.setH r x).q = c.q := rfl
@[simp] theorem Ctx.setH_pc (c : Ctx) (r : HReg) (x : Word) : (c.setH r x).pc = c.pc := rfl
@[simp] theorem Ctx.setH_mode (c : Ctx) (r : HReg) (x : Word) : (c.setH r x).mode = c.mode := rfl
@[simp] theorem Ctx.setH_fctl (c : Ctx) (r : HReg) (x : Word) : (c.setH r x).fctl = c.fctl := rfl
@[simp] theorem Ctx.setH_fstat (c : Ctx) (r : HReg) (x : Word) : (c.setH r x).fstat = c.fstat := rfl
@[simp] theorem Ctx.setH_tcause (c : Ctx) (r : HReg) (x : Word) : (c.setH r x).tcause = c.tcause := rfl
@[simp] theorem Ctx.setH_tval (c : Ctx) (r : HReg) (x : Word) : (c.setH r x).tval = c.tval := rfl
@[simp] theorem Ctx.setH_tepc (c : Ctx) (r : HReg) (x : Word) : (c.setH r x).tepc = c.tepc := rfl
@[simp] theorem Ctx.setH_tstatus (c : Ctx) (r : HReg) (x : Word) : (c.setH r x).tstatus = c.tstatus := rfl
@[simp] theorem Ctx.setH_vrep (c : Ctx) (r : HReg) (x : Word) : (c.setH r x).vrep = c.vrep := rfl
@[simp] theorem Ctx.setH_outer (c : Ctx) (r : HReg) (x : Word) : (c.setH r x).outer = c.outer := rfl
@[simp] theorem Ctx.setPort_g (c : Ctx) (n : Nat) (p : Port) : (c.setPort n p).g = c.g := rfl
@[simp] theorem Ctx.setPort_v (c : Ctx) (n : Nat) (p : Port) : (c.setPort n p).v = c.v := rfl
@[simp] theorem Ctx.setPort_m (c : Ctx) (n : Nat) (p : Port) : (c.setPort n p).m = c.m := rfl
@[simp] theorem Ctx.setPort_h (c : Ctx) (n : Nat) (p : Port) : (c.setPort n p).h = c.h := rfl
@[simp] theorem Ctx.setPort_pc (c : Ctx) (n : Nat) (p : Port) : (c.setPort n p).pc = c.pc := rfl
@[simp] theorem Ctx.setPort_mode (c : Ctx) (n : Nat) (p : Port) : (c.setPort n p).mode = c.mode := rfl
@[simp] theorem Ctx.setPort_fctl (c : Ctx) (n : Nat) (p : Port) : (c.setPort n p).fctl = c.fctl := rfl
@[simp] theorem Ctx.setPort_fstat (c : Ctx) (n : Nat) (p : Port) : (c.setPort n p).fstat = c.fstat := rfl
@[simp] theorem Ctx.setPort_tcause (c : Ctx) (n : Nat) (p : Port) : (c.setPort n p).tcause = c.tcause := rfl
@[simp] theorem Ctx.setPort_tval (c : Ctx) (n : Nat) (p : Port) : (c.setPort n p).tval = c.tval := rfl
@[simp] theorem Ctx.setPort_tepc (c : Ctx) (n : Nat) (p : Port) : (c.setPort n p).tepc = c.tepc := rfl
@[simp] theorem Ctx.setPort_tstatus (c : Ctx) (n : Nat) (p : Port) : (c.setPort n p).tstatus = c.tstatus := rfl
@[simp] theorem Ctx.setPort_vrep (c : Ctx) (n : Nat) (p : Port) : (c.setPort n p).vrep = c.vrep := rfl
@[simp] theorem Ctx.setPort_outer (c : Ctx) (n : Nat) (p : Port) : (c.setPort n p).outer = c.outer := rfl
@[simp] theorem Ctx.setG_v (c : Ctx) (r : GReg) (x : Word) : (c.setG r x).v = c.v := by
  unfold Ctx.setG; split <;> rfl
@[simp] theorem Ctx.setG_m (c : Ctx) (r : GReg) (x : Word) : (c.setG r x).m = c.m := by
  unfold Ctx.setG; split <;> rfl
@[simp] theorem Ctx.setG_h (c : Ctx) (r : GReg) (x : Word) : (c.setG r x).h = c.h := by
  unfold Ctx.setG; split <;> rfl
@[simp] theorem Ctx.setG_q (c : Ctx) (r : GReg) (x : Word) : (c.setG r x).q = c.q := by
  unfold Ctx.setG; split <;> rfl
@[simp] theorem Ctx.setG_pc (c : Ctx) (r : GReg) (x : Word) : (c.setG r x).pc = c.pc := by
  unfold Ctx.setG; split <;> rfl
@[simp] theorem Ctx.setG_mode (c : Ctx) (r : GReg) (x : Word) : (c.setG r x).mode = c.mode := by
  unfold Ctx.setG; split <;> rfl
@[simp] theorem Ctx.setG_fctl (c : Ctx) (r : GReg) (x : Word) : (c.setG r x).fctl = c.fctl := by
  unfold Ctx.setG; split <;> rfl
@[simp] theorem Ctx.setG_fstat (c : Ctx) (r : GReg) (x : Word) : (c.setG r x).fstat = c.fstat := by
  unfold Ctx.setG; split <;> rfl
@[simp] theorem Ctx.setG_tcause (c : Ctx) (r : GReg) (x : Word) : (c.setG r x).tcause = c.tcause := by
  unfold Ctx.setG; split <;> rfl
@[simp] theorem Ctx.setG_tval (c : Ctx) (r : GReg) (x : Word) : (c.setG r x).tval = c.tval := by
  unfold Ctx.setG; split <;> rfl
@[simp] theorem Ctx.setG_tepc (c : Ctx) (r : GReg) (x : Word) : (c.setG r x).tepc = c.tepc := by
  unfold Ctx.setG; split <;> rfl
@[simp] theorem Ctx.setG_tstatus (c : Ctx) (r : GReg) (x : Word) : (c.setG r x).tstatus = c.tstatus := by
  unfold Ctx.setG; split <;> rfl
@[simp] theorem Ctx.setG_vrep (c : Ctx) (r : GReg) (x : Word) : (c.setG r x).vrep = c.vrep := by
  unfold Ctx.setG; split <;> rfl
@[simp] theorem Ctx.setG_outer (c : Ctx) (r : GReg) (x : Word) : (c.setG r x).outer = c.outer := by
  unfold Ctx.setG; split <;> rfl
@[simp] theorem Ctx.setM_g (c : Ctx) (r : MReg) (x : Word32) : (c.setM r x).g = c.g := by
  unfold Ctx.setM; split <;> rfl
@[simp] theorem Ctx.setM_v (c : Ctx) (r : MReg) (x : Word32) : (c.setM r x).v = c.v := by
  unfold Ctx.setM; split <;> rfl
@[simp] theorem Ctx.setM_h (c : Ctx) (r : MReg) (x : Word32) : (c.setM r x).h = c.h := by
  unfold Ctx.setM; split <;> rfl
@[simp] theorem Ctx.setM_q (c : Ctx) (r : MReg) (x : Word32) : (c.setM r x).q = c.q := by
  unfold Ctx.setM; split <;> rfl
@[simp] theorem Ctx.setM_pc (c : Ctx) (r : MReg) (x : Word32) : (c.setM r x).pc = c.pc := by
  unfold Ctx.setM; split <;> rfl
@[simp] theorem Ctx.setM_mode (c : Ctx) (r : MReg) (x : Word32) : (c.setM r x).mode = c.mode := by
  unfold Ctx.setM; split <;> rfl
@[simp] theorem Ctx.setM_fctl (c : Ctx) (r : MReg) (x : Word32) : (c.setM r x).fctl = c.fctl := by
  unfold Ctx.setM; split <;> rfl
@[simp] theorem Ctx.setM_fstat (c : Ctx) (r : MReg) (x : Word32) : (c.setM r x).fstat = c.fstat := by
  unfold Ctx.setM; split <;> rfl
@[simp] theorem Ctx.setM_tcause (c : Ctx) (r : MReg) (x : Word32) : (c.setM r x).tcause = c.tcause := by
  unfold Ctx.setM; split <;> rfl
@[simp] theorem Ctx.setM_tval (c : Ctx) (r : MReg) (x : Word32) : (c.setM r x).tval = c.tval := by
  unfold Ctx.setM; split <;> rfl
@[simp] theorem Ctx.setM_tepc (c : Ctx) (r : MReg) (x : Word32) : (c.setM r x).tepc = c.tepc := by
  unfold Ctx.setM; split <;> rfl
@[simp] theorem Ctx.setM_tstatus (c : Ctx) (r : MReg) (x : Word32) : (c.setM r x).tstatus = c.tstatus := by
  unfold Ctx.setM; split <;> rfl
@[simp] theorem Ctx.setM_vrep (c : Ctx) (r : MReg) (x : Word32) : (c.setM r x).vrep = c.vrep := by
  unfold Ctx.setM; split <;> rfl
@[simp] theorem Ctx.setM_outer (c : Ctx) (r : MReg) (x : Word32) : (c.setM r x).outer = c.outer := by
  unfold Ctx.setM; split <;> rfl

end Sys2Proof.Machine
end

