-- ==== Sys2Proof/Laws/Lookup.lean ====
section
/-! SUPPORT. Reads after writes: keyed lists, the parts of the state, the registers of a context. -/

namespace Sys2Proof.Machine

variable {κ α : Type} [DecidableEq κ]

@[simp] theorem look_nil (q : κ) : look ([] : List (κ × α)) q = none := rfl

@[simp] theorem look_put_same (l : List (κ × α)) (q : κ) (x : α) : look (put l q x) q = some x := by
  induction l with
  | nil => simp [put, look]
  | cons p r ih => by_cases h : p.1 = q <;> simp [put, look, h, ih]

theorem look_put_ne (l : List (κ × α)) {q k : κ} (x : α) (h : k ≠ q) : look (put l q x) k = look l k := by
  induction l with
  | nil => simp [put, look, Ne.symm h]
  | cons p r ih =>
    by_cases hp : p.1 = q
    · have : p.1 ≠ k := fun e => h (e ▸ hp)
      simp [put, look, hp, Ne.symm h]
    · simp [put, look, hp, ih]

@[simp] theorem look_cut_same (l : List (κ × α)) (q : κ) : look (cut l q) q = none := by
  induction l with
  | nil => rfl
  | cons p r ih => by_cases h : p.1 = q <;> simp_all [cut, look]

theorem look_cut_ne (l : List (κ × α)) {q k : κ} (h : k ≠ q) : look (cut l q) k = look l k := by
  induction l with
  | nil => rfl
  | cons p r ih =>
    by_cases hp : p.1 = q
    · have : p.1 ≠ k := fun e => h (e ▸ hp)
      simp_all [cut, look]
    · by_cases hk : p.1 = k <;> simp_all [cut, look]

/-- The keys of a list after a write: unchanged where the key was listed, else one more at the end. -/
theorem keys_put (l : List (κ × α)) (q : κ) (x : α) :
    (put l q x).map Prod.fst = if q ∈ l.map Prod.fst then l.map Prod.fst else l.map Prod.fst ++ [q] := by
  induction l with
  | nil => simp [put]
  | cons p r ih =>
    by_cases h : p.1 = q
    · simp [put, h]
    · simp only [put, h, if_false, List.map_cons, ih, List.mem_cons]
      have : ¬ q = p.1 := fun e => h e.symm
      simp only [this, false_or]
      split <;> simp

theorem nodup_put {l : List (κ × α)} (h : (l.map Prod.fst).Nodup) (q : κ) (x : α) :
    ((put l q x).map Prod.fst).Nodup := by
  rw [keys_put]
  split
  · exact h
  · rename_i hq
    rw [List.nodup_append]
    exact ⟨h, List.nodup_singleton q, fun a ha b hb e => hq (by simp_all)⟩

theorem nodup_cut {l : List (κ × α)} (h : (l.map Prod.fst).Nodup) (q : κ) : ((cut l q).map Prod.fst).Nodup :=
  h.sublist (List.filter_sublist.map _)

/-- In a list with distinct keys, an entry is what its key looks up. -/
theorem look_of_mem {l : List (κ × α)} (h : (l.map Prod.fst).Nodup) {p : κ × α} (hp : p ∈ l) :
    look l p.1 = some p.2 := by
  induction l with
  | nil => simp at hp
  | cons a r ih =>
    rw [List.map_cons, List.nodup_cons] at h
    rcases List.mem_cons.1 hp with rfl | hr
    · simp [look]
    · have : a.1 ≠ p.1 := fun e => h.1 (e ▸ List.mem_map_of_mem hr)
      simp [look, this, ih h.2 hr]

/-! ### Parts of the state -/

@[simp] theorem State.task?_setTask (s : State) (n : Nat) (x : Task) : (s.setTask n x).task? n = some x :=
  look_put_same ..
theorem State.task?_setTask_ne (s : State) {n k : Nat} (x : Task) (h : k ≠ n) :
    (s.setTask n x).task? k = s.task? k := look_put_ne _ x h

theorem State.modTask_of {s : State} {n : Nat} {t : Task} (h : s.task? n = some t) (f : Task → Task) :
    s.modTask n f = s.setTask n (f t) := by
  simp [State.modTask, h]

theorem State.task?_modTask {s : State} {n : Nat} {t : Task} (h : s.task? n = some t) (f : Task → Task) :
    (s.modTask n f).task? n = some (f t) := by
  rw [State.modTask_of h]; simp

theorem State.task?_modTask_ne (s : State) {n k : Nat} (f : Task → Task) (h : k ≠ n) :
    (s.modTask n f).task? k = s.task? k := by
  unfold State.modTask
  split
  · exact State.task?_setTask_ne s _ h
  · rfl

@[simp] theorem State.tile_setTile (s : State) (n : Nat) (x : Tile) : (s.setTile n x).tile n = x := by
  simp [State.tile, State.setTile]
theorem State.tile_setTile_ne (s : State) {n k : Nat} (x : Tile) (h : k ≠ n) : (s.setTile n x).tile k = s.tile k := by
  simp [State.tile, State.setTile, look_put_ne _ x h]
@[simp] theorem State.tile_modTile (s : State) (n : Nat) (f : Tile → Tile) : (s.modTile n f).tile n = f (s.tile n) := by
  simp [State.modTile]

@[simp] theorem State.vd_setVd (s : State) (n : Nat) (v : Vd) : (s.setVd n v).vd n = v := by
  simp [State.vd, State.setVd]
theorem State.vd_setVd_ne (s : State) {n k : Nat} (v : Vd) (h : k ≠ n) : (s.setVd n v).vd k = s.vd k := by
  simp [State.vd, State.setVd, look_put_ne _ v h]
theorem State.vd_modVd {s : State} {n : Nat} {v : Vd} (h : look s.vds n = some v) (f : Vd → Vd) :
    (s.modVd n f).vd n = f v := by
  simp [State.modVd, h]

/-- What only reads `tasks` or `vds` is unchanged by a write elsewhere. -/
@[simp] theorem State.task?_setTile (s : State) (n : Nat) (x : Tile) (k : Nat) : (s.setTile n x).task? k = s.task? k := rfl
@[simp] theorem State.task?_setVd (s : State) (n : Nat) (x : Vd) (k : Nat) : (s.setVd n x).task? k = s.task? k := rfl
@[simp] theorem State.task?_modVd (s : State) (n : Nat) (f : Vd → Vd) (k : Nat) : (s.modVd n f).task? k = s.task? k := by
  simp [State.task?]
@[simp] theorem State.task?_modTile (s : State) (n : Nat) (f : Tile → Tile) (k : Nat) :
    (s.modTile n f).task? k = s.task? k := rfl
@[simp] theorem State.vd_setTask (s : State) (n : Nat) (x : Task) (k : Nat) : (s.setTask n x).vd k = s.vd k := rfl
@[simp] theorem State.vd_modTask (s : State) (n : Nat) (f : Task → Task) (k : Nat) : (s.modTask n f).vd k = s.vd k := by
  simp [State.vd]
@[simp] theorem State.tile_setTask (s : State) (n : Nat) (x : Task) (k : Nat) : (s.setTask n x).tile k = s.tile k := rfl
@[simp] theorem State.tile_modTask (s : State) (n : Nat) (f : Task → Task) (k : Nat) :
    (s.modTask n f).tile k = s.tile k := by
  simp [State.tile]

/-! ### Registers (R38) -/

@[simp] theorem Ctx.getG_zero (c : Ctx) : c.getG 0 = 0 := by simp [Ctx.getG]
/-- A write to g0 is discarded. -/
@[simp] theorem Ctx.setG_zero (c : Ctx) (x : Word) : c.setG 0 x = c := by simp [Ctx.setG]

theorem Ctx.getG_setG_same (c : Ctx) {r : GReg} (x : Word) (h0 : r.toNat ≠ 0) (h : r.toNat < 24) :
    (c.setG r x).getG r = x := by
  simp [Ctx.getG, Ctx.setG, h0, h]

theorem Ctx.getG_setG_ne (c : Ctx) {r q : GReg} (x : Word) (h : q ≠ r) : (c.setG r x).getG q = c.getG q := by
  have hn : r.toNat ≠ q.toNat := fun e => h (BitVec.eq_of_toNat_eq e.symm)
  simp only [Ctx.getG, Ctx.setG]
  by_cases h0 : r.toNat = 0
  · simp [h0]
  · simp [h0, hn, List.getD]

@[simp] theorem Ctx.getV_setV_same (c : Ctx) (r : VReg) (x : VWord) : (c.setV r x).getV r = x := by
  simp [Ctx.getV, Ctx.setV]
theorem Ctx.getV_setV_ne (c : Ctx) {r q : VReg} (x : VWord) (h : q ≠ r) : (c.setV r x).getV q = c.getV q := by
  have hn : r.toNat ≠ q.toNat := fun e => h (BitVec.eq_of_toNat_eq e.symm)
  simp only [Ctx.getV, Ctx.setV]
  exact Vector.getElem_set_ne _ _ hn

@[simp] theorem Ctx.getH_setH_same (c : Ctx) (r : HReg) (x : Word) : (c.setH r x).getH r = x := by
  simp [Ctx.getH, Ctx.setH]
theorem Ctx.getH_setH_ne (c : Ctx) {r q : HReg} (x : Word) (h : q ≠ r) : (c.setH r x).getH q = c.getH q := by
  have hn : r.toNat ≠ q.toNat := fun e => h (BitVec.eq_of_toNat_eq e.symm)
  simp only [Ctx.getH, Ctx.setH]
  exact Vector.getElem_set_ne _ _ hn

@[simp] theorem Ctx.getM_zero (c : Ctx) : c.getM 0 = 0xFFFFFFFF := by simp [Ctx.getM]
/-- A write to m0 is discarded. -/
@[simp] theorem Ctx.setM_zero (c : Ctx) (x : Word32) : c.setM 0 x = c := by simp [Ctx.setM]
theorem Ctx.getM_setM_same (c : Ctx) {r : MReg} (x : Word32) (h : r.toNat ≠ 0) : (c.setM r x).getM r = x := by
  simp [Ctx.getM, Ctx.setM, h]
theorem Ctx.getM_setM_ne (c : Ctx) {r q : MReg} (x : Word32) (h : q ≠ r) : (c.setM r x).getM q = c.getM q := by
  have hn : r.toNat ≠ q.toNat := fun e => h (BitVec.eq_of_toNat_eq e.symm)
  unfold Ctx.getM Ctx.setM
  by_cases h0 : r.toNat = 0
  · simp [h0]
  · by_cases hq : q.toNat = 0
    · simp [hq]
    · simp only [h0, hq, if_false]
      exact Vector.getElem_set_ne _ _ hn

end Sys2Proof.Machine
end

