-- ==== Sys2Proof/Laws/Memory.lean ====
section
/-! SUPPORT. Memory: every operation keeps the canonical form; a byte written reads back; every other byte is
unchanged; little-endian numbers. -/

namespace Sys2Proof.Machine

/-- The memory of the machine after reset has the canonical form. -/
theorem reset_mem_wf : State.reset.mem.wf := by decide

/-! ### The canonical form -/

theorem Memory.wf_nil : Memory.wf [] := by decide

theorem Memory.wf_cons {k : Nat} {b : Byte} {m : Memory} :
    Memory.wf ((k, b) :: m) ↔ (∀ c ∈ m, k < c.1) ∧ b ≠ 0 ∧ Memory.wf m := by
  simp only [Memory.wf, List.pairwise_cons, List.forall_mem_cons]
  tauto

theorem Memory.mem_set {m : Memory} {q : Nat} {x : Byte} {c : Host.Cell} (h : c ∈ m.set q x) :
    c ∈ m ∨ c = (q, x) := by
  induction m with
  | nil => simp only [Memory.set] at h; split at h <;> simp_all
  | cons a r ih =>
    obtain ⟨k, b⟩ := a
    simp only [Memory.set] at h
    split at h
    · rcases List.mem_cons.1 h with h | h
      · exact .inl (h ▸ List.mem_cons_self ..)
      · rcases ih h with h | h <;> simp [h]
    · split at h
      · split at h <;> simp_all
        tauto
      · split at h <;> simp_all
        tauto

theorem Memory.wf_set {m : Memory} (h : m.wf) (q : Nat) (x : Byte) : (m.set q x).wf := by
  induction m with
  | nil =>
    simp only [Memory.set]
    split
    · exact Memory.wf_nil
    · exact Memory.wf_cons.2 ⟨by simp, by assumption, Memory.wf_nil⟩
  | cons a r ih =>
    obtain ⟨k, b⟩ := a
    obtain ⟨h1, h2, h3⟩ := Memory.wf_cons.1 h
    simp only [Memory.set]
    split
    · rename_i hk
      refine Memory.wf_cons.2 ⟨fun c hc => ?_, h2, ih h3⟩
      rcases Memory.mem_set hc with hc | rfl
      · exact h1 c hc
      · exact hk
    · rename_i hk
      split
      · rename_i e
        split
        · exact h3
        · exact Memory.wf_cons.2 ⟨e ▸ h1, by assumption, h3⟩
      · split
        · exact h
        · refine Memory.wf_cons.2 ⟨fun c hc => ?_, by assumption, h⟩
          rcases List.mem_cons.1 hc with rfl | hc
          · simp only; omega
          · have := h1 c hc; omega

theorem Memory.wf_setAll {m : Memory} (h : m.wf) (l : List (Nat × Byte)) : (m.setAll l).wf := by
  induction l generalizing m with
  | nil => exact h
  | cons a r ih => exact ih (Memory.wf_set h a.1 a.2)

theorem Memory.wf_filter {m : Memory} (h : m.wf) (p : Host.Cell → Bool) : Memory.wf (m.filter p) :=
  ⟨h.1.filter p, fun c hc => h.2 c (List.mem_filter.1 hc).1⟩

theorem Memory.wf_clear {m : Memory} (h : m.wf) (base len : Nat) : (m.clear base len).wf := Memory.wf_filter h _

theorem Memory.wf_replace {m : Memory} (h : m.wf) (base len : Nat) (l : List (Nat × Byte)) :
    (m.replace base len l).wf := Memory.wf_setAll (Memory.wf_clear h base len) l

/-! ### Read after write -/

theorem Memory.byte_of_lt {m : Memory} {k : Nat} (h : ∀ c ∈ m, k < c.1) : m.byte k = 0 := by
  induction m with
  | nil => rfl
  | cons a r ih =>
    obtain ⟨j, b⟩ := a
    have hj := h (j, b) (List.mem_cons_self ..)
    have : ¬ j = k := by simp only at hj; omega
    simp only [Memory.byte, this, if_false]
    exact ih fun c hc => h c (List.mem_cons_of_mem _ hc)

/-- A byte written reads back. -/
theorem Memory.byte_set_same {m : Memory} (h : m.wf) (k : Nat) (x : Byte) : (m.set k x).byte k = x := by
  induction m with
  | nil => simp only [Memory.set]; split <;> simp_all [Memory.byte]
  | cons a r ih =>
    obtain ⟨j, b⟩ := a
    obtain ⟨h1, h2, h3⟩ := Memory.wf_cons.1 h
    simp only [Memory.set]
    split
    · have : ¬ j = k := by omega
      simp [Memory.byte, this, ih h3]
    · split
      · split
        · rename_i e hx
          rw [hx]; exact Memory.byte_of_lt (e ▸ h1)
        · simp [Memory.byte]
      · split
        · rename_i hjk _ hx
          rw [hx]
          refine Memory.byte_of_lt fun c hc => ?_
          rcases List.mem_cons.1 hc with rfl | hc
          · simp only; omega
          · have := h1 c hc; omega
        · simp [Memory.byte]

/-- Every other byte is unchanged. -/
theorem Memory.byte_set_ne (m : Memory) {k q : Nat} (x : Byte) (h : q ≠ k) : (m.set k x).byte q = m.byte q := by
  induction m with
  | nil => simp only [Memory.set]; split <;> simp [Memory.byte, Ne.symm h]
  | cons a r ih =>
    obtain ⟨j, b⟩ := a
    simp only [Memory.set]
    split
    · simp [Memory.byte, ih]
    · split
      · rename_i e
        have : ¬ j = q := fun e' => h (e' ▸ e)
        split <;> simp [Memory.byte, this, Ne.symm h]
      · split
        · rfl
        · simp [Memory.byte, Ne.symm h]

theorem Memory.byte_setAll_ne (m : Memory) (l : List (Nat × Byte)) {q : Nat} (h : ∀ c ∈ l, c.1 ≠ q) :
    (m.setAll l).byte q = m.byte q := by
  induction l generalizing m with
  | nil => rfl
  | cons a r ih =>
    rw [Memory.setAll, ih _ fun c hc => h c (List.mem_cons_of_mem _ hc)]
    exact Memory.byte_set_ne _ _ (Ne.symm (h a (List.mem_cons_self ..)))

theorem mem_cellsAt {k : Nat} {l : List Byte} {c : Nat × Byte} (h : c ∈ cellsAt k l) : k ≤ c.1 ∧ c.1 < k + l.length := by
  induction l generalizing k with
  | nil => simp [cellsAt] at h
  | cons a r ih =>
    simp only [cellsAt, List.mem_cons] at h
    rcases h with rfl | h
    · simp
    · have := ih h
      simp only [List.length_cons]
      omega

/-- Bytes at rising keys read back. -/
theorem Memory.byte_setAll_cellsAt {m : Memory} (h : m.wf) (k : Nat) (l : List Byte) (i : Nat) (hi : i < l.length) :
    (m.setAll (cellsAt k l)).byte (k + i) = l[i] := by
  induction l generalizing m k i with
  | nil => simp at hi
  | cons b r ih =>
    simp only [cellsAt, Memory.setAll]
    cases i with
    | zero =>
      have : ∀ c ∈ cellsAt (k + 1) r, c.1 ≠ k := fun c hc => by have := mem_cellsAt hc; omega
      rw [show k + 0 = k from rfl, Memory.byte_setAll_ne _ _ this, Memory.byte_set_same h]
      rfl
    | succ j =>
      have := ih (Memory.wf_set h k b) (k + 1) j (by simpa using hi)
      rw [show k + (j + 1) = k + 1 + j by omega, this]
      rfl

/-! ### Little-endian numbers (R1) -/

@[simp] theorem length_toBytes (n x : Nat) : (toBytes n x).length = n := by
  induction n generalizing x with
  | zero => rfl
  | succ n ih => simp [toBytes, ih]

theorem ofBytes_toBytes (n x : Nat) : ofBytes (toBytes n x) = x % 256 ^ n := by
  induction n generalizing x with
  | zero => simp [toBytes, ofBytes, Nat.mod_one]
  | succ n ih =>
    have h : x % 256 ^ (n + 1) = x % 256 + 256 * (x / 256 % 256 ^ n) := by
      rw [Nat.pow_succ, Nat.mul_comm, Nat.mod_mul]
    rw [h]
    simp [toBytes, ofBytes, ih]

end Sys2Proof.Machine
end

