-- ==== Sys2Proof/Laws/Network.lean ====
section
/-! SUPPORT. What packets on their way and the caches they meet leave alone: a packet that is sent or moves changes no memory,
task, tile or device, and with none on its way a release, a drain and the settling of a path do nothing. -/

namespace Sys2Proof.Machine

/-- Two states that differ in no memory, task, tile or device: only the network, the L2 and what counts may differ. -/
structure State.SameWork (s t : State) : Prop where
  mem : t.mem = s.mem
  tasks : t.tasks = s.tasks
  tiles : t.tiles = s.tiles
  vds : t.vds = s.vds
  errored : t.errored = s.errored

theorem State.SameWork.refl (s : State) : s.SameWork s := ⟨rfl, rfl, rfl, rfl, rfl⟩
theorem State.SameWork.trans {s t u : State} (h : s.SameWork t) (k : t.SameWork u) : s.SameWork u :=
  ⟨k.mem.trans h.mem, k.tasks.trans h.tasks, k.tiles.trans h.tiles, k.vds.trans h.vds, k.errored.trans h.errored⟩

/-! ### Sending and moving (R229 to R242) -/

theorem State.send_same (s : State) (kind len src unit vd : Nat) (a x : Word) (g : Goal) (b : Packet) (o : OpField) :
    s.SameWork (s.send kind len src unit vd a x g b o) := ⟨rfl, rfl, rfl, rfl, rfl⟩
theorem State.message_same (s : State) (kind src vd : Nat) (x : Word) (g : Goal) (h : Nat) :
    s.SameWork (s.message kind src vd x g h) := s.send_same ..
theorem State.answer_same (s : State) (p : Pkt) (kind len : Nat) (x : Word) : s.SameWork (s.answer p kind len x) :=
  s.send_same ..
theorem State.traffic_same (s : State) (kind len answer vd id : Nat) (t : Place) (va : Nat) (x : Word) (g : Target)
    (o : OpField) (y : Word) : s.SameWork (s.traffic kind len answer vd id t va x g o y) := by
  unfold State.traffic
  split
  · exact s.send_same ..
  · exact .refl s

theorem State.moveTo_same (s : State) (k : Nat) (p : Pkt) (l : Loc) : s.SameWork (s.moveTo k p l) := by
  unfold State.moveTo
  cases p.loc <;> exact ⟨rfl, rfl, rfl, rfl, rfl⟩

/-- A move of a packet changes no memory, task, tile or device. -/
theorem State.hop_same (s : State) (k : Nat) : s.SameWork (s.hop k) := by
  unfold State.hop
  repeat' (first | exact .refl s | exact s.moveTo_same .. | exact ⟨rfl, rfl, rfl, rfl, rfl⟩ | dsimp only | split)

/-! ### Nothing on its way -/

/-- Packets that nothing matches stay where they are. -/
theorem State.flush_none {s : State} {f : Pkt → Bool} (h : s.packets.any f = false) : s.flush f = s := by
  simp [State.flush, h]
theorem State.flush_nil {s : State} (h : s.packets = []) (f : Pkt → Bool) : s.flush f = s := State.flush_none (by simp [h])
theorem State.drain_nil {s : State} {id : Nat} {t : Task} (ht : s.task? id = some t) (h : t.sbuf = []) : s.drain id = s := by
  simp [State.drain, ht, h]
theorem State.settlePath_nil {s : State} (h : s.packets = []) (tile id : Nat) (goal : Goal) (g : Target) (n : Nat) :
    s.settlePath tile id goal g n = s := by simp [State.settlePath, h]

/-- With an empty store buffer and nothing on its way a release does nothing (R200). -/
theorem State.release_idle {s : State} {id : Nat} {t : Task} (ht : s.task? id = some t) (hb : t.sbuf = [])
    (hp : s.packets = []) (c : Scope) : s.release id c = s := by
  cases c <;> simp [State.release, State.releaseStores, State.ackAll, State.landAll, State.drain_nil ht hb, State.flush_nil hp]

/-- Nothing of a task is held by a move while nothing of it waits. -/
theorem State.heldStores_idle {s : State} (id : Nat) (hp : s.packets = []) : s.heldStores id = false := by
  simp [State.heldStores, hp]

/-! ### The L2 (R174) -/

theorem State.writeBack_same (s : State) (x : L2Line) : s.SameWork (s.writeBack x) := by
  unfold State.writeBack
  split
  · exact .refl s
  · exact s.send_same ..
theorem State.l2Drop_same (s : State) (line : Nat) : s.SameWork (s.l2Drop line) := by
  unfold State.l2Drop
  split
  · rename_i x _
    have h := State.writeBack_same { s with l2 := s.l2.filter fun x => x.line ≠ line } x
    exact ⟨h.mem, h.tasks, h.tiles, h.vds, h.errored⟩
  · exact .refl s
theorem State.l2Alloc_same (s : State) (x : L2Line) : s.SameWork (s.l2Alloc x) := by
  unfold State.l2Alloc
  split
  · split
    · exact ⟨(s.l2Drop_same _).mem, (s.l2Drop_same _).tasks, (s.l2Drop_same _).tiles, (s.l2Drop_same _).vds,
        (s.l2Drop_same _).errored⟩
    · exact ⟨rfl, rfl, rfl, rfl, rfl⟩
  · exact ⟨rfl, rfl, rfl, rfl, rfl⟩
theorem State.l2Hit_same (s : State) (x : L2Line) (ret : Nat) : s.SameWork (s.l2Hit x ret) := by
  unfold State.l2Hit
  split <;> exact ⟨rfl, rfl, rfl, rfl, rfl⟩

/-- A demand access changes the L2 alone. -/
theorem State.l2Access_same (s : State) (a n ret : Nat) (store : Bool) : s.SameWork (s.l2Access a n ret store).1 := by
  simp only [State.l2Access]
  split
  · split <;> exact s.l2Hit_same ..
  · split
    · exact .refl s
    · exact s.l2Alloc_same _

/-- A demand access of a device leaves memory and tasks alone. -/
theorem State.l2Demand_mem (s : State) (vd tier a n ret : Nat) (store : Bool) :
    (s.l2Demand vd tier a n ret store).mem = s.mem ∧ (s.l2Demand vd tier a n ret store).tasks = s.tasks := by
  have h := s.l2Access_same a n ret store
  unfold State.l2Demand
  split
  · exact ⟨rfl, rfl⟩
  · simp only
    constructor <;> (split <;> split <;> simp [h.mem, h.tasks])

end Sys2Proof.Machine
end

