-- ==== Sys2Proof/Laws/PerInstr.lean ====
section
/-! SUPPORT. One lemma per constructor: an instruction that has an encoding is one word long, a tile command eight (R34,
R56). -/

namespace Sys2Proof.Laws.EncodingLength

def Statement (i : Instr) : Prop := encode i ≠ [] → (encode i).length = if i.isCommand then 8 else 1

theorem add x0 x1 x2 : Statement (.add x0 x1 x2) := fun _ => rfl
theorem addImm x0 x1 x2 : Statement (.addImm x0 x1 x2) := fun _ => rfl
theorem sub x0 x1 x2 : Statement (.sub x0 x1 x2) := fun _ => rfl
theorem mul x0 x1 x2 : Statement (.mul x0 x1 x2) := fun _ => rfl
theorem mulImm x0 x1 x2 : Statement (.mulImm x0 x1 x2) := fun _ => rfl
theorem mulh x0 x1 x2 : Statement (.mulh x0 x1 x2) := fun _ => rfl
theorem mulhu x0 x1 x2 : Statement (.mulhu x0 x1 x2) := fun _ => rfl
theorem div x0 x1 x2 : Statement (.div x0 x1 x2) := fun _ => rfl
theorem divu x0 x1 x2 : Statement (.divu x0 x1 x2) := fun _ => rfl
theorem rem x0 x1 x2 : Statement (.rem x0 x1 x2) := fun _ => rfl
theorem remu x0 x1 x2 : Statement (.remu x0 x1 x2) := fun _ => rfl
theorem and x0 x1 x2 : Statement (.and x0 x1 x2) := fun _ => rfl
theorem andImm x0 x1 x2 : Statement (.andImm x0 x1 x2) := fun _ => rfl
theorem or x0 x1 x2 : Statement (.or x0 x1 x2) := fun _ => rfl
theorem orImm x0 x1 x2 : Statement (.orImm x0 x1 x2) := fun _ => rfl
theorem xor x0 x1 x2 : Statement (.xor x0 x1 x2) := fun _ => rfl
theorem xorImm x0 x1 x2 : Statement (.xorImm x0 x1 x2) := fun _ => rfl
theorem shl x0 x1 x2 : Statement (.shl x0 x1 x2) := fun _ => rfl
theorem shr x0 x1 x2 : Statement (.shr x0 x1 x2) := fun _ => rfl
theorem sra x0 x1 x2 : Statement (.sra x0 x1 x2) := fun _ => rfl
theorem shlImm x0 x1 x2 : Statement (.shlImm x0 x1 x2) := fun _ => rfl
theorem shrImm x0 x1 x2 : Statement (.shrImm x0 x1 x2) := fun _ => rfl
theorem sraImm x0 x1 x2 : Statement (.sraImm x0 x1 x2) := fun _ => rfl
theorem slt x0 x1 x2 : Statement (.slt x0 x1 x2) := fun _ => rfl
theorem sltu x0 x1 x2 : Statement (.sltu x0 x1 x2) := fun _ => rfl
theorem sltImm x0 x1 x2 : Statement (.sltImm x0 x1 x2) := fun _ => rfl
theorem sltuImm x0 x1 x2 : Statement (.sltuImm x0 x1 x2) := fun _ => rfl
theorem min x0 x1 x2 : Statement (.min x0 x1 x2) := fun _ => rfl
theorem max x0 x1 x2 : Statement (.max x0 x1 x2) := fun _ => rfl
theorem minu x0 x1 x2 : Statement (.minu x0 x1 x2) := fun _ => rfl
theorem maxu x0 x1 x2 : Statement (.maxu x0 x1 x2) := fun _ => rfl
theorem minImm x0 x1 x2 : Statement (.minImm x0 x1 x2) := fun _ => rfl
theorem maxImm x0 x1 x2 : Statement (.maxImm x0 x1 x2) := fun _ => rfl
theorem minuImm x0 x1 x2 : Statement (.minuImm x0 x1 x2) := fun _ => rfl
theorem maxuImm x0 x1 x2 : Statement (.maxuImm x0 x1 x2) := fun _ => rfl
theorem clz x0 x1 : Statement (.clz x0 x1) := fun _ => rfl
theorem popc x0 x1 : Statement (.popc x0 x1) := fun _ => rfl
theorem ext x0 x1 x2 : Statement (.ext x0 x1 x2) := fun _ => rfl
theorem extImm x0 x1 x2 x3 x4 : Statement (.extImm x0 x1 x2 x3 x4) := fun _ => rfl
theorem lui x0 x1 : Statement (.lui x0 x1) := fun _ => rfl
theorem beq x0 x1 x2 : Statement (.beq x0 x1 x2) := fun _ => rfl
theorem bne x0 x1 x2 : Statement (.bne x0 x1 x2) := fun _ => rfl
theorem blt x0 x1 x2 : Statement (.blt x0 x1 x2) := fun _ => rfl
theorem bge x0 x1 x2 : Statement (.bge x0 x1 x2) := fun _ => rfl
theorem bltu x0 x1 x2 : Statement (.bltu x0 x1 x2) := fun _ => rfl
theorem bgeu x0 x1 x2 : Statement (.bgeu x0 x1 x2) := fun _ => rfl
theorem bmany x0 x1 : Statement (.bmany x0 x1) := fun _ => rfl
theorem bmnone x0 x1 : Statement (.bmnone x0 x1) := fun _ => rfl
theorem bmall x0 x1 : Statement (.bmall x0 x1) := fun _ => rfl
theorem jal x0 x1 : Statement (.jal x0 x1) := fun _ => rfl
theorem jalr x0 x1 x2 : Statement (.jalr x0 x1 x2) := fun _ => rfl
theorem ld x0 x1 x2 x3 x4 : Statement (.ld x0 x1 x2 x3 x4) := fun _ => rfl
theorem ldn x0 x1 x2 x3 x4 : Statement (.ldn x0 x1 x2 x3 x4) := fun _ => rfl
theorem st x0 x1 x2 x3 x4 : Statement (.st x0 x1 x2 x3 x4) := fun _ => rfl
theorem lda x0 x1 x2 x3 x4 : Statement (.lda x0 x1 x2 x3 x4) := fun _ => rfl
theorem stl x0 x1 x2 x3 x4 : Statement (.stl x0 x1 x2 x3 x4) := fun _ => rfl
theorem fence x0 x1 : Statement (.fence x0 x1) := fun _ => rfl
theorem cinv x0 : Statement (.cinv x0) := fun _ => rfl
theorem cinvAll : Statement (.cinvAll) := fun _ => rfl
theorem pf x0 x1 x2 x3 : Statement (.pf x0 x1 x2 x3) := fun _ => rfl
theorem amoAdd x0 x1 x2 x3 x4 x5 : Statement (.amoAdd x0 x1 x2 x3 x4 x5) := fun _ => rfl
theorem amoAnd x0 x1 x2 x3 x4 x5 : Statement (.amoAnd x0 x1 x2 x3 x4 x5) := fun _ => rfl
theorem amoOr x0 x1 x2 x3 x4 x5 : Statement (.amoOr x0 x1 x2 x3 x4 x5) := fun _ => rfl
theorem amoXor x0 x1 x2 x3 x4 x5 : Statement (.amoXor x0 x1 x2 x3 x4 x5) := fun _ => rfl
theorem amoMin x0 x1 x2 x3 x4 x5 : Statement (.amoMin x0 x1 x2 x3 x4 x5) := fun _ => rfl
theorem amoMax x0 x1 x2 x3 x4 x5 : Statement (.amoMax x0 x1 x2 x3 x4 x5) := fun _ => rfl
theorem amoMinn x0 x1 x2 x3 x4 x5 : Statement (.amoMinn x0 x1 x2 x3 x4 x5) := fun _ => rfl
theorem amoMaxn x0 x1 x2 x3 x4 x5 : Statement (.amoMaxn x0 x1 x2 x3 x4 x5) := fun _ => rfl
theorem amoSwap x0 x1 x2 x3 x4 x5 : Statement (.amoSwap x0 x1 x2 x3 x4 x5) := fun _ => rfl
theorem amocas x0 x1 x2 x3 x4 x5 : Statement (.amocas x0 x1 x2 x3 x4 x5) := fun _ => rfl
theorem mwait x0 x1 x2 x3 x4 : Statement (.mwait x0 x1 x2 x3 x4) := fun _ => rfl
theorem evwait x0 x1 : Statement (.evwait x0 x1) := fun _ => rfl
theorem evsig x0 x1 : Statement (.evsig x0 x1) := fun _ => rfl
theorem vadd x0 x1 x2 x3 x4 : Statement (.vadd x0 x1 x2 x3 x4) := fun _ => rfl
theorem vsub x0 x1 x2 x3 x4 : Statement (.vsub x0 x1 x2 x3 x4) := fun _ => rfl
theorem vmul x0 x1 x2 x3 x4 : Statement (.vmul x0 x1 x2 x3 x4) := fun _ => rfl
theorem vfma x0 x1 x2 x3 x4 : Statement (.vfma x0 x1 x2 x3 x4) := fun _ => rfl
theorem vmin x0 x1 x2 x3 x4 : Statement (.vmin x0 x1 x2 x3 x4) := fun _ => rfl
theorem vmax x0 x1 x2 x3 x4 : Statement (.vmax x0 x1 x2 x3 x4) := fun _ => rfl
theorem vabs x0 x1 x2 x3 : Statement (.vabs x0 x1 x2 x3) := fun _ => rfl
theorem vneg x0 x1 x2 x3 : Statement (.vneg x0 x1 x2 x3) := fun _ => rfl
theorem vand x0 x1 x2 x3 x4 : Statement (.vand x0 x1 x2 x3 x4) := fun _ => rfl
theorem vor x0 x1 x2 x3 x4 : Statement (.vor x0 x1 x2 x3 x4) := fun _ => rfl
theorem vxor x0 x1 x2 x3 x4 : Statement (.vxor x0 x1 x2 x3 x4) := fun _ => rfl
theorem vshl x0 x1 x2 x3 x4 : Statement (.vshl x0 x1 x2 x3 x4) := fun _ => rfl
theorem vshr x0 x1 x2 x3 x4 : Statement (.vshr x0 x1 x2 x3 x4) := fun _ => rfl
theorem vsra x0 x1 x2 x3 x4 : Statement (.vsra x0 x1 x2 x3 x4) := fun _ => rfl
theorem vcmp x0 x1 x2 x3 x4 x5 : Statement (.vcmp x0 x1 x2 x3 x4 x5) := fun _ => rfl
theorem vsel x0 x1 x2 x3 x4 : Statement (.vsel x0 x1 x2 x3 x4) := fun _ => rfl
theorem vaddSat x0 x1 x2 x3 x4 : Statement (.vaddSat x0 x1 x2 x3 x4) := fun _ => rfl
theorem vsubSat x0 x1 x2 x3 x4 : Statement (.vsubSat x0 x1 x2 x3 x4) := fun _ => rfl
theorem vred x0 x1 x2 x3 x4 : Statement (.vred x0 x1 x2 x3 x4) := fun _ => rfl
theorem vscan x0 x1 x2 x3 x4 : Statement (.vscan x0 x1 x2 x3 x4) := fun _ => rfl
theorem vcvt x0 x1 x2 x3 x4 : Statement (.vcvt x0 x1 x2 x3 x4) := fun _ => rfl
theorem vdec x0 x1 x2 x3 x4 : Statement (.vdec x0 x1 x2 x3 x4) := fun _ => rfl
theorem venc x0 x1 x2 x3 x4 : Statement (.venc x0 x1 x2 x3 x4) := fun _ => rfl
theorem vrcp x0 x1 x2 x3 : Statement (.vrcp x0 x1 x2 x3) := fun _ => rfl
theorem vrsq x0 x1 x2 x3 : Statement (.vrsq x0 x1 x2 x3) := fun _ => rfl
theorem vexp2 x0 x1 x2 x3 : Statement (.vexp2 x0 x1 x2 x3) := fun _ => rfl
theorem vlog2 x0 x1 x2 x3 : Statement (.vlog2 x0 x1 x2 x3) := fun _ => rfl
theorem vbcast x0 x1 x2 x3 : Statement (.vbcast x0 x1 x2 x3) := fun _ => rfl
theorem vmovs x0 x1 x2 x3 : Statement (.vmovs x0 x1 x2 x3) := fun _ => rfl
theorem vperm x0 x1 x2 x3 x4 : Statement (.vperm x0 x1 x2 x3 x4) := fun _ => rfl
theorem vslide x0 x1 x2 x3 x4 : Statement (.vslide x0 x1 x2 x3 x4) := fun _ => rfl
theorem viota x0 x1 x2 : Statement (.viota x0 x1 x2) := fun _ => rfl
theorem vld x0 x1 x2 x3 x4 : Statement (.vld x0 x1 x2 x3 x4) := fun _ => rfl
theorem vst x0 x1 x2 x3 x4 : Statement (.vst x0 x1 x2 x3 x4) := fun _ => rfl
theorem vldx x0 x1 x2 x3 x4 : Statement (.vldx x0 x1 x2 x3 x4) := fun _ => rfl
theorem vstx x0 x1 x2 x3 x4 : Statement (.vstx x0 x1 x2 x3 x4) := fun _ => rfl
theorem vrep x0 x1 x2 : Statement (.vrep x0 x1 x2) := fun _ => rfl
theorem mset x0 x1 : Statement (.mset x0 x1) := fun _ => rfl
theorem mand x0 x1 x2 : Statement (.mand x0 x1 x2) := fun _ => rfl
theorem mor x0 x1 x2 : Statement (.mor x0 x1 x2) := fun _ => rfl
theorem mxor x0 x1 x2 : Statement (.mxor x0 x1 x2) := fun _ => rfl
theorem mnot x0 x1 : Statement (.mnot x0 x1) := fun _ => rfl
theorem mpopc x0 x1 : Statement (.mpopc x0 x1) := fun _ => rfl
theorem mfirst x0 x1 : Statement (.mfirst x0 x1) := fun _ => rfl
theorem spawn x0 x1 x2 : Statement (.spawn x0 x1 x2) := fun _ => rfl
theorem spawnPass x0 x1 x2 x3 : Statement (.spawnPass x0 x1 x2 x3) := fun _ => rfl
theorem gang x0 x1 : Statement (.gang x0 x1) := fun _ => rfl
theorem fork x0 x1 x2 : Statement (.fork x0 x1 x2) := fun _ => rfl
theorem fwait x0 x1 x2 : Statement (.fwait x0 x1 x2) := fun _ => rfl
theorem ftest x0 x1 : Statement (.ftest x0 x1) := fun _ => rfl
theorem fcancel x0 : Statement (.fcancel x0) := fun _ => rfl
theorem fref x0 x1 : Statement (.fref x0 x1) := fun _ => rfl
theorem fdrop x0 : Statement (.fdrop x0) := fun _ => rfl
theorem fpin x0 x1 : Statement (.fpin x0 x1) := fun _ => rfl
theorem ftake x0 x1 : Statement (.ftake x0 x1) := fun _ => rfl
theorem fdone x0 : Statement (.fdone x0) := fun _ => rfl
theorem depdec x0 : Statement (.depdec x0) := fun _ => rfl
theorem depdecMem x0 : Statement (.depdecMem x0) := fun _ => rfl
theorem rpoint : Statement (.rpoint) := fun _ => rfl
theorem self x0 : Statement (.self x0) := fun _ => rfl
theorem exit x0 : Statement (.exit x0) := fun _ => rfl
theorem yield : Statement (.yield) := fun _ => rfl
theorem gjoin x0 : Statement (.gjoin x0) := fun _ => rfl
theorem gleave x0 : Statement (.gleave x0) := fun _ => rfl
theorem gbar x0 x1 : Statement (.gbar x0 x1) := fun _ => rfl
theorem garrive x0 : Statement (.garrive x0) := fun _ => rfl
theorem xput x0 x1 : Statement (.xput x0 x1) := fun _ => rfl
theorem qnew x0 x1 : Statement (.qnew x0 x1) := fun _ => rfl
theorem qfree x0 : Statement (.qfree x0) := fun _ => rfl
theorem qbind x0 x1 : Statement (.qbind x0 x1) := fun _ => rfl
theorem qpush x0 x1 : Statement (.qpush x0 x1) := fun _ => rfl
theorem qpop x0 x1 : Statement (.qpop x0 x1) := fun _ => rfl
theorem qenq x0 x1 x2 : Statement (.qenq x0 x1 x2) := fun _ => rfl
theorem qlen x0 x1 : Statement (.qlen x0 x1) := fun _ => rfl
theorem lease x0 x1 : Statement (.lease x0 x1) := fun _ => rfl
theorem unlease x0 : Statement (.unlease x0) := fun _ => rfl
theorem rack x0 : Statement (.rack x0) := fun _ => rfl
theorem rlook x0 x1 : Statement (.rlook x0 x1) := fun _ => rfl
theorem snapopen x0 : Statement (.snapopen x0) := fun _ => rfl
theorem snapcommit x0 : Statement (.snapcommit x0) := fun _ => rfl
theorem snaproll x0 x1 : Statement (.snaproll x0 x1) := fun _ => rfl
theorem srrd x0 x1 : Statement (.srrd x0 x1) := fun _ => rfl
theorem srwr x0 x1 : Statement (.srwr x0 x1) := fun _ => rfl
theorem trap x0 : Statement (.trap x0) := fun _ => rfl
theorem brk x0 : Statement (.brk x0) := fun _ => rfl
theorem eret : Statement (.eret) := fun _ => rfl
theorem tinv x0 : Statement (.tinv x0) := fun _ => rfl
theorem tinvAll : Statement (.tinvAll) := fun _ => rfl
theorem sleep x0 : Statement (.sleep x0) := fun _ => rfl
theorem mma x0 x1 x2 x3 x4 : Statement (.mma x0 x1 x2 x3 x4) := fun _ => rfl
theorem mmas x0 x1 x2 x3 x4 : Statement (.mmas x0 x1 x2 x3 x4) := fun _ => rfl
theorem accz x0 x1 : Statement (.accz x0 x1) := fun _ => rfl
theorem accld x0 x1 x2 : Statement (.accld x0 x1 x2) := fun _ => rfl
theorem accst x0 x1 x2 x3 x4 x5 : Statement (.accst x0 x1 x2 x3 x4 x5) := fun _ => rfl
theorem tabld x0 x1 x2 : Statement (.tabld x0 x1 x2) := fun _ => rfl
theorem tcopy x0 x1 x2 x3 : Statement (.tcopy x0 x1 x2 x3) := fun _ => rfl
theorem tfill x0 x1 x2 x3 : Statement (.tfill x0 x1 x2 x3) := fun _ => rfl
theorem tgather x0 x1 x2 x3 x4 : Statement (.tgather x0 x1 x2 x3 x4) := fun _ => rfl
theorem tscatter x0 x1 x2 x3 x4 : Statement (.tscatter x0 x1 x2 x3 x4) := fun _ => rfl
theorem txchg x0 x1 x2 : Statement (.txchg x0 x1 x2) := fun _ => rfl
theorem tsub x0 x1 x2 x3 x4 : Statement (.tsub x0 x1 x2 x3 x4) := fun _ => rfl
theorem tunsub x0 x1 : Statement (.tunsub x0 x1) := fun _ => rfl
theorem qfence x0 x1 x2 : Statement (.qfence x0 x1 x2) := fun _ => rfl
theorem dispatch x0 : Statement (.dispatch x0) := fun h => absurd rfl h
theorem workSteal x0 : Statement (.workSteal x0) := fun h => absurd rfl h
theorem timeSliceExpiry x0 : Statement (.timeSliceExpiry x0) := fun h => absurd rfl h
theorem preemption x0 : Statement (.preemption x0) := fun h => absurd rfl h
theorem saveTransferComplete x0 : Statement (.saveTransferComplete x0) := fun h => absurd rfl h
theorem aging x0 : Statement (.aging x0) := fun h => absurd rfl h
theorem dispatchCountHalving x0 : Statement (.dispatchCountHalving x0) := fun h => absurd rfl h
theorem storeBufferDrain x0 x1 : Statement (.storeBufferDrain x0 x1) := fun h => absurd rfl h
theorem vectorLaneBind x0 x1 : Statement (.vectorLaneBind x0 x1) := fun h => absurd rfl h
theorem vectorRetire x0 x1 : Statement (.vectorRetire x0 x1) := fun h => absurd rfl h
theorem laneCountHalving x0 : Statement (.laneCountHalving x0) := fun h => absurd rfl h
theorem engineCommandStart x0 x1 : Statement (.engineCommandStart x0 x1) := fun h => absurd rfl h
theorem engineCommandComplete x0 x1 x2 : Statement (.engineCommandComplete x0 x1 x2) := fun h => absurd rfl h
theorem gangPlacement x0 : Statement (.gangPlacement x0) := fun h => absurd rfl h
theorem doomedFlagDelivery x0 : Statement (.doomedFlagDelivery x0) := fun h => absurd rfl h
theorem reclaim x0 : Statement (.reclaim x0) := fun h => absurd rfl h
theorem barrierFire x0 x1 : Statement (.barrierFire x0 x1) := fun h => absurd rfl h
theorem xputLanding x0 : Statement (.xputLanding x0) := fun h => absurd rfl h
theorem censusSample : Statement (.censusSample) := fun h => absurd rfl h
theorem censusEpoch : Statement (.censusEpoch) := fun h => absurd rfl h
theorem notice x0 : Statement (.notice x0) := fun h => absurd rfl h
theorem tideDrain : Statement (.tideDrain) := fun h => absurd rfl h
theorem tideDrainEnd : Statement (.tideDrainEnd) := fun h => absurd rfl h
theorem roleMoveComplete x0 x1 : Statement (.roleMoveComplete x0 x1) := fun h => absurd rfl h
theorem forward x0 : Statement (.forward x0) := fun h => absurd rfl h
theorem tileFailingMark x0 : Statement (.tileFailingMark x0) := fun h => absurd rfl h
theorem tileFailure x0 : Statement (.tileFailure x0) := fun h => absurd rfl h
theorem injectionStarvation x0 x1 : Statement (.injectionStarvation x0 x1) := fun h => absurd rfl h
theorem berthFillStart x0 x1 : Statement (.berthFillStart x0 x1) := fun h => absurd rfl h
theorem berthFillComplete x0 x1 : Statement (.berthFillComplete x0 x1) := fun h => absurd rfl h
theorem berthDrain x0 x1 x2 : Statement (.berthDrain x0 x1 x2) := fun h => absurd rfl h
theorem heldPushAccept x0 x1 x2 : Statement (.heldPushAccept x0 x1 x2) := fun h => absurd rfl h
theorem remoteEnqueueArrival x0 x1 x2 x3 : Statement (.remoteEnqueueArrival x0 x1 x2 x3) := fun h => absurd rfl h
theorem enqueueReply x0 x1 : Statement (.enqueueReply x0 x1) := fun h => absurd rfl h
theorem eventArrival x0 : Statement (.eventArrival x0) := fun h => absurd rfl h
theorem txchgMessageArrival x0 : Statement (.txchgMessageArrival x0) := fun h => absurd rfl h
theorem faultRecordDeferred x0 : Statement (.faultRecordDeferred x0) := fun h => absurd rfl h
theorem idleCollapse x0 : Statement (.idleCollapse x0) := fun h => absurd rfl h
theorem collapseComplete x0 : Statement (.collapseComplete x0) := fun h => absurd rfl h
theorem wake x0 x1 : Statement (.wake x0 x1) := fun h => absurd rfl h
theorem wakeComplete x0 : Statement (.wakeComplete x0) := fun h => absurd rfl h
theorem waketime x0 x1 : Statement (.waketime x0 x1) := fun h => absurd rfl h
theorem waketimeExpiry x0 : Statement (.waketimeExpiry x0) := fun h => absurd rfl h
theorem idlectl x0 x1 : Statement (.idlectl x0 x1) := fun h => absurd rfl h
theorem sleepExpiry x0 : Statement (.sleepExpiry x0) := fun h => absurd rfl h
theorem powerInterval x0 : Statement (.powerInterval x0) := fun h => absurd rfl h
theorem currentSample x0 x1 : Statement (.currentSample x0 x1) := fun h => absurd rfl h
theorem budget x0 x1 : Statement (.budget x0 x1) := fun h => absurd rfl h
theorem pctl x0 x1 : Statement (.pctl x0 x1) := fun h => absurd rfl h
theorem dieCtl x0 x1 : Statement (.dieCtl x0 x1) := fun h => absurd rfl h
theorem throttle x0 x1 : Statement (.throttle x0 x1) := fun h => absurd rfl h
theorem teleper x0 x1 : Statement (.teleper x0 x1) := fun h => absurd rfl h
theorem sensorRecalibration x0 x1 : Statement (.sensorRecalibration x0 x1) := fun h => absurd rfl h
theorem semClaim x0 x1 : Statement (.semClaim x0 x1) := fun h => absurd rfl h
theorem semFree x0 x1 : Statement (.semFree x0 x1) := fun h => absurd rfl h
theorem hostLinkDown x0 : Statement (.hostLinkDown x0) := fun h => absurd rfl h
theorem create x0 x1 x2 : Statement (.create x0 x1 x2) := fun h => absurd rfl h
theorem destroy x0 x1 x2 : Statement (.destroy x0 x1 x2) := fun h => absurd rfl h
theorem hostRegionWrite x0 x1 x2 x3 : Statement (.hostRegionWrite x0 x1 x2 x3) := fun h => absurd rfl h
theorem cxlMemAccess x0 : Statement (.cxlMemAccess x0) := fun h => absurd rfl h
theorem peerLinkTimeout x0 : Statement (.peerLinkTimeout x0) := fun h => absurd rfl h
theorem pseudoChannelRetirement x0 : Statement (.pseudoChannelRetirement x0) := fun h => absurd rfl h
theorem boot x0 x1 : Statement (.boot x0 x1) := fun h => absurd rfl h
theorem liveUpdate x0 x1 : Statement (.liveUpdate x0 x1) := fun h => absurd rfl h
theorem peerAccessArrival x0 : Statement (.peerAccessArrival x0) := fun h => absurd rfl h
theorem hdmDecoderCommit x0 : Statement (.hdmDecoderCommit x0) := fun h => absurd rfl h
theorem noticeRecordDeferred x0 : Statement (.noticeRecordDeferred x0) := fun h => absurd rfl h
theorem apertureTableWrite x0 x1 x2 : Statement (.apertureTableWrite x0 x1 x2) := fun h => absurd rfl h
theorem freeze : Statement (.freeze) := fun h => absurd rfl h
theorem unfreeze : Statement (.unfreeze) := fun h => absurd rfl h
theorem getVersion : Statement (.getVersion) := fun h => absurd rfl h
theorem getCapabilities : Statement (.getCapabilities) := fun h => absurd rfl h
theorem negotiateAlgorithms : Statement (.negotiateAlgorithms) := fun h => absurd rfl h
theorem getDigests : Statement (.getDigests) := fun h => absurd rfl h
theorem getCertificate : Statement (.getCertificate) := fun h => absurd rfl h
theorem getMeasurements : Statement (.getMeasurements) := fun h => absurd rfl h
theorem commandDone : Statement (.commandDone) := fun h => absurd rfl h

end Sys2Proof.Laws.EncodingLength
end

