-- ==== Sys2Proof/Laws/Run.lean ====
section
/-! SUPPORT. How an instruction of a thread ends: the pops of its source ports, its body, its destinations. The lemmas
`run_next`, `run_trap` and `run_stop` say once what `run` can do; those of one instruction cite them. -/

namespace Sys2Proof.Machine

/-! ### The monad -/

@[simp] theorem act_pure {α : Type} (a : α) (s : State) : (pure a : Act α) s = .ok (a, s) := rfl
@[simp] theorem act_bind {α β : Type} (m : Act α) (f : α → Act β) (s : State) :
    (m >>= f) s = match m s with
      | .ok (a, s') => f a s'
      | .error e => .error e := by
  simp only [Bind.bind, StateT.bind, Except.bind]
  cases h : m s <;> simp_all
@[simp] theorem act_map {α β : Type} (f : α → β) (m : Act α) (s : State) :
    (f <$> m) s = match m s with
      | .ok (a, s') => .ok (f a, s')
      | .error e => .error e := by
  simp only [Functor.map, StateT.map, Bind.bind, Except.bind, Pure.pure, Except.pure]
  cases h : m s <;> simp_all
@[simp] theorem act_get (s : State) : (get : Act State) s = .ok (s, s) := rfl
@[simp] theorem act_set (s s' : State) : (set s' : Act PUnit) s = .ok (⟨⟩, s') := rfl
@[simp] theorem act_modify (f : State → State) (s : State) : (modify f : Act PUnit) s = .ok (⟨⟩, f s) := rfl
@[simp] theorem act_throw {α : Type} (e : Stop) (s : State) : (throw e : Act α) s = .error e := rfl
@[simp] theorem act_trap {α : Type} (c : Nat) (v : Word) (s : State) : (trap c v : Act α) s = .error (.trap c v 0) := rfl
@[simp] theorem act_parkOn {α : Type} (w : Wait) (s : State) : (parkOn w : Act α) s = .error (.park w s) := rfl
@[simp] theorem act_holdHere {α : Type} (s : State) : (holdHere : Act α) s = .error .hold := rfl

/-! ### Sources -/

/-- Ports that hold their latches are not popped again (R340). -/
theorem popPort_latched {s : State} {id n : Nat} {t : Task} (ht : s.task? id = some t)
    (h : (t.ctx.port n).latch.isSome = true) : popPort s id n = (s, none) := by
  obtain ⟨x, hx⟩ := Option.isSome_iff_exists.1 h
  simp [popPort, ht, hx]

theorem popAll_latched {s : State} {id : Nat} {t : Task} (ht : s.task? id = some t) (l : List GReg)
    (h : t.ctx.latched l) : popAll s id l = (s, none) := by
  induction l with
  | nil => rfl
  | cons r l ih =>
    have ih := ih fun q hq => h q (List.mem_cons_of_mem _ hq)
    unfold popAll
    split
    · rename_i hp
      rw [popPort_latched ht (h r (List.mem_cons_self ..) hp)]
      exact ih
    · exact ih

/-! ### Destinations -/

theorem put_put {κ α : Type} [DecidableEq κ] (l : List (κ × α)) (q : κ) (x y : α) :
    put (put l q x) q y = put l q y := by
  induction l with
  | nil => simp [put]
  | cons p r ih => by_cases h : p.1 = q <;> simp [put, h, ih]

@[simp] theorem State.setTask_setTask (s : State) (n : Nat) (x y : Task) :
    (s.setTask n x).setTask n y = s.setTask n y := by
  simp [State.setTask, put_put]

theorem State.modTask_modTask (s : State) (n : Nat) (f g : Task → Task) :
    (s.modTask n f).modTask n g = s.modTask n fun t => g (f t) := by
  cases h : s.task? n with
  | none => simp [State.modTask, h]
  | some t =>
    rw [State.modTask_of h, State.modTask_of (t := f t) (by simp), State.setTask_setTask, State.modTask_of h]

/-- A destination that is no port takes its value; nothing else changes. -/
theorem writeDest_plain (s : State) (id : Nat) {d : GReg} (hd : d.isPort = false) (x : Word) :
    writeDest id d x s = .ok (none, s.modTask id fun t => { t with ctx := t.ctx.setG d x }) := by
  cases ht : s.task? id with
  | none => simp [writeDest, ht, State.modTask]
  | some t => simp [writeDest, ht, hd, State.modTask_of ht]

theorem put_look {κ α : Type} [DecidableEq κ] {l : List (κ × α)} {q : κ} {x : α} (h : look l q = some x) :
    put l q x = l := by
  induction l with
  | nil => simp at h
  | cons p r ih =>
    obtain ⟨k, y⟩ := p
    by_cases hp : k = q
    · simp only [look, hp, if_true, Option.some.injEq] at h
      simp only [put, hp, if_true, h]
    · simp only [look, hp, if_false] at h
      simp only [put, hp, if_false, ih h]

@[simp] theorem State.modTask_id (s : State) (n : Nat) : s.modTask n (fun t => t) = s := by
  unfold State.modTask
  split
  · rename_i x h
    simp only [State.setTask, put_look h]
  · rfl

theorem writeDests_plain (s : State) (id : Nat) (l : List (GReg × Word)) (hl : ∀ p ∈ l, p.1.isPort = false) :
    writeDests id l s = .ok ([], s.modTask id fun t => { t with ctx := t.ctx.writes l }) := by
  induction l generalizing s with
  | nil =>
    show Except.ok ([], s) = _
    rw [show (fun t : Task => { t with ctx := t.ctx.writes [] }) = fun t => t from rfl, State.modTask_id]
  | cons p r ih =>
    obtain ⟨d, x⟩ := p
    have hd := hl (d, x) (List.mem_cons_self ..)
    have hr := ih (s.modTask id fun t => { t with ctx := t.ctx.setG d x }) fun q hq => hl q (List.mem_cons_of_mem _ hq)
    simp only [writeDests, act_bind, writeDest_plain s id hd, hr, act_pure, State.modTask_modTask, Ctx.writes]
    rfl

/-! ### An instruction -/

/-- What `run` does for a thread that issues its instruction. -/
theorem run_issues {i : Instr} {body : Nat → Task → List Word → Act Done} {s : State} {id : Nat} {t : Task}
    (h : s.issues i id t) :
    run i body s = settleTurn s id s.cur ((do
      let d ← body id t (i.sources.map t.ctx.src)
      complete i id t d (Done.next i d) : Act Unit) s) := by
  obtain ⟨⟨hr, ht⟩, ⟨hp, hv⟩, hl, hq, hs, hk⟩ := h
  have hp' : (t.delivered && Instr.isPoint i) = false := by
    cases h1 : t.delivered <;> cases h2 : Instr.isPoint i <;> simp_all
  simp only [run, hr, runAs, hp', hv, hk, Option.isSome_none, popAll_latched ht _ hl, ht, Option.getD_some, hq, hs,
    Bool.and_false, Bool.or_self, Bool.false_eq_true, if_false]

/-- Every destination is due where no push has been refused. -/
theorem dests_due (l : List (GReg × Word)) : (l.filter fun x => GReg.isDue x.1 none) = l := by
  simp [GReg.isDue]

theorem clearLatches_pc (c : Ctx) (l : List GReg) : (c.clearLatches l).pc = c.pc := by
  unfold Ctx.clearLatches
  induction l generalizing c with
  | nil => rfl
  | cons r l ih =>
    rw [List.foldl_cons, ih]
    split <;> rfl

/-- What `run` does when its body answers: the pc, the latches and the destinations, and nothing else. -/
theorem run_next {i : Instr} {body : Nat → Task → List Word → Act Done} {s s1 : State} {id : Nat} {t : Task}
    {d : Done} (h : s.issues i id t) (hb : body id t (i.sources.map t.ctx.src) s = .ok (d, s1))
    (hd : ∀ r ∈ i.dests, r.isPort = false) :
    run i body s = .next (s1.modTask id fun t =>
      { t.unkeep with ctx := (Done.next i d (t.ctx.clearLatches i.sources)).writes (i.dests.zip d.vals),
                      woke := none, fault := none }) := by
  have hw := writeDests_plain (s1.modTask id fun t =>
    { t.unkeep with ctx := Done.next i d (t.ctx.clearLatches i.sources), woke := none, fault := none }) id (i.dests.zip d.vals)
    fun p hp => hd p.1 (List.of_mem_zip hp).1
  rw [run_issues h]
  simp only [act_bind, hb, complete, act_modify, dests_due, hw, State.modTask_modTask, act_pure, settleTurn, Stop.traps, settle,
    Bool.false_and, Bool.false_eq_true, if_false]

/-- The same, where the next instruction is the next in memory. -/
theorem run_wrote {i : Instr} {body : Nat → Task → List Word → Act Done} {s s1 : State} {id : Nat} {t : Task}
    {v : List Word} (h : s.issues i id t)
    (hb : body id t (i.sources.map t.ctx.src) s = .ok ({ vals := v }, s1)) (hd : ∀ r ∈ i.dests, r.isPort = false) :
    run i body s = .next (s1.wrote id i fun c => c.writes (i.dests.zip v)) := by
  rw [run_next h hb hd]
  simp [State.wrote, Done.next, nextPc, clearLatches_pc]

/-- The same, where the body gives the next pc. -/
theorem run_jumped {i : Instr} {body : Nat → Task → List Word → Act Done} {s s1 : State} {id : Nat} {t : Task}
    {v : List Word} {pc : Word} (h : s.issues i id t)
    (hb : body id t (i.sources.map t.ctx.src) s = .ok ({ vals := v, pc := some pc }, s1))
    (hd : ∀ r ∈ i.dests, r.isPort = false) :
    run i body s = .next (s1.wrote id i fun c => { c with pc := pc }.writes (i.dests.zip v)) := by
  rw [run_next h hb hd]
  simp [State.wrote, Done.next]

/-- The result of a computation of two sources. -/
theorem compute2_wrote {i : Instr} {f : Word → Word → Word} {s : State} {id : Nat} {t : Task} {d a b : GReg}
    (h : s.issues i id t) (hd : i.dests = [d]) (hs : i.sources = [a, b]) (hp : d.isPort = false) :
    compute2 i f s = .next (s.wrote id i fun c => c.setG d (f (t.ctx.src a) (t.ctx.src b))) := by
  have := run_wrote (body := fun _ _ v => pure { vals := [f (v.getD 0 0) (v.getD 1 0)] }) (s1 := s)
    (v := [f (t.ctx.src a) (t.ctx.src b)]) h (by simp [hs]) (by simp [hd, hp])
  simpa [compute2, compute, hd, Ctx.writes] using this

/-- The result of a computation of one source. -/
theorem compute1_wrote {i : Instr} {f : Word → Word} {s : State} {id : Nat} {t : Task} {d a : GReg}
    (h : s.issues i id t) (hd : i.dests = [d]) (hs : i.sources = [a]) (hp : d.isPort = false) :
    compute1 i f s = .next (s.wrote id i fun c => c.setG d (f (t.ctx.src a))) := by
  have := run_wrote (body := fun _ _ v => pure { vals := [f (v.getD 0 0)] }) (s1 := s)
    (v := [f (t.ctx.src a)]) h (by simp [hs]) (by simp [hd, hp])
  simpa [compute1, compute, hd, Ctx.writes] using this

/-- What `run` does when its body traps: the exception is taken. -/
theorem run_trap {i : Instr} {body : Nat → Task → List Word → Act Done} {s : State} {id : Nat} {t : Task}
    {c k : Nat} {v : Word} (h : s.issues i id t)
    (hb : body id t (i.sources.map t.ctx.src) s = .error (.trap c v k)) :
    run i body s = .next (s.takeTrap id c v k) := by
  have hs := h.2.2.2.2.1
  have hw : s.trapWaits id = false := by
    simp only [State.trapWaits, hs, Bool.false_and]
    cases s.task? id <;> rfl
  rw [run_issues h]
  simp only [act_bind, hb, settleTurn, Stop.traps, hw, settle, Bool.and_false, Bool.false_eq_true, if_false]

/-- What `run` does when its body ends the instruction by itself. -/
theorem run_over {i : Instr} {body : Nat → Task → List Word → Act Done} {s s1 : State} {id : Nat} {t : Task}
    (h : s.issues i id t) (hb : body id t (i.sources.map t.ctx.src) s = .error (.over s1)) :
    run i body s = .next s1 := by
  rw [run_issues h]
  simp only [act_bind, hb, settleTurn, Stop.traps, settle, Bool.false_and, Bool.false_eq_true, if_false]

/-- What `run` does when its body parks the task. -/
theorem run_park {i : Instr} {body : Nat → Task → List Word → Act Done} {s s1 : State} {id : Nat} {t t1 : Task}
    {w : Wait} (h : s.issues i id t) (hb : body id t (i.sources.map t.ctx.src) s = .error (.park w s1))
    (h1 : s1.task? id = some t1) (hd : t1.delivered = false) :
    run i body s = .next (s1.park id w) := by
  rw [run_issues h]
  simp only [act_bind, hb, settleTurn, Stop.traps, settle, h1, hd, Bool.false_and, Bool.false_eq_true, if_false]

end Sys2Proof.Machine
end

