-- ==== Sys2Proof/Tests/Slice0.lean ====
section
/-! SUPPORT. Tests: an ill-formed term for each check of WellFormed, words of the spec's encodings, one step of single
instructions on small states, and for each statement of Certificates/Slice0 states that meet its hypotheses. -/

set_option Elab.async false

namespace Sys2Proof.Tests

open Machine

/-! ### The states of the tests -/

/-- One device, one task on tile 0, core 0, thread 0, code at 0x200000. -/
def start : State := { State.reset.withFetchWord 32 0 with agenda := [] }

/-- The task numbered n. -/
def tk (s : State) (n : Nat := 0) : Machine.Task := (s.task? n).getD { vd := 0, ident := .ordinary 0 }

/-- Registers with a different value in each. -/
def regs : Ctx := {
  pc := 0x200010
  g := Vector.ofFn fun i => BitVec.ofNat 64 (i.val * 0x1234567 + 3)
  m := Vector.ofFn fun i => BitVec.ofNat 32 (i.val * 0x51234567 + 3)
  v := Vector.ofFn fun i => BitVec.ofNat 256 (i.val * 0x123456789abcdef123456789abcdef3f800000123456789abcdef + 3) }

def setg (s : State) (l : List (Nat × Nat)) : State := s.modTask 0 fun t =>
  { t with ctx := l.foldl (fun c x => c.setG (BitVec.ofNat 5 x.1) (BitVec.ofNat 64 x.2)) t.ctx }
def seth (s : State) (l : List (Nat × Word)) : State := s.modTask 0 fun t =>
  { t with ctx := l.foldl (fun c x => c.setH (BitVec.ofNat 4 x.1) x.2) t.ctx }
def fill (s : State) (a : Nat) (l : List Nat) : State :=
  { s with mem := s.mem.setAll (cellsAt a (l.flatMap (toBytes 8))) }

/-- The device with tiles in each role, futures of several kinds, queues and groups, and a second task. -/
def device (s : State) : State :=
  let s := s.modVd 0 fun v => { v with
    tileQuota := 8, futQuota := 256, futBase := 0x300000, ctxBase := 0x400000, noticeRing := 0x500000,
    faultRing := 0x600000, regionTable := 0x200800
    rolemap := [(0, { gen := 1, role := 1, phys := 0 }), (1, { gen := 2, role := 2, phys := 17 }),
      (2, { gen := 3, role := 3, phys := 2 }), (3, {}), (4, { gen := 1, role := 1, phys := 1 }),
      (5, { gen := 1, role := 2, phys := 18, backed := true }),
      (6, { gen := 1, role := 1, phys := 70, state := 1, newrole := 2, notice := some ⟨1, 0, 100, false, true⟩ }),
      (7, { gen := 1, role := 1, phys := 71, state := 1, newrole := 2, notice := some ⟨3, 0, 100, false, true⟩ }),
      (8, { gen := 1, role := 1, phys := 72, lease := 3, owner := some 0 })]
    futs := [(0, { kind := 1, gen := 5, state := 3, reach := 2, ran := true }),
      (1, { kind := 1, gen := 7, state := 1, reach := 3, dep := 2 }),
      (2, { kind := 1, gen := 9, state := 5, reach := 4, result := 77 }),
      (3, { kind := 1, gen := 2, state := 7, reach := 4, cause := 3 }),
      (4, { kind := 4, gen := 2, state := 3, reach := 2, left := 2, made := 2 }),
      (5, { kind := 2, gen := 2, state := 2, reach := 2 })]
    queues := [((1, 0), { prio := false, entries := [11, 22, 33] }), ((1, 1), { prio := false }),
      ((1, 2), { prio := true, entries := [4, 5] })]
    groups := [(3, { members := [(0, 0)] }), (4, { members := [(0, 0), (1, 0)] }),
      (5, { members := [(0, 0), (1, 0)], arrived := [(0, 0)] })]
    pending := [(0, 0x30)] }
  let s := s.setTile 1 { owner := some (0, 4), role := 1, dark := false }
  let s := s.setTile 17 { owner := some (0, 1), role := 2, dark := false }
  let s := s.setTile 2 { owner := some (0, 2), role := 3, dark := false }
  let s := s.setTile 70 { owner := some (0, 6), role := 1, dark := false }
  let s := s.setTile 71 { owner := some (0, 7), role := 1, dark := false }
  let s := s.setTile 72 { owner := some (0, 8), role := 1, dark := false }
  let s : State := { s with cycles := 0x123456, nextTask := 5 }
  s.setTask 1 { vd := 0, ident := .ordinary 1, status := .pending, ctx := { regs with pc := 0x200040 } }

/-- That device with the task's registers set. -/
def d : State := fill (setg ((device start).modTask 0 fun t =>
    { t with window := some ⟨0x8000, some 0, 0x1000, 0, 0, 0x1000⟩, context := some 0x410000, ctx := regs })
  [(1, 0x201000), (2, 0x20103c), (3, 7), (4, 0xFFFFFFFFFFFFFFFF), (5, 0x8000000000000000)])
  0x101000 [0x8877665544332211, 0xFFEEDDCCBBAA9988, 3, 4, 5, 6, 7, 0xF0F1F2F3F4F5F6F7, 0xE0E1E2E3E4E5E6E7]

/-- The task in supervisor mode; the task doomed, with its flag at its core. -/
def sup (s : State) : State := s.modTask 0 fun t => { t with ctx := { t.ctx with mode := .supervisor } }
def doomed (s : State) : State := s.modTask 0 fun t => { t with doomed := true, delivered := true }

/-- Port 0 with a value in its latch, port 1 bound to the empty queue, port 2 unbound. -/
def ports (s : State) : State := s.modTask 0 fun t => { t with
  ctx := (t.ctx.setPort 0 { bound := 0x00100001, latch := some 9 }).setPort 1 { bound := 0x00101001 } }

/-- A handle of a future. -/
def handle (s : State) (n : Nat) : Word := handleOf (s.fut 0 n) n

/-- An operation answers, and what it answers has a property. -/
def meets {α : Type} (m : Act α) (s : State) (p : α → State → Bool) : Bool :=
  match m s with
  | .ok (a, t) => p a t
  | .error _ => false

/-- So a hypothesis `m s = .ok (a, t)` is met together with the property. -/
theorem meets_ok {α : Type} {m : Act α} {s : State} {p : α → State → Bool} (h : meets m s p = true) :
    ∃ a t, m s = .ok (a, t) ∧ p a t = true := by
  unfold meets at h
  split at h
  · next a t hm => exact ⟨a, t, hm, h⟩
  · contradiction

/-- The state and the task after an instruction or an event, where it answers a next state. -/
def after (i : Instr) (s : State) : State :=
  match exec i s with
  | .next t => t
  | _ => start
def goesOn (r : Result) : Bool :=
  match r with
  | .next _ => true
  | _ => false
def found {α : Type} (m : Act α) (s : State) : Bool := meets m s fun _ _ => true
/-- What an operation leaves, where it answers. -/
def left {α : Type} (m : Act α) (s : State) : State :=
  match m s with
  | .ok (_, t) => t
  | .error _ => start

/-- The translation of the page that holds the code and the data. -/
def held : TlbEntry := ⟨0, 0x20, 0, 0x10003D, 0x14000⟩

/-- A device with 256 records, of which one is in use, has room for a future. -/
theorem newFut_room {s : State} {vd : Nat} {g : Fut} (f : Fut) (hf : (s.vd vd).futs = [(1, g)])
    (hq : (s.vd vd).futQuota = 256) : ∃ n t, newFut vd f s = .ok (n, t) := by
  have hl : ¬ (s.vd vd).futQuota ≤ (s.vd vd).live := by
    have := List.length_filter_le (fun x : Nat × Fut => decide (x.2.state ≠ 0)) [(1, g)]
    simp only [Vd.live, hf, hq, List.length_singleton] at *
    omega
  have hn : ∀ i, i ≠ 1 → ((s.vd vd).fut i).state = 0 := by
    intro i hi
    simp [Vd.fut, hf, look, if_neg (Ne.symm hi)]
  have hr : ∀ c, (freeFrom (s.vd vd) c 2).isSome = true := by
    intro c
    simp only [freeFrom, hq]
    split
    · rfl
    · rw [if_pos]
      · rfl
      · by_cases h : c % 256 = 1
        · exact hn _ (by omega)
        · exact absurd (hn _ h) ‹_›
  unfold newFut drawNat
  simp only [act_bind, act_get, if_neg hl, act_pure, act_set, hf, List.length_singleton]
  obtain ⟨i, hi⟩ := Option.isSome_iff_exists.1 (hr (Config.choose s.draws))
  simp only [hi]
  exact ⟨_, _, rfl⟩
theorem newFut_meets {α : Type} {m : Act α} {s : State} (f : Fut)
    (h : meets m s (fun _ t => ((t.vd 0).futs.map (·.1) == [1]) && ((t.vd 0).futQuota == 256)) = true) :
    ∃ x s1 n s2, m s = .ok (x, s1) ∧ newFut 0 f s1 = .ok (n, s2) := by
  obtain ⟨x, s1, h1, h2⟩ := meets_ok h
  simp only [Bool.and_eq_true, beq_iff_eq] at h2
  obtain ⟨g, hg⟩ : ∃ g, (s1.vd 0).futs = [(1, g)] := by
    have := h2.1
    match hl : (s1.vd 0).futs with
    | [] => simp [hl] at this
    | [(k, g)] => simp only [hl, List.map_cons, List.map_nil, List.cons.injEq, and_true] at this; exact ⟨g, by rw [this]⟩
    | _ :: _ :: _ => simp [hl] at this
  obtain ⟨n, s2, h3⟩ := newFut_room f hg h2.2
  exact ⟨x, s1, n, s2, h1, h3⟩
/-! ### Words of the spec's examples (chapters 21 to 24), by family -/

/-- Each word decodes to the instruction beside it, and is what the encoder writes for it. -/
def reads (l : List (Word32 × Instr)) : Bool := l.all fun p =>
  (decode p.1 []).toOption == some p.2 && encode p.2 == [p.1]

theorem test_words_integer : reads [(0x04A63800, .add 5 6 7), (0x08A6FFFE, .addImm 5 6 0xFFFE), (0x05084801, .sub 8 8 9),
    (0x04A54002, .mul 5 5 8), (0x0C830003, .mulImm 4 3 3), (0x04853003, .mulh 4 5 6), (0x04853004, .mulhu 4 5 6),
    (0x04853005, .div 4 5 6), (0x04836806, .divu 4 3 13), (0x04853007, .rem 4 5 6), (0x04A36808, .remu 5 3 13),
    (0x04642809, .and 3 4 5), (0x11010FFF, .andImm 8 1 4095), (0x0512300A, .or 8 18 6), (0x14630080, .orImm 3 3 0x80),
    (0x0485300B, .xor 4 5 6), (0x1884FFFF, .xorImm 4 4 0xFFFF), (0x0485300C, .shl 4 5 6), (0x1D030003, .shlImm 8 3 3),
    (0x1ED60058, .shrImm 22 22 24), (0x1C8500BF, .sraImm 4 5 63)] = true := by decide +kernel
theorem test_words_compare : reads [(0x2085FFFF, .sltImm 4 5 0xFFFF), (0x04C02010, .sltu 6 0 4), (0x06058010, .sltu 16 5 16),
    (0x04853011, .min 4 5 6), (0x04853012, .max 4 5 6), (0x04853014, .maxu 4 5 6), (0x28858064, .minuImm 4 5 100),
    (0x04640015, .clz 3 4), (0x04640016, .popc 3 4), (0x2C6100D0, .extImm 3 1 false 3 16), (0x04611017, .ext 3 1 2),
    (0x32C00100, .lui 22 0x100)] = true := by decide +kernel
theorem test_words_transfer : reads [(0x4480FFFC, .bne 4 0 0xFFFC), (0x48A60002, .blt 5 6 2), (0x4C60FFFB, .bge 3 0 0xFFFB),
    (0x512A0004, .bltu 9 10 4), (0x5687FFFA, .bgeu 20 7 0xFFFA), (0x58020002, .bmany 2 2), (0x58230002, .bmnone 3 2),
    (0x5E60000A, .jal 19 10), (0x5C1FFFFC, .jal 0 0x1FFFFC), (0x60130000, .jalr 0 19 0), (0x62650010, .jalr 19 5 16)] = true := by
  decide +kernel
theorem test_words_memory : reads [(0x80E13008, .ld 7 1 .dflt .d 8), (0x81062FF4, .ld 8 6 .dflt .w 0xFF4),
    (0x8082C003, .ld 4 2 .bypass .b 3), (0x8C4B6000, .lda 2 11 .module .w 0), (0x8CA6B000, .lda 5 6 .system .d 0),
    (0x848D11FE, .ldn 4 13 .dflt .h 510), (0x85280000, .ldn 9 8 .dflt .b 0), (0x88E62000, .st 7 6 .dflt .w 0),
    (0x89283000, .st 9 8 .dflt .d 0), (0x88152100, .st 0 21 .dflt .w 256), (0x902B6000, .stl 1 11 .module .w 0),
    (0x91117000, .stl 8 17 .module .d 0), (0x902B2000, .stl 1 11 .tile .w 0), (0x94060001, .cinv 6), (0x94000041, .cinvAll),
    (0x98060000, .pf 6 .dflt .l1 0), (0x98069100, .pf 6 .long .l2 256)] = true := by decide +kernel
theorem test_words_atomic : reads [(0xA0A63C40, .amoAdd 5 6 7 true .relaxed .module), (0xA0051C46, .amoMinn 0 5 3 true .relaxed .module),
    (0xA52A4040, .mwait 9 10 8 false .module), (0xA5265440, .mwait 9 6 10 true .module), (0xA4050002, .evsig 5 0),
    (0xA4C50001, .evwait 6 5)] = true := by decide +kernel
theorem test_words_vector : reads [(0xC0850016, .vabs 4 5 0 .s16), (0xC0853020, .vadd 4 5 6 0 .s32), (0xC0853078, .vand 4 5 6 0 .n64),
    (0xC24019AE, .vcmp .lt 2 0 3 1 .f32), (0xC00110A3, .vfma 0 1 2 0 .f32), (0xC08530A5, .vmax 4 5 6 0 .f32),
    (0xC0853064, .vmin 4 5 6 0 .n32), (0xC0E84892, .vmul 7 8 9 0 .bf16), (0xC08500A7, .vneg 4 5 0 .f32),
    (0xC0853079, .vor 4 5 6 0 .n64), (0xC08532AF, .vsel 4 5 6 2 .f32), (0xC085306B, .vshl 4 5 6 0 .n32),
    (0xC085306C, .vshr 4 5 6 0 .n32), (0xC085302D, .vsra 4 5 6 0 .s32), (0xC0853081, .vsub 4 5 6 0 .f16),
    (0xC085307A, .vxor 4 5 6 0 .n64)] = true := by decide +kernel
theorem test_words_vector_rest : reads [(0xC485006B, .vbcast 4 5 0 .n32), (0xC48548A4, .vcvt 4 5 .bf16 0 .f32), (0xC48508C5, .vdec 4 5 1 0 .c8),
    (0xC48500D6, .venc 4 5 0 0 .c4), (0xC48500A9, .vexp2 4 5 0 .f32), (0xC480006F, .viota 4 0 .n32), (0xC48500AA, .vlog2 4 5 0 .f32),
    (0xC485181C, .vmovs 4 5 3 .s16), (0xC485304D, .vperm 4 5 6 0 .n8), (0xC48500A7, .vrcp 4 5 0 .f32),
    (0xC48500A2, .vred 4 5 .add 0 .f32), (0xC4850023, .vscan 4 5 .add 0 .s32), (0xC48500A8, .vrsq 4 5 0 .f32),
    (0xC48530AE, .vslide 4 5 6 0 .f32), (0xCC440800, .vrep 2 4 1)] = true := by decide +kernel
theorem test_words_vector_memory : reads [(0xC82100A0, .vld 1 1 0 0 .f32), (0xC8853040, .vld 4 5 6 0 .n8), (0xC88500A1, .vst 4 5 0 0 .f32),
    (0xC8853062, .vldx 4 5 6 0 .n32), (0xC88531A3, .vstx 4 5 6 1 .f32)] = true := by decide +kernel
theorem test_words_mask : reads [(0xD1020006, .mfirst 8 2), (0xD0C20004, .mnot 6 2), (0xD0821802, .mor 4 2 3), (0xD0E20005, .mpopc 7 2),
    (0xD0250000, .mset 1 5), (0xD0A11003, .mxor 5 1 2)] = true := by decide +kernel
theorem test_words_future : reads [(0xE0C0000C, .depdec 3), (0xE00A000D, .depdecMem 5), (0xE0D09004, .fwait 3 8 9), (0xE0D00005, .ftest 3 8),
    (0xE0C00006, .fcancel 3), (0xE1000207, .fref 4 2), (0xE0C00008, .fdrop 3), (0xE0CA0009, .fpin 3 5), (0xE18A000A, .ftake 6 5),
    (0xE00E000B, .fdone 7), (0xE040000F, .self 1), (0xE01C0010, .exit 14), (0xE08A6003, .fork 2 5 6), (0xE09C0002, .gang 2 14),
    (0xE000000E, .rpoint), (0xE0C86000, .spawn 3 4 6), (0xE1126201, .spawnPass 4 9 6 2), (0xE0000011, .yield)] = true := by decide +kernel
theorem test_words_group_queue : reads [(0xE4180003, .garrive 12), (0xE41A2002, .gbar 13 2), (0xE41A0000, .gjoin 13), (0xE41A0001, .gleave 13),
    (0xE4144004, .xput 10 4), (0xE8900002, .qbind 2 8), (0xE9509005, .qenq 5 8 9), (0xE8100001, .qfree 8), (0xE8148006, .qlen 10 8),
    (0xE8109000, .qnew 8 9), (0xE8128004, .qpop 9 8), (0xE8109003, .qpush 8 9)] = true := by decide +kernel
theorem test_words_role_system : reads [(0xEC109000, .lease 8 9), (0xEC100001, .unlease 8), (0xEC100002, .rack 8), (0xEC109003, .rlook 8 9),
    (0xEC100004, .snapopen 8), (0xEC100005, .snapcommit 8), (0xEC109006, .snaproll 8 9), (0xF0000053, .brk 5), (0xF0000092, .trap 9),
    (0xF0000004, .eret), (0xF2801000, .srrd 20 0x100), (0xF0E00030, .srrd 7 3), (0xF0141021, .srwr 20 0x102), (0xF0050001, .srwr 5 0),
    (0xF0050005, .tinv 5), (0xF0000015, .tinvAll), (0xF00D0006, .sleep 13)] = true := by decide +kernel

/-- The eight words of a tile command, of which words 1 to 7 are 0xF8000000 but for those given (R56). -/
def readsWords (l : List (List (Nat × Word32) × Instr)) : Bool := l.all fun p =>
  let ws : List Word32 := (List.range 8).map fun i => (look p.1 i).getD 0xF8000000
  (decode (ws.headD 0) ws.tail).toOption == some p.2 && encode p.2 == ws
def headTo (h : Option HReg) (tag : BitVec 8 := 0) : CmdHead := { tag := tag, fut := h, chain := none }
theorem test_words_matrix : readsWords [
    ([(0, 0xFC000C60), (1, 0xF8010430), (2, 0xF82C9C02), (3, 0xF9348000), (5, 0xF94B0002)],
      .mma (headTo (some 1) 3) ⟨16, .m32, 3⟩ (.mem false 5 9 7 2) (.mem true 6 9 0 0) (.regs 10 11)),
    ([(0, 0xFC100120), (1, 0xF8000010), (2, 0xF82E0000), (3, 0xF9300000)],
      .mmas (headTo (some 4)) ⟨0, .m16, 1⟩ (.mem false 5 12 0 0) (.mem true 6 0 0 0) .none),
    ([(0, 0xFC200120), (1, 0xF8004410)], .accz (headTo (some 4)) ⟨4, .m32, 1⟩),
    ([(0, 0xFC3000A0), (1, 0xF8008010), (2, 0xF82D1C00)], .accld (headTo (some 2)) ⟨8, .m16, 1⟩ (.mem false 5 10 7 0)),
    ([(0, 0xFC400160), (1, 0xF8004410), (4, 0xF8480000), (5, 0xF8007000)],
      .accst (headTo (some 5)) ⟨4, .m32, 1⟩ (.mem false 9 0 0 0) 14 0 0),
    ([(0, 0xFC500120), (1, 0xF8000001), (2, 0xF8500000)], .tabld (headTo (some 4)) 1 (.mem false 10 0 0 0))] = true := by
  decide +kernel
theorem test_words_copy : readsWords [
    ([(0, 0xFC8400A0), (2, 0xF8AB8000), (4, 0xF84B8000), (6, 0xFAE00000)], .tcopy (headTo (some 2)) (.mem false 21 7 0 0) (.mem false 9 7 0 0) 23),
    ([(0, 0xFC940060), (4, 0xF8430000), (6, 0xF92A0000)], .tfill (headTo (some 1)) (.mem false 8 6 0 0) 9 10),
    ([(0, 0xFCA400A0), (2, 0xF82D1800), (3, 0xF83B0000), (4, 0xF8450000), (6, 0xF9200000)],
      .tgather (headTo (some 2)) (.mem false 5 10 6 0) (.mem false 7 6 0 0) (.mem false 8 10 0 0) 9),
    ([(0, 0xFCB400A0), (2, 0xF8450000), (3, 0xF83B0000), (4, 0xF82D1800), (6, 0xF9200000)],
      .tscatter (headTo (some 2)) (.mem false 8 10 0 0) (.mem false 7 6 0 0) (.mem false 5 10 6 0) 9)] = true := by decide +kernel
theorem test_words_stream : readsWords [
    ([(0, 0xFD8C0160), (2, 0xF8380000), (4, 0xFA280000), (6, 0xF9200000)], .tsub (headTo (some 5)) (.mem false 7 0 0 0) (.berth 5 0 0) 9 false),
    ([(0, 0xFD9C0000), (4, 0xFA280C00)], .tunsub (headTo none) (.berth 5 0 3)),
    ([(0, 0xFD0800E0), (7, 0xF9800000)], .txchg (headTo (some 3)) ⟨0, .m16, 0⟩ 12),
    ([(0, 0xFFFC01A0), (1, 0xF8000003)], .qfence (headTo (some 6)) .stream 3)] = true := by decide +kernel

/-- The all-zero word, a reserved major, and word 0 of a tile command without its other words decode to nothing. -/
theorem test_words_refused : ([0, 0x38000000, 0xF8000000, 0xFC200120].all fun w => (decode w []).toOption.isNone) = true := by
  decide +kernel

/-! ### Ill-formed terms -/

theorem smoke_ports : Instr.reject (.add 1 24 24) = some .samePort ∧ Instr.reject (.amocas 24 1 2 true .relaxed .tile) = some .portField ∧
    Instr.reject (.qbind 0 24) = some .portField ∧ Instr.reject (.spawn 1 2 24) = some .portField ∧
    Instr.reject (.txchg (headTo none) ⟨0, .m16, 0⟩ 31) = some .portField := by decide
theorem smoke_fields : Instr.reject (.extImm 1 2 false 1 63) = some .badRange ∧ Instr.reject (.vmovs 1 2 4 .n64) = some .badRange ∧
    Instr.reject (.ldn 1 2 .dflt .d 0) = some .reservedField ∧ Instr.reject (.pf 1 .bypass .l1 0) = some .reservedField ∧
    Instr.reject (.spawn 1 2 3) = some .badPair ∧ Instr.reject (.fork 1 2 0) = some .badPair ∧
    Instr.reject (.srrd 1 5) = some .systemRegister ∧ Instr.reject (.srwr 1 3) = some .systemRegister := by decide
theorem smoke_types : Instr.reject (.vadd 1 2 3 0 .c8) = some .badType ∧ Instr.reject (.vand 1 2 3 0 .f32) = some .badType ∧
    Instr.reject (.vred 1 2 .xor 0 .f32) = some .badType ∧ Instr.reject (.vrcp 1 2 0 .s32) = some .badType ∧
    Instr.reject (.vcvt 1 2 .c8 0 .f32) = some .badType ∧ Instr.reject (.vdec 1 2 0 0 .n8) = some .badType ∧
    Instr.reject (.vperm 1 2 3 0 .c4) = some .badType ∧ Instr.reject (.vld 1 2 3 0 .x19) = some .badType ∧
    Instr.reject (.vldx 1 2 3 0 .n8) = some .badType := by decide
theorem smoke_operands : Instr.reject (.tcopy (headTo none) (.mem false 1 0 2 0) (.mem false 3 0 0 0) 4) = some .badOperand ∧
    Instr.reject (.accld (headTo none) ⟨0, .m16, 0⟩ (.berth 1 10 0)) = some .badOperand ∧
    Instr.reject (.tfill (headTo none) (.mem false 1 14 0 0) 4 5) = some .badType ∧
    Instr.reject (.mma (headTo none) ⟨0, .m16, 0⟩ (.mem false 1 4 0 0) (.mem false 1 8 0 0) .none) = some .badType ∧
    Instr.reject (.tunsub (headTo none) (.mem false 1 0 0 0)) = some .badOperand ∧ Instr.reject .tideDrain = some .noEncoding := by decide
/-! ### States that meet the hypotheses of the statements, clause by clause -/

/-- ADD g5, g6, g7 where the thread fetches (R349: 0x04A63800), and QFENCE (R412), its eight words. -/
def addNext : State := State.reset.withFetchWord 32 0x04A63800
def fenceWords : Nat := 0xFFFC01A0 + 0xF8000003 * 2 ^ 32 +
  0xF8000000 * (2 ^ 64 + 2 ^ 96 + 2 ^ 128 + 2 ^ 160 + 2 ^ 192 + 2 ^ 224)
def fenceNext : State := State.reset.withFetchWord 256 fenceWords

theorem witness_StepKeepsInvariant : addNext.Inv ∧ goesOn (step addNext) = true :=
  ⟨⟨by decide +kernel, by decide +kernel, by decide +kernel, by decide +kernel⟩, by decide +kernel⟩

theorem witness_StepRunsDecoded_thread :
    addNext.agenda = [.thread ⟨0, 0, 0⟩] ∧ ({ addNext with agenda := [] } : State).takes (.thread ⟨0, 0, 0⟩) = true ∧
    (({ addNext with agenda := [], cur := ⟨0, 0, 0⟩ } : State).issueSlot 0 0).1 = some 0 ∧
    (((addNext.issueSlot 0 0).2.issuing ⟨0, 0, 0⟩).taskAt ⟨0, 0, 0⟩).map (·.1) = some 0 ∧
    meets (fetch 0 (tk addNext)) (({ addNext with agenda := [], cur := ⟨0, 0, 0⟩ } : State).issuing ⟨0, 0, 0⟩)
      (fun i _ => i == .add 5 6 7) = true := by decide +kernel

theorem witness_StepRunsDecoded_event :
    ({ d with agenda := [.event .freeze] } : State).agenda = [.event .freeze] ∧ d.takes (.event .freeze) = true := by
  decide +kernel

theorem witness_FetchDecodes_scalar :
    meets (resolve 0 (tk addNext) 0x200000 .fetch) addNext (fun x t => match x.1 with
      | .phys a _ =>
        let w : Word32 := BitVec.ofNat 32 (ofBytes (t.readKey a 4))
        isCommandWord w == false && (decode w []).toOption == some (.add 5 6 7) && decide (t.codeGranted (tk addNext) a)
      | _ => false) = true := by decide +kernel

theorem witness_FetchDecodes_command :
    meets (resolve 0 (tk fenceNext) 0x200000 .fetch) fenceNext (fun x t => match x.1 with
      | .phys a _ =>
        let w : Word32 := BitVec.ofNat 32 (ofBytes (t.readKey a 4))
        isCommandWord w && decide (t.codeGranted (tk fenceNext) a) &&
          meets (resolve 0 (tk fenceNext) 0x200000 .fetch) (t.codeRead (tk fenceNext) a) fun y v => match y.1 with
            | .phys b _ => (decode w (wordsOf 7 ((v.readKey b 32).drop 4))).toOption.isSome &&
                decide (v.codeGranted (tk fenceNext) b)
            | _ => false
      | _ => false) = true ∧ (tk fenceNext).ctx.pc.toNat % 32 = 0 := by decide +kernel

/-- A cluster whose byte budget is spent by another request. -/
def spent (s : State) : State := s.modCluster 0 fun c => { c with limit := some 1, granted := 1, first := some 9 }
theorem witness_FetchDecodes_waits : meets (resolve 0 (tk addNext) 0x200000 .fetch) (spent addNext) (fun x t => match x.1 with
    | .phys a _ => !decide (t.codeGranted (tk addNext) a)
    | _ => false) = true := by decide +kernel

/-- The all-zero word; and word 0 of a tile command at an address that is no multiple of 32. -/
def slotMine (s : State) : Prop := (s.issueSlot 0 0).1 = some 0 ∧ ((s.issueSlot 0 0).2.issuing s.cur) = s.issuing s.cur ∧
  (s.issuing s.cur).taskAt s.cur = some (0, tk s) ∧ (s.issuing s.cur).task? 0 = some (tk s) ∧
  (s.issuing s.cur).heldStores 0 = false
theorem witness_IllegalWordTraps_word : slotMine start ∧
    meets (resolve 0 (tk start) 0x200000 .fetch) (start.issuing start.cur) (fun x t => match x.1 with
      | .phys a _ =>
        let w : Word32 := BitVec.ofNat 32 (ofBytes (t.readKey a 4))
        isCommandWord w == false && (decode w []).toOption.isNone && decide (t.codeGranted (tk start) a)
      | _ => false) = true := by unfold slotMine; decide +kernel
def offLine : State := (fill start 0x100010 [0xFFFC01A0]).modTask 0 fun t => { t with ctx := { t.ctx with pc := 0x200010 } }
theorem witness_IllegalWordTraps_alignment : slotMine offLine ∧
    (tk offLine).ctx.pc.toNat % 32 ≠ 0 ∧
    meets (resolve 0 (tk offLine) 0x200010 .fetch) (offLine.issuing offLine.cur) (fun x t => match x.1 with
      | .phys a _ => isCommandWord (BitVec.ofNat 32 (ofBytes (t.readKey a 4))) && decide (t.codeGranted (tk offLine) a)
      | _ => false) = true := by unfold slotMine; decide +kernel

theorem witness_DecodeEncode : Instr.WellFormed (.add 31 30 29) ∧ encode (.add 31 30 29) = [0x07FEE800#32] := by decide

/-- With a trap vector, without one, in supervisor mode, doomed. -/
def vectored (s : State) : State := s.modVd 0 fun v => { v with tvec := 0x300000 }
theorem witness_TrapEntry : (∀ s ∈ [vectored d, d, sup d, doomed d], s.task? 0 = some (tk s) ∧ (tk s).waitReacher = none ∧
      s.tvecSettled (tk s)) ∧
    ((vectored d).vd 0).tvec ≠ 0 ∧ (tk (vectored d)).ctx.mode = .task ∧ (tk d).delivered = false ∧ (d.vd 0).tvec = 0 ∧
    (tk (sup d)).ctx.mode = .supervisor ∧ (tk (doomed d)).delivered = true := by decide +kernel
theorem witness_TrapInstructions : (∀ s ∈ [vectored d, d, sup d, doomed d], s.runs 0 (tk s) ∧ (tk s).waitReacher = none ∧
      s.tvecSettled (tk s) ∧ s.heldStores 0 = false) ∧ ((vectored d).vd 0).tvec ≠ 0 ∧ (tk (vectored d)).ctx.mode = .task := by decide +kernel

/-- A VREP broken off at the address in TEPC, another VREP, and fail set. -/
def brokenOff (s : State) (status : Word) (at_ : Word) : State := s.modTask 0 fun t => { t with ctx := { t.ctx with
  tstatus := status, tepc := 0x200010, outer := some ⟨at_, false, true, 5, [0], 0, 3, 0⟩ } }
theorem witness_EretReturns : (∀ s ∈ [brokenOff (sup d) 0x250 0x200010, brokenOff (sup d) 0x250 0x20, brokenOff (sup d) 0 0x20,
      brokenOff (sup d) 2 0], s.runs 0 (tk s) ∧ (tk s).ctx.mode = .supervisor ∧ s.heldStores 0 = false) ∧
    (tk (brokenOff (sup d) 2 0)).ctx.tstatus.getLsbD 1 = true ∧ (tk (brokenOff (sup d) 0x250 0x200010)).ctx.tepc = 0x200010 ∧
    (tk (brokenOff (sup d) 0x250 0x200010)).ctx.outer = some ⟨0x200010, false, true, 5, [0], 0, 3, 0⟩ ∧
    bvBits (tk (brokenOff (sup d) 0x250 0x20)).ctx.tstatus 15 8 = 2 := by decide +kernel

theorem witness_PrivilegeTraps : d.runs 0 (tk d) ∧ (tk d).ctx.mode = .task ∧ (tk d).delivered = false ∧ d.heldStores 0 = false ∧
    (∀ i ∈ [.eret, .tinvAll, .tinv 5, .srrd 5 0x100, .srrd 5 0x104, .srwr 5 2, .srwr 5 0x100, .srwr 5 0x104],
      Instr.WellFormed i) := by decide +kernel
theorem witness_DoomedStops : (doomed d).runs 0 (tk (doomed d)) ∧ (tk (doomed d)).delivered = true ∧
    (tk (doomed d)).ctx.running = none ∧ Instr.isCommand (.accz (headTo none) ⟨4, .m32, 1⟩) = true ∧
    (∃ r ∈ Instr.sources (.vbcast 1 24 0 .n8) ++ Instr.dests (.vbcast 1 24 0 .n8), GReg.isPort r = true) := by decide +kernel

/-- Port 1 bound to an empty queue and port 0 to one with entries; its value in the latch once it is popped. -/
def filled : State := (ports d).modTask 0 fun t => { t with ctx := t.ctx.setPort 0 { bound := 0x00100001 } }
def popped : State := (popAll filled 0 (Instr.sources (.add 5 24 3))).1
theorem witness_PortSources_popped : filled.runs 0 (tk filled) ∧ (tk filled).delivered = false ∧
    (popAll filled 0 (Instr.sources (.add 5 24 3))).2.isNone = true ∧ popped.runs 0 (tk popped) ∧
    (tk popped).delivered = false ∧ (tk popped).ctx.latched (Instr.sources (.add 5 24 3)) ∧ popped.cur = filled.cur := by
  decide +kernel
theorem witness_PortSources_pop : ∀ n ∈ [0, 1], n < 8 ∧ filled.task? 0 = some (tk filled) ∧
    ((tk filled).ctx.port n).latch = none ∧ ((tk filled).ctx.port n).bound ≠ 0 ∧
    filled.queueHeld 0 ((tk filled).ctx.port n).bound = false ∧ filled.packets = [] ∧
    filled.queue? 0 ((tk filled).ctx.port n).bound =
      some { prio := false, entries := if n = 0 then [11, 22, 33] else [] } := by decide +kernel

/-- Port 2 is unbound; the home of port 1's queue moves. -/
def moving : State := (ports d).modEntry 0 1 fun e => { e with state := 2 }
theorem witness_PortFaults : (ports d).runs 0 (tk (ports d)) ∧ (tk (ports d)).delivered = false ∧ (ports d).heldStores 0 = false ∧
    ((tk (ports d)).ctx.port 2).latch = none ∧ ((tk (ports d)).ctx.port 2).bound = 0 ∧ GReg.isPort 26 = true ∧
    moving.runs 0 (tk moving) ∧ moving.heldStores 0 = false ∧ ((tk moving).ctx.port 1).bound ≠ 0 ∧
    moving.queueHeld 0 ((tk moving).ctx.port 1).bound = true := by decide +kernel

theorem witness_IntegerResults : d.issues (.add 5 1 2) 0 (tk d) ∧ GReg.isPort 5 = false ∧
    (aluValue (.add 5 1 2) ((tk d).ctx.src 1) ((tk d).ctx.src 2)).isSome = true ∧
    (ports d).issues (.add 25 24 2) 0 (tk (ports d)) ∧ (ports d).portReady (tk (ports d)) 25 ∧
    (((ports d).wrote 0 (.add 25 24 2) fun c => c).pushed 0 (tk (ports d)) 25 5).isSome = true := by decide +kernel
theorem witness_DivisionResults : d.issues (.div 6 5 4) 0 (tk d) ∧ (tk d).ctx.src 5 = BitVec.intMin 64 ∧
    (tk d).ctx.src 4 = BitVec.allOnes 64 ∧ d.issues (.rem 6 5 0) 0 (tk d) ∧ (tk d).ctx.src 0 = 0 := by decide +kernel
/-- A control word in g6: 64 bits from bit 0, and 64 from bit 1. -/
def control (w : Nat) : State := setg d [(6, w)]
theorem witness_FieldsAndMasks : (∀ i ∈ [.extImm 6 1 true 0 63, .mset 3 1, .mand 0 1 2, .mor 3 0 2, .mxor 3 1 2, .mnot 3 0,
      .mfirst 5 0, .mpopc 5 3], d.issues i 0 (tk d)) ∧ Instr.WellFormed (.extImm 6 1 true 0 63) := by decide +kernel
theorem witness_FieldsAndMasks_ext : (control 0xFC0).issues (.ext 5 1 6) 0 (tk (control 0xFC0)) ∧
    bvBits ((tk (control 0xFC0)).ctx.src 6) 5 0 + (bvBits ((tk (control 0xFC0)).ctx.src 6) 11 6 + 1) = 64 ∧
    (control 0xFC1).issues (.ext 5 1 6) 0 (tk (control 0xFC1)) ∧
    bvBits ((tk (control 0xFC1)).ctx.src 6) 5 0 + (bvBits ((tk (control 0xFC1)).ctx.src 6) 11 6 + 1) = 65 := by
  decide +kernel

theorem witness_TransferResults_branch : d.issues (.beq 1 1 0) 0 (tk d) ∧
    branchTaken (.beq 1 1 0) (tk d).ctx = some (true, 0) ∧ (doomed d).issues (.beq 1 1 0) 0 (tk (doomed d)) ∧
    (tk (doomed d)).delivered = true := by decide +kernel
theorem witness_TransferResults_jump : (∀ i ∈ [.jal 19 (-4), .jalr 19 1 4, .jalr 19 1 2], d.issues i 0 (tk d)) ∧
    ((tk d).ctx.src 1 + (4#16).signExtend 64).toNat % 4 = 0 ∧ (doomed d).issues (.jal 19 0) 0 (tk (doomed d)) ∧
    ((tk d).ctx.src 1 + (2#16).signExtend 64).toNat % 4 ≠ 0 := by decide +kernel
theorem witness_TransferResults_port : (ports d).issues (.jal 25 8) 0 (tk (ports d)) ∧
    (ports d).portReady (tk (ports d)) 25 := by decide +kernel
theorem witness_PortDestination : (ports d).issues (.ld 25 1 .dflt .d 8) 0 (tk (ports d)) ∧
    meets (loadBytes 0 (tk (ports d)) 0x201008 8 .dflt false) (ports d) (fun l s0 => l.length == 8 &&
      decide (s0.portReady (tk (ports d)) 25) &&
      ((s0.wrote 0 (.ld 25 1 .dflt .d 8) fun c => c).pushed 0 (tk (ports d)) 25 7).isSome) = true ∧
    (ports d).issues (.mpopc 25 3) 0 (tk (ports d)) ∧ (ports d).portReady (tk (ports d)) 25 ∧
    Instr.WellFormed (.extImm 25 1 false 7 56) := by decide +kernel

theorem witness_AccessFrame : d.task? 0 = some (tk d) ∧
    meets (resolve 0 (tk d) 0x201000 .store) d (fun _ _ => true) = true ∧
    meets (loadBytes 0 (tk d) 0x201000 8 .dflt true) d (fun _ _ => true) = true ∧
    meets (storeBytes 0 0x201000 [(0, 5)] .dflt true) d (fun _ _ => true) = true ∧
    meets (atomicAt 0 (tk d) 0x201000 8) d (fun _ _ => true) = true := by decide +kernel
/-- A line with an uncorrectable error. -/
def errored : State := { d with errored := [0x101000 / 256] }
theorem witness_LoadResults : (∀ i ∈ [.ld 5 1 .dflt .d 0, .ldn 5 1 .dflt .w 0, .lda 5 1 .module .d 0], d.issues i 0 (tk d)) ∧
    ((tk d).ctx.src 1 + (0#12).signExtend 64).toNat % 8 = 0 ∧
    meets (loadBytes 0 (tk d) 0x201000 8 .dflt false) d (fun l _ => l.length == 8) = true ∧
    meets (loadBytes 0 (tk d) 0x201000 4 .dflt false) d (fun l _ => l.length == 4) = true ∧
    meets (loadBytes 0 (tk d) 0x201000 8 .dflt true) d (fun l _ => l.length == 8) = true := by decide +kernel
theorem witness_LoadResults_piece : ∀ s ∈ [d, errored], meets (resolve 0 (tk s) 0x201000 .load) s (fun x t =>
    x.1 == .phys 0x101000 false && t.packets.isEmpty && (l1Look (t.tile 0).l1 (0x101000 / 64)).isNone &&
    (tk s).sbuf.isEmpty && (t.cluster 0).grants t.cycles 64) = true := by decide +kernel
theorem witness_LoadResults_error : 0x101000 / 256 ∈ errored.errored ∧ ¬ 0x101000 / 256 ∈ d.errored := by decide +kernel

theorem witness_MisalignedTraps : (∀ i ∈ [.ld 5 1 .dflt .d 1, .stl 5 1 .tile .h 1], d.issues i 0 (tk d)) ∧
    ((tk d).ctx.src 1 + (1#12).signExtend 64).toNat % Size.bytes .h ≠ 0 ∧ d.issues (.amoAdd 6 2 3 true .relaxed .tile) 0 (tk d) ∧
    ((tk d).ctx.src 2).toNat % 8 ≠ 0 := by decide +kernel

def bytesOf (n : Nat) (r : GReg) : List (Nat × Byte) := cellsAt 0 (toBytes n ((tk d).ctx.src r).toNat)
/-- g6 addresses a doubleword of a storage tile. -/
def stored : State := setg d [(6, Config.windowBase + 2 ^ 24 + 8)]
theorem witness_StoreResults : d.issues (.st 3 1 .dflt .d 0) 0 (tk d) ∧
    meets (storeBytes 0 0x201000 (bytesOf 8 3) .dflt false) d (fun _ _ => true) = true := by decide +kernel
theorem witness_StoreResults_release : stored.issues (.stl 3 6 .module .d 0) 0 (tk stored) ∧
    meets (resolve 0 (tk stored) ((tk stored).ctx.src 6).toNat .store) stored (fun x s1 =>
      meets (storable (tk stored) ((tk stored).ctx.src 6).toNat x.1) s1 (fun _ s2 => s2 == s1) &&
      meets (storeBytes 0 ((tk stored).ctx.src 6).toNat (bytesOf 8 3) .dflt true) (stored.release 0 .module) (fun _ _ => true)) =
        true := by decide +kernel
theorem witness_StoresTake_buffer : d.task? 0 = some (tk d) ∧ meets (resolve 0 (tk d) 0x201000 .store) d (fun x s1 =>
    x.1 == .phys 0x101000 false && (s1.vd (tk d).vd).regions.isEmpty && (s1.cluster 0).grants s1.cycles 8 &&
    (d.inTable 0x101000).isNone) = true := by
  decide +kernel
/-- The future table lies below the address, and its byte 8 is the first of the store that lies beyond it. -/
def tableAt : State := d.modVd 0 fun v => { v with futBase := 0x101040 }
theorem witness_StoresTake_table : meets (resolve 0 (tk tableAt) 0x201038 .store) tableAt (fun x _ => x.1 == .phys 0x101038 false) = true ∧
    ((cellsAt 0 (toBytes 16 7)).find? fun c => (tableAt.inTable (0x101038 + c.1)).isSome) = some (8, 0) := by decide +kernel
/-- A store of eight bytes, performed at home; one to an entry of no role, refused there. -/
def store8 (g : Target) : Store := ⟨0x201000, g, cellsAt 0 (toBytes 8 7), false, 0, 0, 0, false⟩
theorem witness_StoresTake_home : d.storeKey 0 0 (store8 (.phys 0x101000 false)) = some 0x101000 ∧ (d.vd 0).regions = [] ∧
    Memory.wf d.mem ∧ d.storeKey 0 0 (store8 (.window 3 0 false)) = none := by decide +kernel
/-- The last doubleword of the task's own window, and of another storage tile: taken. An entry of no role: refused. -/
theorem witness_StoresTake_window : ∀ va ∈ [Config.windowBase + 0x8FF8, Config.windowBase + 2 ^ 24 + 8],
    meets (resolve 0 (tk d) va .store) d (fun x s1 => s1 == d && meets (keyOf (tk d) va x.1) d (fun _ s2 => s2 == d) &&
      (match x.1 with
        | .window lid off own => (d.windowKey (tk d).vd (if own then some (tk d) else none) lid off).isSome
        | _ => false)) = true := by
  decide +kernel
theorem witness_StoresTake_drained : ((d.drain 0).settlePath 0 0 (.place 0 0 (.window 1 8 false)) (.window 1 8 false) 8) = d := by
  decide +kernel
theorem witness_StoresTake_refused : meets (resolve 0 (tk d) (Config.windowBase + 3 * 2 ^ 24) .store) d (fun x s1 =>
    s1 == d && x.1 == .window 3 0 false) = true ∧ d.held (tk d).vd 3 (tk d).last.tile = false ∧
    d.windowKey (tk d).vd none 3 0 = none := by decide +kernel

/-- Translated, with the page's A set, and not translated. -/
theorem witness_FencesAndCaches : (∀ i ∈ [.fence .ar .module, .cinv 1, .cinvAll, .pf 1 .dflt .l1 0, .pf 0 .dflt .l1 0],
      d.issues i 0 (tk d)) ∧ (d.quietly (tk d) ((tk d).ctx.src 1).toNat false).isSome = true ∧
    (d.quietly (tk d) ((tk d).ctx.src 0).toNat true).isSome = false ∧
    (d.quietly (tk d) ((tk d).ctx.src 1).toNat true).isSome = true ∧ d.packets = [] := by decide +kernel

theorem witness_AtomicResults : ∀ o ∈ [Order.relaxed, .ar], stored.issues (.amocas 7 6 3 true o .module) 0 (tk stored) ∧
    meets (resolve 0 (tk stored) ((tk stored).ctx.src 6).toNat .store) stored (fun _ s1 =>
      meets (atomicAt 0 (tk stored) ((tk stored).ctx.src 6).toNat 8)
        (if o = .rel ∨ o = .ar then s1.release 0 .module else s1) (fun x s2 =>
          (s2.vd 0).regions.isEmpty && !(x.2 / 256 ∈ s2.errored))) = true := by decide +kernel

/-- Lines 4 and 5 are pending; g6 names one of them, g7 another, g8 bit 31. -/
def lines : State := setg d [(6, 0x20), (7, 0x40), (8, 0x80000000)]
theorem witness_EventLines : (∀ i ∈ [.evwait 9 6, .evwait 9 7, .evwait 9 0, .evsig 6 0, .evsig 8 0], lines.issues i 0 (tk lines)) ∧
    (lines.vd 0).pendingAt (clusterOf (tk lines).last.tile) &&& ((tk lines).ctx.src 6).setWidth 32 ≠ 0 ∧
    (lines.vd 0).pendingAt (clusterOf (tk lines).last.tile) &&& ((tk lines).ctx.src 7).setWidth 32 = 0 ∧
    ((tk lines).ctx.src 7).setWidth 32 ≠ (0 : Word32) ∧ ((tk lines).ctx.src 8).getLsbD 31 = true ∧
    (tk lines).delivered = false := by decide +kernel

/-- g3 holds what stands at 0x201000, g6 something else. -/
def watch : State := setg d [(3, 0x8877665544332211), (6, 5)]
theorem witness_MwaitResults : ∀ b ∈ [(3 : GReg), 6], watch.issues (.mwait 9 1 b true .module) 0 (tk watch) ∧
    (tk watch).delivered = false ∧ (tk watch).woke = none ∧
    meets (resolve 0 (tk watch) 0x201000 .load) watch (fun x s1 =>
      meets (keyOf (tk watch) 0x201000 x.1) s1 (fun _ s' => s' == s1) &&
      meets (budget (tk watch) x.1 8) s1 fun _ s2 =>
        let dr := (s2.drain 0).settlePath 0 0 (.place 0 0 x.1) x.1 8
        let sent := (dr.l2Demand 0 x.2.tier 0x101000 8 x.2.ret false).traffic 4 0 0 0 0 (tk watch).last 0x201000
          ((tk watch).ctx.src b) x.1
        (sent.task? 0).any (fun u => !u.delivered) &&
        meets (keyOf (tk watch) 0x201000 x.1) dr (fun k s2 => s2 == dr && !(k / 256 ∈ dr.errored) &&
          decide ((ofBytes (dr.readKey k 8) = ((tk watch).ctx.src b).toNat) ↔ b = 3))) = true := by decide +kernel

theorem witness_VectorIntegerLanes : (∀ i ∈ [.vadd 3 1 2 0 .s64, .vand 3 1 2 3 .c4, .vsra 3 1 2 3 .n8], d.issues i 0 (tk d)) ∧
    d.vroom (tk d) ∧ lanewiseForm (.vadd 3 1 2 0 .s64) = some (3, 1, 2, 0, .s64) ∧
    (∀ l < 4, (intValue (.vadd 3 1 2 0 .s64) (lane .s64 ((tk d).ctx.getV 1) l) (lane .s64 ((tk d).ctx.getV 2) l)
      (lane .s64 ((tk d).ctx.getV 3) l)).isSome = true) := by decide +kernel

/-- 1.0 in every f32 lane of v1 and 2^-24 in those of v2: their sum is inexact; with every flag enabled and with none. -/
def floatRegs (fctl : Word) : Ctx := { pc := 0x200010, fctl := fctl, v := (((Vector.replicate 32 0#256).set 1
  (BitVec.ofNat 256 (0x3F800000 * ((2 ^ 256 - 1) / (2 ^ 32 - 1))))).set 2
  (BitVec.ofNat 256 (0x33800000 * ((2 ^ 256 - 1) / (2 ^ 32 - 1))))) }
def floats (fctl : Word) : State := start.modTask 0 fun t => { t with ctx := floatRegs fctl }
def sums (c : Ctx) (l : Nat) : Option (Nat × Nat) := flaggedValue (.vadd 3 1 2 0 .f32) c
  (lane .f32 (c.getV 1) l) (lane .f32 (c.getV 2) l) (lane .f32 (c.getV 3) l)
theorem floats_ctx (f : Word) : (tk (floats f)).ctx = floatRegs f := by
  have h : start.task? 0 = some (tk start) := by decide +kernel
  simp [tk, floats, State.task?_modTask h]
theorem witness_VectorFlaggedLanes_0 : (floats 0).issues (.vadd 3 1 2 0 .f32) 0 (tk (floats 0)) ∧
    (floats 0).vroom (tk (floats 0)) :=
  ⟨⟨by decide +kernel, by decide +kernel, by decide +kernel, by decide +kernel⟩, by decide +kernel⟩
theorem witness_VectorFlaggedLanes_NX : (floats 0x1F0).issues (.vadd 3 1 2 0 .f32) 0 (tk (floats 0x1F0)) ∧
    (floats 0x1F0).vroom (tk (floats 0x1F0)) :=
  ⟨⟨by decide +kernel, by decide +kernel, by decide +kernel, by decide +kernel⟩, by decide +kernel⟩
theorem witness_VectorFlaggedLanes_flags : (∀ l < 8, (sums (floatRegs 0x1F0) l).isSome = true) ∧
    flagsOf .f32 ((floatRegs 0x1F0).getM 0) (fun l => (sums (floatRegs 0x1F0) l).getD (0, 0)) = NX ∧
    fctlEnables (floatRegs 0x1F0).fctl &&& NX = NX ∧ fctlEnables (floatRegs 0).fctl = 0 := by decide +kernel

/-- Sixteen entries in the core's vector queue. -/
def queueFull : State := d.modCore 0 0 fun c => { c with vq := List.replicate 16 ⟨0, .viota 1 0 .n8, none⟩ }
theorem witness_VectorMoves : (∀ i ∈ [.vbcast 3 1 3 .n8, .vperm 3 1 2 3 .n8, .vslide 3 1 4 3 .n8, .viota 3 3 .n8,
      .vsel 3 1 2 3 .n8, .vmovs 5 1 31 .n8, .vbcast 3 1 3 .x19, .viota 3 3 .f32, .vmovs 5 1 7 .x19], d.issues i 0 (tk d)) ∧ d.vroom (tk d) ∧
    (vectorBody (.viota 3 3 .n8)).isSome = true ∧ queueFull.issues (.viota 3 3 .n8) 0 (tk queueFull) ∧
    16 ≤ (queueFull.core (tk queueFull).last.tile (tk queueFull).last.core).vq.length := by decide +kernel

/-- Slot 1 holds a c8 table. -/
def table : Table := { c4 := false, inf := false, nan := none, entries := List.replicate 256 0x3F800000 }
def tabled : State := d.modCore 0 0 fun c => { c with slots := c.slots.set 1 (some table) }
theorem witness_VectorOthers : (∀ i ∈ [.vcmp .lt 2 1 2 3 .n8, .vred 3 1 .add 3 .n8, .vscan 3 1 .add 3 .n8, .vcvt 3 1 .s8 3 .n8],
      d.issues i 0 (tk d)) ∧ d.vroom (tk d) ∧ fctlEnables (tk d).ctx.fctl = 0 := by decide +kernel
theorem witness_VectorOthers_tables : (∀ i ∈ [.vdec 3 1 1 3 .c8, .venc 3 1 1 3 .c8, .vdec 3 1 1 3 .c4],
      tabled.issues i 0 (tk tabled)) ∧ (tabled.core 0 0).slots[(1#2).toNat]? = some (some table) ∧
    table.c4 = (VTy.c8 == .c4) ∧ table.c4 ≠ (VTy.c4 == .c4) := by decide +kernel

/-- With every flag enabled: sums of 1.0 and 2^-24, a conversion of 2^-24 to s32, and its encoding raise one. -/
def inexact : State := (floats 0x1F0).modCore 0 0 fun c => { c with slots := c.slots.set 1 (some table) }
def redCtx : Ctx := (floatRegs 0x1F0).setV 1 (BitVec.ofNat 256 (0x3F800000 + 0x33800000 * 2 ^ 32))
def reducing : State := start.modTask 0 fun t => { t with ctx := redCtx }
theorem reducing_ctx : (tk reducing).ctx = redCtx := by
  have h : start.task? 0 = some (tk start) := by decide +kernel
  simp [tk, reducing, State.task?_modTask h]
theorem witness_VectorOthers_enabled : (∀ i ∈ [.vred 3 1 .add 0 .f32, .vscan 3 1 .add 0 .f32], reducing.runs 0 (tk reducing) ∧
      (tk reducing).keptFor i = none ∧ reducing.vroom (tk reducing)) ∧
    fctlEnables redCtx.fctl &&& (scanLanes (combine .add .f32 (fctlRm redCtx.fctl).arith (fctlFtz redCtx.fctl))
      (redLanes .f32 0 1 redCtx) none).2 ≠ 0 := by decide +kernel
theorem witness_VectorOthers_converts : (∀ i ∈ [.vcvt 3 2 .s32 0 .f32, .venc 3 2 1 0 .c8], inexact.runs 0 (tk inexact) ∧
      (tk inexact).keptFor i = none) ∧
    (convert .f32 .s32 (fctlRm (0x1F0 : Word)) false (lane .f32 ((floatRegs 0x1F0).getV 2) 0)).2 &&& fctlEnables 0x1F0 ≠ 0 ∧
    (table.encode (lane .n32 ((floatRegs 0x1F0).getV 2) 0)).2 &&& fctlEnables 0x1F0 ≠ 0 := by decide +kernel
/-- g6 and g7 add up to 0x201ff8, near the end of a line; v2 holds offsets. -/
def vectors : State := (setg d [(6, 0x201000), (7, 0xFF8), (8, 1)]).modTask 0 fun t =>
  { t with ctx := t.ctx.setV 2 (BitVec.ofNat 256 (0x10 + 0x0F * 2 ^ 32 + 0x18 * 2 ^ 64)) }
theorem witness_VectorMemory : (∀ i ∈ [.vld 3 6 7 0 .n64, .vst 3 6 7 3 .n64, .vld 3 6 8 0 .n64, .vst 3 6 8 0 .n64],
      vectors.issues i 0 (tk vectors)) ∧ vectors.vroom (tk vectors) ∧
    ((tk vectors).ctx.src 6 + (tk vectors).ctx.src 7).toNat % VTy.bytes .n64 = 0 ∧
    ((tk vectors).ctx.src 6 + (tk vectors).ctx.src 8).toNat % VTy.bytes .n64 ≠ 0 := by decide +kernel
theorem witness_VectorMemory_runs :
    meets (storeBytes 0 0x201FF8 ((activeBytes .n64 ((tk vectors).ctx.getM 3)).map fun o =>
        (o, ((tk vectors).ctx.getV 3).extractLsb' (8 * o) 8)) .dflt false)
      (vectors.queued 0 (tk vectors) (.vst 3 6 7 3 .n64)) (fun _ _ => true) = true ∧
    meets (loadLanes 0 (tk vectors) .n32 0x201000 [(0, 0x10)]) (vectors.queued 0 (tk vectors) (.vldx 3 6 2 4 .n32))
      (fun _ _ => true) = true ∧
    meets (storeLanes 0 .n32 0x201000 [(0x10, 7)]) (vectors.queued 0 (tk vectors) (.vstx 3 6 2 4 .n32))
      (fun _ _ => true) = true ∧
    meets (loadRuns 0 (tk vectors) 0x201000 (runsOf 0x201000 [0, 1, 2])) (vectors.queued 0 (tk vectors) (.vld 3 6 7 0 .n64))
      (fun _ _ => true) = true := by decide +kernel
/-- VIOTA and VADD of n8 behind the pc; counts of 3, 257 and 0; and inside the first repetition. -/
def iotaWord : Word32 := (encode (.viota 1 0 .n8)).headD 0
def addWord : Word32 := (encode (.vadd 3 1 2 0 .n8)).headD 0
def repeats : State :=
  let s := setg d [(3, 3), (4, 257), (6, 0)]
  { s with mem := s.mem.setAll (cellsAt 0x100014 (toBytes 4 iotaWord.toNat ++ toBytes 4 addWord.toNat)) }
def record : Vrep := ⟨0x200010, true, true, 3, [iotaWord, addWord], 7, 2, 1⟩
def inside : State := repeats.modTask 0 fun t => { t with ctx := { t.ctx with vrep := some record } }
theorem witness_VrepRuns_issue : (∀ a ∈ [(3 : GReg), 4, 6], repeats.issues (.vrep 0 a 7) 0 (tk repeats)) ∧
    (tk repeats).ctx.running = none ∧ meets (fetchBody 0 (tk repeats) 0x200014 1) repeats
      (fun l _ => l == [iotaWord]) = true := by decide +kernel
theorem witness_VrepRuns_body : inside.runs 0 (tk inside) ∧ (tk inside).ctx.running = some record ∧
    record.body[record.idx]? = some addWord ∧
    bodyInstr addWord = some (.vadd 3 1 2 0 .n8) ∧
    (vectorBody (stepped (BitVec.ofNat 5 (record.rep * record.stride)) (.vadd 3 1 2 0 .n8))).isSome = true := by
  decide +kernel

/-- A task descriptor at 0x201000, a gang's in the task's own window, at g11; g6 asks for two dependences, g8 for none, g10
for a detached task; h3 holds a future, the one record in use. -/
def spawner : State :=
  let s := fill (setg d [(1, 0x201000), (6, 2), (7, 5), (8, 0), (10, 0x20000), (11, Config.windowBase + 0x8000)])
    0x101000 [0x200000, 0x020001, 0, 0, 0, 0, 0, 0]
  let s := (seth s [(3, handle s 1)]).modVd 0 fun v => { v with futs := [(1, v.fut 1)] }
  left (storeBytes 0 (Config.windowBase + 0x8000) (cellsAt 0 ([0x201000, 0x99, 0x11, 0].flatMap (toBytes 8))) .dflt false) s
def oneLeft (s : State) : Bool := ((s.vd 0).futs.map (·.1) == [1]) && ((s.vd 0).futQuota == 256)
theorem witness_SpawnResults : (∀ b ∈ [(6 : GReg), 8, 10], spawner.issues (.spawn 1 1 b) 0 (tk spawner) ∧
      spawner.issues (.spawnPass 1 1 b 3) 0 (tk spawner) ∧ ((tk spawner).ctx.getG b).toNat < 2 ^ 18 ∧
      ((tk spawner).ctx.getG b).getLsbD 16 = false) ∧ (tk spawner).ctx.getH 3 ≠ 0 := by decide +kernel
theorem witness_SpawnResults_desc : meets (readDesc 0 (tk spawner) 0x201000) spawner (fun _ s1 =>
    s1.goodHandle 0 ((tk spawner).ctx.getH 3) && (s1.fut 0 1).reach + 1 ≤ 2 ^ 24 - 1) = true := by decide +kernel
theorem witness_SpawnResults_record (f : Fut) : ∃ x s1 n s2, readDesc 0 (tk spawner) 0x201000 spawner = .ok (x, s1) ∧
    newFut 0 f s1 = .ok (n, s2) := newFut_meets f (by decide +kernel)
theorem witness_GangAndFork_gang : spawner.issues (.gang 2 11) 0 (tk spawner) ∧ ((tk spawner).ctx.src 11).toNat % 32 = 0 ∧
    meets (loadBytes 0 (tk spawner) ((tk spawner).ctx.src 11).toNat 32 .dflt false) spawner (fun l s0 =>
      dwordIn l 16 == 0x11 && dwordIn l 24 == 0 && dwordIn l 0 == 0x201000 && (s0.vd 0).tileQuota == 8 &&
      meets (readDesc 0 (tk spawner) 0x201000) s0 fun x s1 => x.scratch == 256 && oneLeft s1) = true := by decide +kernel
/-- Every other thread of the device's compute tiles runs a recruit. -/
def crowded : State := { spawner with tasks := spawner.tasks ++ ([0, 1, 70, 71, 72].flatMap fun n => (placesOf n).map fun p =>
  (100 + n * 16 + p.core * 4 + p.thread, { vd := 0, ident := .recruit 4 0, status := .running p, last := p })) }
theorem witness_GangAndFork_fork : (∀ b ∈ [(6 : GReg), 8], spawner.issues (.fork 2 1 b) 0 (tk spawner)) ∧
    (tk spawner).ctx.getG 8 = 0 ∧ (tk spawner).ctx.getG 6 ≠ 0 ∧ meets (readDesc 0 (tk spawner) 0x201000) spawner
      (fun x s1 => oneLeft s1 && ((s1.placeOverdue 0 x.prio).overdue 0 x.prio).isEmpty &&
        !(((fanOut 0).flatMap fun k => (s1.placeOverdue 0 x.prio).idleThreads 0 x k).take 1).isEmpty) = true := by
  decide +kernel
theorem witness_GangAndFork_busy : crowded.issues (.fork 2 1 6) 0 (tk crowded) ∧
    meets (readDesc 0 (tk crowded) 0x201000) crowded
      (fun x s1 => oneLeft s1 && ((fanOut 0).flatMap fun k => s1.idleThreads 0 x k).isEmpty) = true := by decide +kernel

/-- h0 of the task's own future, h1 of one that is DONE, h2 of a PENDING one, h5 of none; empty memory and a handle at the
slots g6 and g7. -/
def holder : State := setg (seth (fill d 0x101100 [0, (handle d 2).toNat])
  [(0, handle d 0), (1, handle d 2), (2, handle d 1), (5, 0x1234567800000000)]) [(6, 0x201100), (7, 0x201108)]
/-- The count of the DONE future is full; the wait of the PENDING one holds its own reference. -/
def fullCount : State := holder.modFut 0 2 fun f => { f with reach := 2 ^ 24 - 1 }
def waiting : State := holder.modTask 0 fun t => { t with waitReacher := some (handle d 1) }
theorem witness_HandleResults : (∀ i ∈ [.fwait 1 9 10, .ftest 1 9, .ftest 7 9, .fcancel 1, .fref 3 1, .fref 3 7, .fdrop 1, .self 3,
      .fpin 1 6, .ftake 3 6, .ftake 3 7], holder.issues i 0 (tk holder)) ∧
    holder.goodHandle 0 ((tk holder).ctx.getH 1) = true ∧ (tk holder).ctx.getH 1 ≠ 0 ∧ (tk holder).ctx.getH 7 = 0 ∧
    hIndex ((tk holder).ctx.getH 1) = 2 ∧ (tk holder).ident.index = 0 ∧ finalState (holder.fut 0 2).state = true ∧
    (holder.fut 0 0).reach + 1 ≤ 2 ^ 24 - 1 ∧ (holder.fut 0 2).reach + 1 ≤ 2 ^ 24 - 1 := by decide +kernel
theorem witness_HandleResults_slots :
    meets (slotAt 0 (tk holder) 0x201100 (roomFor 0 (handle d 2) 1)) holder (fun x s1 => x.2.2 == 0 &&
      found (slotWrite (tk holder) 0x201100 x.1 x.2.1 (handle d 2)) s1) = true ∧
    meets (slotAt 0 (tk holder) 0x201108 (pure ())) holder (fun x s1 => x.2.2 == handle d 2 && s1.goodHandle 0 x.2.2 &&
      found (slotWrite (tk holder) 0x201108 x.1 x.2.1 0) s1) = true := by decide +kernel
theorem witness_HandleStops : (∀ i ∈ [.fwait 7 9 10, .fwait 5 9 10, .fwait 2 9 10, .fcancel 5, .ftest 5 9, .fref 3 5, .depdec 5],
      holder.issues i 0 (tk holder)) ∧ holder.goodHandle 0 ((tk holder).ctx.getH 5) = false := by decide +kernel
theorem witness_HandleStops_wait : holder.goodHandle 0 ((tk holder).ctx.getH 2) = true ∧
    finalState (holder.fut 0 1).state = false ∧ (holder.fut 0 1).reach + 1 ≤ 2 ^ 24 - 1 ∧
    waiting.issues (.fwait 2 9 10) 0 (tk waiting) ∧ (tk waiting).waitReacher.isSome = true := by decide +kernel
theorem witness_HandleStops_count : fullCount.issues (.fref 3 1) 0 (tk fullCount) ∧
    fullCount.goodHandle 0 ((tk fullCount).ctx.getH 1) = true ∧ (fullCount.fut 0 2).reach = 2 ^ 24 - 1 := by decide +kernel

/-- g6 a sleep of 1,023 cycles, g7 of 1,024; g8 addresses a handle of the PENDING child. -/
def worker : State := setg (fill holder 0x101100 [(handle d 1).toNat]) [(6, 1023), (7, 1024), (8, 0x201100)]
theorem witness_TaskResults : (∀ i ∈ [.fdone 1, .exit 1, .depdec 2, .depdecMem 8, .sleep 0, .sleep 6, .sleep 7, .yield],
      worker.issues i 0 (tk worker)) ∧ (tk worker).ident = .ordinary 0 ∧ (tk worker).ctx.getH 2 ≠ 0 ∧
    worker.goodHandle 0 ((tk worker).ctx.getH 2) = true ∧ hKind ((tk worker).ctx.getH 2) = 1 ∧ (worker.fut 0 1).dep ≠ 0 ∧
    (doomed worker).runs 0 (tk (doomed worker)) ∧ (tk (doomed worker)).delivered = true ∧
    meets (loadDword 0 (tk worker) 0x201100) worker (fun x s1 => x == handle d 1 && s1.goodHandle 0 x) = true := by
  decide +kernel

/-- Group 3 has this member alone, group 4 another one that has not arrived, group 5 this one has arrived at; g6 is beyond
the last id; g7 and g8 address the window of tile 0 and a tile of role compute. -/
def grouped : State := setg d [(2, 5), (3, 3), (4, 4), (5, 7), (6, 4096), (7, Config.windowBase + 0x8000), (8, Config.windowBase + 4 * 2 ^ 24),
  (9, 4095)]
theorem witness_GroupResults : (∀ i ∈ [.gjoin 5, .gjoin 9, .gjoin 4, .gleave 3, .garrive 4, .garrive 2, .gbar 3 10, .gbar 2 10, .gjoin 6,
      .gleave 6, .gbar 6 10, .garrive 5, .xput 7 3, .xput 8 3], grouped.issues i 0 (tk grouped)) ∧
    (grouped.group 0 7).member 0 = false ∧ (grouped.group 0 3).member 0 = true ∧ (grouped.group 0 3).hasArrived 0 = false ∧
    (grouped.arriveAt 0 3 0).canFire 0 3 = true ∧ (grouped.group 0 5).hasArrived 0 = true ∧
    (tk grouped).owns 0 0x8000 = true ∧ (grouped.entry 0 4).role = 1 ∧ (grouped.entry 0 4).state ≠ 3 := by decide +kernel

/-- g1 to g4 name the queue of three entries, the empty one, the priority one and none; g5 storage lid 1, g6 lid 0. -/
def queued : State := setg d [(1, 0x00100001), (2, 0x00101001), (3, 0x00102001), (4, 0x00103001), (5, 1), (6, 0), (7, 2 ^ 13),
  (8, 0x00100001)]
def noSlot : State := queued.modVd 0 fun v => { v with queues := (List.range 256).map fun i => ((1, i), { prio := false }) }
def noRoom : State := queued.modVd 0 fun v => { v with queues := [((1, 0), { prio := false, entries := List.replicate 256 7 })] }
theorem witness_QueueResults_new : ∀ a ∈ [(5 : GReg), 6, 7], queued.issues (.qnew 9 a) 0 (tk queued) := by decide +kernel
theorem witness_QueueResults_slot : (queued.entry 0 1).role = 2 ∧ (queued.entry 0 1).state = 0 ∧ (queued.entry 0 0).role ≠ 2 ∧
    (look (queued.vd 0).queues (1, 3)).isNone = true ∧ (∀ j < 3, (look (queued.vd 0).queues (1, j)).isSome = true) := by
  decide +kernel
theorem all_there (q : Queue) (i : Nat) (l : List Nat) (h : i ∈ l) :
    (look (l.map fun j => ((1, j), q)) ((1, i) : Nat × Nat)).isSome = true := by
  induction l with
  | nil => cases h
  | cons x r ih =>
    simp only [List.map_cons, look]
    split
    · rfl
    · rcases List.mem_cons.1 h with rfl | h
      · exact absurd rfl ‹_›
      · exact ih h
theorem witness_QueueResults_none : noSlot.issues (.qnew 9 5) 0 (tk noSlot) ∧
    (∀ i < 256, (look (noSlot.vd 0).queues (1, i)).isSome = true) :=
  ⟨by decide +kernel, fun i h => by
    have : (noSlot.vd 0).queues = (List.range 256).map fun j => ((1, j), { prio := false }) := by decide +kernel
    rw [this]; exact all_there _ i _ (List.mem_range.2 h)⟩
theorem witness_QueueResults_near : (∀ i ∈ [.qfree 1, .qbind 3 1, .qbind 3 0, .qpush 1 4, .qpop 9 1, .qpop 9 2, .qlen 9 3],
      queued.issues i 0 (tk queued)) ∧ queued.packets = [] ∧ (queued.release 0 .module).packets = [] ∧
    ((queued.queue? 0 0x00101001).map (·.entries)) = some [] ∧
    ((queued.queue? 0 0x00100001).map (·.entries)) = some [11, 22, 33] := by decide +kernel
theorem witness_QueueResults_known : queued.queueHeld 0 0x00102001 = false ∧ (queued.queue? 0 0x00102001).isSome = true := by
  decide +kernel
theorem witness_QueueResults_push : queued.queueHeld 0 0x00100001 = false ∧
    ((queued.release 0 .module).queue? 0 0x00100001).isSome = true := by decide +kernel
theorem witness_QueueResults_held : noRoom.issues (.qpush 1 4) 0 (tk noRoom) ∧ noRoom.queueHeld 0 0x00100001 = false ∧
    ((noRoom.release 0 .module).queue? 0 0x00100001).isSome = true ∧
    ((noRoom.release 0 .module).push 0 0x00100001 { prio := false, entries := List.replicate 256 7 } 4 (.task 0)).2 = true := by
  decide +kernel
def sender : State := queued.modVd 0 fun v => { v with futs := [(1, v.fut 1)] }
theorem witness_QueueResults_remote : sender.issues (.qenq 4 8 3) 0 (tk sender) ∧
    ((tk sender).ctx.src 8).extractLsb' 32 16 = sender.moduleId ∧ oneLeft sender = true := by decide +kernel
/-- g8 names a queue of module 7, to which a route leads, or none. -/
def away (l : List (Nat × Nat)) : State := { setg sender [(8, 0x700100001)] with routes := l }
theorem witness_QueueResults_away : ∀ l ∈ [[(7, 0)], []], (away l).issues (.qenq 4 8 3) 0 (tk (away l)) ∧
    ((tk (away l)).ctx.src 8).extractLsb' 32 16 ≠ (away l).moduleId ∧ oneLeft (away l) = true ∧
    ((away l).routes.any fun r => r.1 = 7) = !l.isEmpty := by decide +kernel
theorem witness_QueueResults_refused : (∀ i ∈ [.qfree 4, .qlen 9 4, .qbind 3 4, .qpop 9 4, .qpush 4 3], queued.issues i 0 (tk queued)) ∧
    queued.queueHeld 0 0x00103001 = false ∧ queued.queue? 0 0x00103001 = none ∧
    (queued.release 0 .module).queue? 0 0x00103001 = none := by decide +kernel
/-- g1 to g6: entries with a role, with a notice of kind 1 and of kind 3, with no role, with a lease, and beyond the map;
g8 to g10: a lease of 1, of 255 and of 256. -/
def rolled : State := setg d [(1, 0), (2, 6), (3, 7), (4, 3), (5, 8), (6, 4096), (8, 1), (9, 255), (10, 256)]
theorem witness_RoleResults : (∀ i ∈ [.lease 1 8, .lease 3 9, .lease 2 8, .lease 4 8, .lease 1 10, .lease 1 0, .unlease 5, .unlease 1,
      .rack 2, .rlook 7 1, .rlook 7 6], rolled.issues i 0 (tk rolled)) ∧
    (rolled.vd 0).leasedEntries + 1 ≤ (rolled.vd 0).heldEntries / 2 ∧ (rolled.entry 0 0).role ≠ 0 ∧
    (rolled.entry 0 0).state = 0 ∧ (rolled.entry 0 3).role = 0 := by decide +kernel
theorem witness_RoleResults_notice : ((rolled.entry 0 6).notice.map (·.kind)) = some 1 ∧ (rolled.entry 0 6).state = 1 ∧
    ((rolled.entry 0 7).notice.map (·.kind)) = some 3 ∧ (rolled.entry 0 6).role ≠ 0 ∧ (rolled.entry 0 7).role ≠ 0 := by
  decide +kernel
/-- The notice of lid 6 takes effect at a later tide. -/
def noticed : State := rolled.modEntry 0 6 fun e => { e with notice := some ⟨1, 0, 0x200000, false, true⟩ }
theorem witness_RoleResults_withdraws : noticed.issues (.lease 2 8) 0 (tk noticed) ∧ (noticed.entry 0 6).state = 1 ∧
    (noticed.entry 0 6).notice = some ⟨1, 0, 0x200000, false, true⟩ ∧ noticed.cycles < 0x200000 := by decide +kernel
theorem witness_RoleResults_port : (ports rolled).issues (.rlook 25 1) 0 (tk (ports rolled)) := by decide +kernel

/-- A region's record in the task's own window, the register of the region table naming it; and the region open, with one
line of its own in the undo area. -/
def snapped : State := left (storeBytes 0 (Config.windowBase + 0x8000)
    (cellsAt 0 ([0x400000, 0x10000, 0x205000, 400].flatMap (toBytes 8))) .dflt false)
  ((setg d [(1, 0), (3, 8), (4, 0x400100), (6, 7)]).modVd 0 fun v => { v with regionTable := Config.windowBase + 0x8000 })
def openRegion : Region :=
  { base := 0x400000, size := 0x10000, undo := 0x205000, undosize := 336, pins := [held] }
def opened : State := (fill snapped 0x105000 [1, 1, 1]).modVd 0 fun v => { v with regions := [(0, openRegion)] }
theorem witness_SnapshotResults : (∀ i ∈ [.snapopen 1, .snapopen 3, .snapcommit 1, .snapcommit 6, .snaproll 1 4],
      snapped.issues i 0 (tk snapped)) ∧ (∀ i ∈ [.snapopen 1, .snapcommit 1, .snaproll 1 4], opened.issues i 0 (tk opened)) ∧
    look (snapped.vd 0).regions 0 = none ∧ look (opened.vd 0).regions 0 = some openRegion := by decide +kernel
theorem witness_SnapshotResults_open : meets (readRegion 0 (tk snapped) (snapped.vd 0).regionTable) snapped (fun l s1 =>
    dwordIn l 0 == 0x400000 && dwordIn l 8 == 0x10000 && dwordIn l 16 == 0x205000 && dwordIn l 24 == 400 &&
    found (pinUndo 0 0 (0x205000 + 400) (400 / 65536 + 2) 0x205000) s1) = true := by decide +kernel
theorem witness_SnapshotResults_roll : ((opened.release 0 .module).undoDword openRegion 0) = 1 ∧
    found (restoreLines 0 openRegion ((tk opened).ctx.src 4) (min ((opened.release 0 .module).undoDword openRegion 0)
      ((openRegion.undosize - 64) / 272))) (opened.release 0 .module) = true := by decide +kernel

/-- Each register that may be read, written, or neither; the supervisor's ones in supervisor mode. -/
theorem witness_SystemRegisters :
    ∀ i ∈ [Instr.srrd 5 0, .srrd 5 4, .srrd 5 0x200, .srwr 5 0, .srwr 5 1], d.issues i 0 (tk d) := by decide +kernel
theorem witness_SystemRegisters_supervisor :
    ∀ i ∈ [Instr.srrd 5 0x100, .srrd 5 0x104, .srwr 5 2, .srwr 5 3, .srwr 5 5, .srwr 5 0xFF, .srwr 5 0x100, .srwr 5 0x104,
      .srwr 5 0x105, .srwr 5 0x200, .srwr 5 0xFFF], (sup d).issues i 0 (tk (sup d)) := by decide +kernel

/-- A translation in the tile's TLB; and a copy command of another core that pins it. -/
def translated : State := (sup d).modTile 0 fun t => { t with tlb := [held] }
def pinned : State := translated.modCore 0 1 fun c => { c with
  copy := [{ id := 1, task := 0, vd := 0, instr := .rpoint, fctl := 0, vals := [], pins := [held], fut := none }] }
def covered (s : State) (x : TlbEntry) : Bool :=
  (x.vpn * pageSize x.level) / pageSize (s.pageAround 0 0x201000) == 0x201000 / pageSize (s.pageAround 0 0x201000)
theorem witness_TinvResults : ∀ s ∈ [translated, pinned], (∀ i ∈ [.tinv 1, .tinvAll], s.issues i 0 (tk s)) ∧
    ((s.pinners.any fun c => c.pins.any (covered s)) = true ↔ s = pinned) := by decide +kernel


/-- g1 addresses memory, g3 a line of the task's own window, g4 its start; g6 is a length, g7 a group; a store of the task waits in its
buffer. -/
def pusher : State := (setg d [(1, 0x201000), (3, Config.windowBase + 0x8100), (4, Config.windowBase + 0x1000), (6, 256), (7, 5),
  (8, 0x100)]).modTask 0 fun t => { t with sbuf := [⟨0x201000, .phys 0x101000 false, [(1, 0)], false, 0, 0, 0, false⟩] }
def head : CmdHead := { tag := 3, fut := none, chain := none }
def shape : Shape := { acc := 2, m := .m16, n := 1 }
def here (r : GReg) (ty : BitVec 4 := 2) : Opnd := .mem false r ty 0 0
def tcopy : Instr := .tcopy head (here 1) (here 3) 6
theorem witness_CommandPush_issues : ∀ i ∈ [tcopy, .mma head shape (here 1) (here 3) .none, .mmas head shape (here 1) (here 3) .none,
    .accz head shape, .accld head shape (here 1), .accst head shape (here 1) 0 0 1, .tfill head (here 1) 6 6,
    .tgather head (here 1) (here 1) (here 3) 6, .tscatter head (here 1) (here 1) (here 3) 6, .txchg head shape 7,
    .tsub head (here 1) (.berth 4 0 1) 6 false, .tabld head 1 (here 1), .qfence head .copy 5, .tunsub head (.berth 4 0 1)],
    pusher.issues i 0 (tk pusher) := by decide +kernel
theorem witness_CommandPush_copies : pusher.ownChecks 0 (tk pusher) (.tcopy head (here 1) (here 3) 6) ((Instr.sources (.tcopy head (here 1) (here 3) 6)).map (tk pusher).ctx.src) ∧
    pusher.ownChecks 0 (tk pusher) (.tfill head (here 1) 6 6) ((Instr.sources (.tfill head (here 1) 6 6)).map (tk pusher).ctx.src) ∧
    pusher.ownChecks 0 (tk pusher) (.tgather head (here 1) (here 1) (here 3) 6) ((Instr.sources (.tgather head (here 1) (here 1) (here 3) 6)).map (tk pusher).ctx.src) ∧
    pusher.ownChecks 0 (tk pusher) (.tscatter head (here 1) (here 1) (here 3) 6) ((Instr.sources (.tscatter head (here 1) (here 1) (here 3) 6)).map (tk pusher).ctx.src) :=
  ⟨by
    simp only [Machine.State.ownChecks]; decide +kernel, by
    simp only [Machine.State.ownChecks]; decide +kernel, by
    simp only [Machine.State.ownChecks]; decide +kernel, by
    simp only [Machine.State.ownChecks]; decide +kernel⟩
theorem witness_CommandPush_others : pusher.ownChecks 0 (tk pusher) (.accz head shape) ((Instr.sources (.accz head shape)).map (tk pusher).ctx.src) ∧
    pusher.ownChecks 0 (tk pusher) (.txchg head shape 7) ((Instr.sources (.txchg head shape 7)).map (tk pusher).ctx.src) ∧
    pusher.ownChecks 0 (tk pusher) (.tabld head 1 (here 1)) ((Instr.sources (.tabld head 1 (here 1))).map (tk pusher).ctx.src) ∧
    pusher.ownChecks 0 (tk pusher) (.qfence head .copy 5) ((Instr.sources (.qfence head .copy 5)).map (tk pusher).ctx.src) :=
  ⟨by
    simp only [Machine.State.ownChecks]; decide +kernel, by
    simp only [Machine.State.ownChecks]; decide +kernel, by
    simp only [Machine.State.ownChecks]; decide +kernel, by
    simp only [Machine.State.ownChecks]⟩
theorem witness_CommandPush_stream : pusher.ownChecks 0 (tk pusher) (.tsub head (here 1) (.berth 4 0 1) 6 false) ((Instr.sources (.tsub head (here 1) (.berth 4 0 1) 6 false)).map (tk pusher).ctx.src) := by
  simp only [Machine.State.ownChecks]; decide +kernel
theorem witness_CommandPush_matrix : pusher.ownChecks 0 (tk pusher) (.mma head shape (here 1) (here 3) .none) ((Instr.sources (.mma head shape (here 1) (here 3) .none)).map (tk pusher).ctx.src) :=
  ⟨by decide +kernel, rfl, rfl⟩
theorem witness_CommandPush_pages : meets (pinAll 0 (tk pusher) (rangeRuns tcopy (rangesOf tcopy (viewOf tcopy (tcopy.sources.map (tk pusher).ctx.src)))) [])
    (pusher.release 0 .tile) (fun _ s1 => meets (reserveAll 0 0 (rangesOf tcopy (viewOf tcopy (tcopy.sources.map
      (tk pusher).ctx.src)))) s1 (fun r s2 => r.isEmpty && decide (((s2.core 0 0).queue .copy).length < 16)) = true) = true := by decide +kernel
/-- No subscription, and one of the ring at g4 on core 2. -/
def subscribed : State := pusher.modCore 0 2 fun c => { c with sub := some {
  cmd := { id := 1, task := 0, vd := 0, instr := .rpoint, fctl := 0, vals := [], pins := [], fut := none }
  ring := 0, berths := 1, src := 0x201000, pull := false, total := 4 } }
theorem witness_TunsubResults : ∀ s ∈ [pusher, subscribed], s.issues (.tunsub head (.berth 4 0 1)) 0 (tk s) ∧
    (tk s).ringAt (ringOf (viewOf (.tunsub head (.berth 4 0 1)) ((Instr.sources (.tunsub head (.berth 4 0 1))).map
      (tk s).ctx.src)).c).1 (ringOf (viewOf (.tunsub head (.berth 4 0 1)) ((Instr.sources (.tunsub head (.berth 4 0 1))).map
      (tk s).ctx.src)).c).2 = some 0 := by decide +kernel
/-- With a future: the device has room for it. -/
def keeper : State := pusher.modVd 0 fun v => { v with futs := [(1, v.fut 1)] }
theorem witness_CommandPush_future : ∃ n u,
    cmdFuture 0 0 { head with fut := some 4 } (keeper.release 0 .tile) = .ok (some n, u) := by
  obtain ⟨n, u, h⟩ := newFut_room (s := keeper.release 0 .tile) (vd := 0) (g := (keeper.vd 0).fut 1)
    { kind := 2, state := 1, reach := 1 } (by decide +kernel) (by decide +kernel)
  exact ⟨n, u.putH 0 4 (handleOf (u.fut 0 n) n), by
    unfold cmdFuture; simp only [act_bind, h, act_modify, act_pure]⟩
/-- A c4 table at 0x201000: 0, 1, …, 7 times 0x1000, and their negatives. -/
def tabler : State := fill pusher 0x101000 ([1] ++ List.replicate 7 0 ++
  [0x100000000000, 0x300000002000, 0x500000004000, 0x700000006000,
   0x4100000040000, 0x4300000042000, 0x4500000044000, 0x4700000046000])
def tableReads : List (Except Nat (Nat × Byte)) := (tabler.engineRead 0 {
  id := 0, task := 0, vd := 0, instr := .tabld head 1 (here 1), fctl := 0, vals := [0x201000, 0], pins := [held], fut := none }
  0x201000 1088).1
def image : List Byte := plainBytes tableReads
theorem witness_CommandPush_table : (tableReads.all fun y => y.toBool) = true ∧ tableFault (ofBytes (image.take 8)) ((image.drop 8).take 56 |>.all (· == 0))
    (words32 256 (image.drop 64)) = none := by decide +kernel
/-- Task 2 is READY, homed in this cluster, and in another one. -/
def rdy (home : Nat) : Machine.Task := {
  vd := 0, ident := .ordinary 1, status := .ready, ctx := { regs with pc := 0x200040 }, prio := 2
  descPrio := 2, readytime := 5, home := home, context := some 0x500000 }
def dispatchable (home : Nat) : State := { d.setTask 2 (rdy home) with cycles := 0x3123456 }
def idler : Place := ⟨0, 1, 2⟩
theorem witness_DispatchEvents : (dispatchable 0).deviceAt idler = some 0 ∧ (dispatchable 0).isIdle idler = true ∧
    (dispatchable 0).modeSettled 0 idler.tile ∧ (dispatchable 0).queueFor 0 idler ((dispatchable 0).vd 0).depthFirst = [(2, rdy 0)] ∧
    ((dispatchable 0).tasks.all fun x => x.2.direct.isNone) = true ∧
    (dispatchable 0).heldBackBy 0 idler 2 ((dispatchable 0).vd 0).depthFirst = [] ∧ (rdy 0).cls ≠ 1 := by decide +kernel
/-- A pre-empted task of a higher level waits too: bound to no core, and to a core of another tile. -/
def heldBack (b : Option (Nat × Nat)) : State := (dispatchable 0).modTask 1 fun t =>
  { t with status := .ready, ran := true, preempted := true, prio := 5, descPrio := 5, last := idler, home := 0, bound := b }
theorem witness_DispatchEvents_pick : ∀ b ∈ [none, some (1, 0)],
    ((heldBack b).heldBackBy 0 idler (rdy 0).prio ((heldBack b).vd 0).depthFirst).map (·.1) = [1] ∧
    (((heldBack b).heldBackBy 0 idler (rdy 0).prio ((heldBack b).vd 0).depthFirst).any fun x =>
      (heldBack b).waitsFor 0 x.2 idler && (heldBack b).mayRun x.2 idler) = b.isNone ∧
    ((heldBack b).task? 1).map (·.cls) = some 1 := by decide +kernel
/-- What waits in a cluster for a thread of another. -/
def able (s : State) (c : Nat) : List (Nat × Machine.Task) :=
  s.tasks.filter fun x => s.waitsFor 0 x.2 idler && x.2.home = c && x.2.bound.isNone
theorem witness_DispatchEvents_steal : (dispatchable 5).isIdle idler = true ∧
    (dispatchable 5).queueFor 0 idler ((dispatchable 5).vd 0).depthFirst = [] ∧
    (probeOrder (clusterOf idler.tile)).find? (fun c => !(able (dispatchable 5) c).isEmpty) = some 5 ∧
    (dispatchable 5).pick 0 idler ((dispatchable 5).vd 0).depthFirst ((dispatchable 5).inOrder ((dispatchable 5).vd 0).depthFirst
      (able (dispatchable 5) 5)) = some (2, rdy 5) ∧
    (dispatchable 5).mayRun (rdy 5) idler = true := by decide +kernel
theorem witness_DispatchEvents_time : (dispatchable 0).isIdle ⟨0, 0, 0⟩ = false ∧
    (dispatchable 0).taskAt ⟨0, 0, 0⟩ = some (0, tk (dispatchable 0)) ∧ (tk (dispatchable 0)).due = false ∧
    (tk (dispatchable 0)).since + 2 ^ 20 ≤ (dispatchable 0).cycles ∧ (dispatchable 0).task? 2 = some (rdy 0) ∧ (rdy 0).prio < 7 ∧
    (rdy 0).readytime + 2 ^ 20 * ((rdy 0).prio - (rdy 0).descPrio + 1) ≤ (dispatchable 0).cycles := by decide +kernel

/-- Task 0 has issued SPAWN in this cycle, in a device in depth-first mode; task 1 runs on the next thread of its core. -/
def crowd (n : Nat) : State := (d.modCore 0 0 fun c => { c with
    lastSpawn := c.lastSpawn.set 0 (some 0), passed := c.passed.set 0 (n = 1) }).modTask 1 fun t =>
  { t with status := .running ⟨0, 0, 1⟩ }
def deep (n : Nat) : State := (crowd n).modVd 0 fun v => { v with depthFirst := true }
theorem witness_DispatchEvents_slot : (crowd 0).taskAt ⟨0, 0, 0⟩ = some (0, tk (crowd 0)) ∧
    (∀ i ∈ [0, 1], (crowd 0).limited (tk (crowd 0) i) ⟨0, 0, i⟩ = false ∧ ((crowd 0).core 0 0).passed.toList.getD i false = false) ∧
    ((crowd 0).taskAt ⟨0, 0, 2⟩).isNone = true ∧ ((crowd 0).taskAt ⟨0, 0, 3⟩).isNone = true ∧
    (crowd 0).eligible ⟨0, 0, 1⟩ = true := by decide +kernel
theorem witness_DispatchEvents_limited : ∀ n ∈ [0, 1], (deep n).taskAt ⟨0, 0, 0⟩ = some (0, tk (deep n)) ∧
    (deep n).eligible ⟨0, 0, 0⟩ = true ∧ (deep n).limited (tk (deep n)) ⟨0, 0, 0⟩ = true ∧
    ((deep n).core 0 0).passed.toList.getD 0 false = (n == 1) := by
  decide +kernel
theorem witness_DispatchEvents_halving : ∀ n ∈ [0, 1], ({ d with dies := d.dies.set 0 { (d.dies[0]) with
    master := n * 2 ^ 20 } } : State).dies.toList.head?.map (fun x => x.master / 2 ^ 20 - (d.cluster 0).halved) = some n := by
  decide +kernel

/-- Every thread of the device is taken, by recruits of a level not above the READY task's, all of them due. -/
def taken : State :=
  let s := dispatchable 0
  let l := [0, 1, 70, 71, 72].flatMap fun n => (placesOf n).filter fun p => p != ⟨0, 0, 0⟩
  { s with tasks := s.tasks ++ l.map fun p => (100 + p.tile * 16 + p.core * 4 + p.thread,
      { vd := 0, ident := .recruit 4 0, status := .running p, last := p, due := true, descPrio := 1 }) }
theorem witness_StopAndStartEvents_preemption : taken.task? 2 = some (rdy 0) ∧
    (∀ n ∈ taken.computeTiles 0, ∀ p ∈ placesOf n, taken.mayRun (rdy 0) p = false) := by decide +kernel
theorem witness_StopAndStartEvents_victim : (taken.task? 116).map (·.due) = some true ∧
    (taken.task? 116).map (·.status) = some (.running ⟨1, 0, 0⟩) ∧ taken.computes 0 1 = true ∧
    taken.mayFollow (rdy 0) 116 ⟨1, 0, 0⟩ = true := by decide +kernel
/-- Saving; doomed; stopping, with and without a started command. -/
def saving : State := d.quiesce 0 ⟨0, 0, 0⟩
def doom (s : State) (n : Nat) : State := s.modTask n fun t => { t with doomed := true }
def stopping : State := (doom d 0).modTask 0 fun t => { t with status := .stopping (some ⟨0, 0, 0⟩) }
def started : Cmd := { id := 1, task := 0, vd := 0, instr := .rpoint, fctl := 0, vals := [], pins := [], fut := none, started := true }
def busyStopping : State := stopping.modCore 0 0 fun c => { c with copy := [started] }
/-- An exchange of task 0 to lid 4 is held at its source, for lid 4 moves. -/
def xputHeld (s : State) : State := { s.modEntry 0 4 fun e => { e with state := 2 } with packets := [
  { hdr := { kind := 7, src := 0 }, body := .xput 0 0 0 4 8 77, goal := .place 0 0 (.window 4 8 false) }] }
theorem witness_StopAndStartEvents_save : ∀ s ∈ [saving, xputHeld saving], (tk s).status = .saving ⟨0, 0, 0⟩ ∧
    (tk s).doomed = false ∧ s.running 0 = false ∧ s.saveWaits 0 0 0 = !s.packets.isEmpty := by decide +kernel
theorem witness_StopAndStartEvents_doomed : (tk (doom d 0)).doomed = true ∧ (tk (doom d 0)).status = .running ⟨0, 0, 0⟩ ∧
    (tk (doom d 0)).delivered = false ∧ (tk (doom d 1) 1).status = .pending ∧ (tk (doom d 1) 1).doomed = true := by decide +kernel
theorem witness_StopAndStartEvents_reclaim : ∀ s ∈ [stopping, busyStopping],
    (tk s).status = .stopping (some ⟨0, 0, 0⟩) ∧ (s.vd 0).destroying = false ∧ s.saveWaits 0 0 (tk s).last.tile = false ∧ (tk s).torn = false ∧
    ((s.tearDown 0).running 0 = true ↔ s = busyStopping) := by decide +kernel
/-- The device is being destroyed. -/
def destroyed (s : State) : State := s.modVd 0 fun v => { v with destroying := true }
theorem witness_StopAndStartEvents_destroyed : ((destroyed stopping).vd 0).destroying = true ∧
    (tk (destroyed stopping)).status = .stopping (some ⟨0, 0, 0⟩) ∧ (tk (destroyed stopping)).torn = false ∧
    (destroyed stopping).saveWaits 0 0 0 = false ∧ (xputHeld stopping).saveWaits 0 0 (tk (xputHeld stopping)).last.tile = true := by
  decide +kernel
def waiter : GangWait := ⟨4, 1, 3, 0x200000, 9, 0x100, 0, []⟩
def ganged : State := d.modVd 0 fun v => { v with gangs := [waiter, waiter] }
theorem witness_StopAndStartEvents_gang : (ganged.vd 0).gangs = [waiter, waiter] ∧ (ganged.vd 0).pwr = 0 ∧
    (ganged.vd 0).destroying = false ∧ ganged.overdue 0 0x100 = [] ∧ (ganged.gangTiles 0 waiter).isSome = true ∧ (ganged.vd 0).freeGroup.isSome = true := by
  decide +kernel

/-- A store in the buffer and two on the way; two vector instructions, the first of them bound. -/
def store1 : Store := ⟨0x201000, .phys 0x101000 false, [(1, 0x55)], false, 0, 0, 0, false⟩
def store2 : Store := ⟨0x201100, .phys 0x101100 false, [(1, 0x66)], true, 0, 0, 0, false⟩
/-- A packet of task 0 from tile 0, at home, or at its source. -/
def carry (b : Packet) (g : Goal) (at_ : Loc := .arrived) : Pkt := { hdr := { kind := 2, src := 0 }, body := b, goal := g, loc := at_ }
def flying : State := (d.modTask 0 fun t => { t with sbuf := [store1, store2] }).modTile 0 fun t =>
  { t with l1 := [((0, 0x101000 / 64), 5)] }
def sentOff (at_ : Loc) : State := { d with packets := [carry (.xput 0 0 0 0 0x1008 77) (.stop 0),
  carry (.store 0 0 store1) (.place 0 0 store1.target) at_] }
def lanes (b : Option Nat) : State := (d.modCore 0 1 fun c => { c with vq := [⟨0, .viota 1 0 .n8, b⟩, ⟨0, .viota 2 0 .n8, none⟩] }).modTile 0
  fun t => { t with lanes := t.lanes.set 2 (b.map fun _ => 1) }
theorem witness_CoreEvents_stores : (tk flying).sbuf = [store1, store2] ∧
    (∀ l ∈ [Loc.queue, .arrived], (sentOff l).nthStore 0 0 = some 1 ∧
      (sentOff l).packets[1]? = some (carry (.store 0 0 store1) (.place 0 0 store1.target) l)) ∧
    ({ sentOff .arrived with packets := (sentOff .arrived).packets.drop 1 } : State).mayReceive 0
      (carry (.store 0 0 store1) (.place 0 0 store1.target)) = true := by decide +kernel
theorem witness_CoreEvents_halving : (lanes none).laneDue 0 = 0 ∧
    ({ d with dies := d.dies.set 0 { (d.dies[0]) with master := 0x123456 } } : State).laneDue 0 ≠ 0 := by decide +kernel
theorem witness_CoreEvents_lanes : (2 < 4 ∧ ((lanes none).tile 0).lanes.toList[2]? = some none) ∧
    ((lanes none).tile 0).vserve = some 1 ∧ (((lanes none).tile 0).core 1).vhead = some 0 ∧
    (((lanes (some 2)).tile 0).core 1).vq = [⟨0, .viota 1 0 .n8, some 2⟩, ⟨0, .viota 2 0 .n8, none⟩] := by decide +kernel

def cmdOf (i : Instr) (st : Bool) : Cmd := {
  id := 1, task := 0, vd := 0, instr := i, fctl := 0
  vals := [0x201000, 0, 0x202000, 0, 0x140], pins := [held], fut := none, started := st }
def opnd (r : GReg) : Opnd := .mem false r 2 0 0
def hd0 : CmdHead := { tag := 3, fut := none, chain := none }
def shp : Shape := { acc := 2, m := .m16, n := 0 }
def copies (c : Cmd) : State := d.modCore 0 1 fun k => { k with copy := [c] }
def matrices (c : Cmd) : State := d.modCore 0 1 fun k => { k with matrix := [c], owner := some 0, acc := [(600, 5), (5, 6)] }
def copyCmd : Instr := .tcopy hd0 (opnd 1) (opnd 5) 2
theorem witness_EngineEvents_start : (∀ j < 4, ∀ x ∈ (((copies (cmdOf copyCmd false)).tile 0).core j).queue .copy, x.started = false) ∧
    ((List.range 4).map fun j => (((copies (cmdOf copyCmd false)).tile 0).served.toList.getD (engineNumber .copy) 3 + 1 + j) % 4).find?
      (fun j => ((copies (cmdOf copyCmd false)).startable 0 j .copy).isSome) = some 1 := by decide +kernel
theorem witness_EngineEvents_copy : ((copies (cmdOf copyCmd true)).core 0 1).queue .copy = [cmdOf copyCmd true] ∧
    (cmdOf copyCmd true).isFence = false ∧ (copies (cmdOf copyCmd true)).engineHeld 0 (cmdOf copyCmd true) = false ∧
    (copies (cmdOf copyCmd true)).berthsTaken (cmdOf copyCmd true) = true ∧
    (((({ copies (cmdOf copyCmd true) with cur := ⟨0, 1, 0⟩ } : State).flush (Pkt.engineOf 1)).doPackets 0 1 1 false
      (cmdOf copyCmd true).packets).findCmd 0 1 1).isSome = true := by decide +kernel
theorem witness_EngineEvents_fence : (cmdOf (.qfence hd0 .copy 5) false).isFence = true ∧
    (copies (cmdOf (.qfence hd0 .copy 5) false)).pendingAmong [] = false := by decide +kernel
theorem witness_EngineEvents_matrix : ∀ c ∈ [cmdOf (.tabld hd0 1 (opnd 1)) true, cmdOf (.accz hd0 shp) true],
    ((matrices c).core 0 1).queue .matrix = [c] ∧ c.isFence = false ∧ c.started = true ∧ (matrices c).engineHeld 0 c = false ∧
    (matrices c).berthsTaken c = true ∧ c.detail ≠ 2 := by decide +kernel
def sub (next drained : Nat) (f : Option Nat) : Sub := {
  cmd := cmdOf (.tsub hd0 (opnd 1) (.berth 4 0 1) 6 false) true, ring := 0, berths := 2, src := 0x201000, pull := false
  total := 4, next := next, drained := drained, filling := f }
def rings (u : Sub) (ws : List Nat) : State :=
  (fill d (sramKey 0 0x1000) ws).modCore 0 1 fun k => { k with sub := some u, stream := [u.cmd] }
theorem witness_EngineEvents_berths : ((rings (sub 1 0 none) [4, 0]).core 0 1).sub = some (sub 1 0 none) ∧
    (rings (sub 1 0 none) [4, 0]).berthWord 0 0 (1 % 2) = some 0 ∧ (rings (sub 1 0 none) [4, 0]).berthWord 0 0 0 = some 4 ∧
    ((rings (sub 2 1 (some 1)) [4, 1]).core 0 1).sub = some (sub 2 1 (some 1)) ∧
    (rings (sub 4 4 none) [0, 0]).engineHeld 0 (sub 4 4 none).cmd = false ∧
    (rings (sub 4 4 none) [0, 0]).subOver (sub 4 4 none) = true := by decide +kernel
theorem witness_EngineEvents_fills : ((List.range 4).map fun j => ((((rings (sub 1 0 none) [4, 0]).tile 0).served.toList.getD 3 3) + 1 + j) % 4).find?
      (fun j => ((rings (sub 1 0 none) [4, 0]).fillDue 0 j).isSome) = some 1 ∧
    (rings (sub 1 0 none) [4, 0]).isSaving 0 = false ∧ (rings (sub 2 1 (some 1)) [4, 1]).fillWaits (sub 2 1 (some 1)) = false ∧
    (rings (sub 2 1 (some 1)) [4, 2]).fillWaits (sub 2 1 (some 1)) = true := by decide +kernel
def message : State := { d with packets := [carry (.txchg 0 4 2 1 ⟨1, 1, [3]⟩) (.stop 0)] }
theorem witness_EngineEvents_message : message.packets[0]? = some (carry (.txchg 0 4 2 1 ⟨1, 1, [3]⟩) (.stop 0)) ∧
    message.mayReceive 0 (carry (.txchg 0 4 2 1 ⟨1, 1, [3]⟩) (.stop 0)) = true := by decide +kernel


/-- MMA and MMAS of operands of type 4 at 0x201000, whose rows read without error. -/
def n4 : Opnd := .mem false 4 2 0 0
def matrixCmd (sparse : Bool) : Cmd := {
  id := 1, task := 0, vd := 0, instr := if sparse then .mmas hd0 shp n4 n4 .none else .mma hd0 shp n4 n4 .none, fctl := 0
  vals := [0x201000, 0, 0x201000, 0], pins := [held], fut := none, started := true }
def argOf : Arg := ⟨n4, 0x201000, 0⟩
def started1 (sparse : Bool) : State :=
  ({ matrices (matrixCmd sparse) with cur := ⟨0, 1, 0⟩ } : State).flush (Pkt.engineOf 1)
def row (sparse : Bool) (i : Nat) : Bool :=
  (if sparse then (started1 true).sparseRow (matrixCmd true) argOf .none 0 none i
    else (started1 false).denseRow (matrixCmd false) argOf .none 0 none i).toBool
def dense (sparse : Bool) (i : Nat) : Bool :=
  ((started1 sparse).denseRow (matrixCmd sparse) argOf .none 0 none i).toBool
theorem witness_MatrixResults : ∀ p ∈ [true, false], (matrixCmd p).view.a = some argOf ∧ (matrixCmd p).view.b = some argOf ∧
    (matrixCmd p).detail ≠ 2 ∧ (matrices (matrixCmd p)).berthsTaken (matrixCmd p) = true ∧ (matrices (matrixCmd p)).engineHeld 0 (matrixCmd p) = false ∧ (∀ i < 16, row p i = true ∧ dense p i = true) := by decide +kernel
def carried (b : Packet) : State := { d with packets := [carry b (.stop 0)] }
def landed (n : Nat) : State := carried (.enqueue 0 5 0 (BitVec.ofNat 16 n) 0x00100001 9 4)
/-- A packet that the old home of lid 1 has sent on, at the new one, tile 17. -/
def sentOn (b : Packet) : State := { d with packets := [{ carry b (.tile 0 1) with
  hdr := { kind := 8, src := 3, dst := 17 }, origin := some 0 }] }
def first (s : State) : Pkt := (s.packets[0]?).getD (carry .plain (.stop 0))
theorem witness_ArrivalEvents : (∀ s ∈ [carried (.xput 0 0 0 0 0x1008 77), carried (.event 0 0 4), landed 0, landed 9],
      s.packets[0]? = some (first s) ∧ s.mayReceive 0 (first s) = true ∧ s.astray (first s) = false ∧ (first s).forwards = false ∧
      (s.packets.zipIdx.any fun q => (decide (q.2 < 0) || q.1.forwards) && q.1.sameIssuer (first s)) = false) ∧ (d.vd 0).pwr = 0 ∧
    (landed 0).moduleId = 0 ∧ (landed 0).enqueueBefore 0 0 0 0 0x00100001 = false ∧ (landed 9).enqueueBefore 0 0 0 9 0x00100001 = false ∧
    (look d.vds 0).isSome = true ∧ (d.vd 0).destroying = false ∧
    d.queueHeld 0 0x00100001 = false ∧ (d.queue? 0 0x00109001).isNone = true ∧ (d.queue? 0 0x00100001).isSome = true := by
  decide +kernel
theorem witness_ArrivalEvents_forwards : ∀ s ∈ [sentOn (.store 0 0 store1), sentOn (.xput 0 0 0 1 0x1008 77), sentOn (.request 4 0 7 []),
      sentOn (.enqueue 0 5 0 0 0x00100001 9 4)], s.packets[0]? = some (first s) ∧ s.mayReceive 0 (first s) = true ∧
    s.astray (first s) = false ∧ (first s).forwards = true := by decide +kernel
/-- An engine write that was sent on. -/
def sentWrite : State := { d with packets := [{ carry (.engine 0 1 (store8 (.window 1 8 false))) (.place 0 0 (.window 1 8 false)) with
  hdr := { kind := 8, src := 3, dst := 17 }, origin := some 0 }] }
theorem witness_ArrivalEvents_engine : (first sentWrite).goal = .place 0 0 (store8 (.window 1 8 false)).target ∧
    sentWrite.mayReceive 0 (first sentWrite) = true ∧ sentWrite.astray (first sentWrite) = false ∧
    (first sentWrite).forwards = true := by decide +kernel
/-- At stop 3, which lid 1 has left. -/
def stray (b : Packet) : State := { d with packets := [{ carry b (.tile 0 1) with hdr := { kind := 7, src := 0, dst := 3 } }] }
theorem witness_ArrivalEvents_stray : (stray (.xput 0 0 0 1 0x1008 77)).mayReceive 0 (first (stray (.xput 0 0 0 1 0x1008 77))) = true ∧
    (stray (.xput 0 0 0 1 0x1008 77)).astray (first (stray (.xput 0 0 0 1 0x1008 77))) = true := by decide +kernel
def fireable : State := d.modVd 0 fun v => { v with groups := [(4, { members := [(0, 0)], arrived := [(0, 0)] })] }
def heldPush : Queue := { prio := false, entries := [1], held := [(7, .task 1), (8, .peer 3)] }
/-- A popper waits beside it; and no more spill space is to be had. -/
def pushTaken : State := (d.modVd 0 fun v => { v with queues := [((1, 0), { heldPush with poppers := [1] })] })
def pushFull : State := d.modVd 0 fun v => { v with queues := [((1, 0), { heldPush with entries := List.replicate 256 7 })] }
def pushHeld : State := d.modVd 0 fun v => { v with queues := [((1, 0), heldPush)] }
/-- Task 0 waits for a full fault ring that has room again, and, in the other, one record away from full. -/
def ringWaits (n : Nat) : State := fill ((d.modTask 0 fun t => { t with status := .blocked (.ring (1, 4, 0x209000, 0, 0x14000)) }).modVd 0 fun v =>
  { v with faultPins := [held], faultRing := 0x205000 }) 0x105000 [n]
theorem witness_ArrivalEvents_rest : fireable.canFire 0 4 = true ∧ look (pushHeld.vd 0).queues (1, 0) = some heldPush ∧
    pushHeld.firstPopper heldPush = none ∧ pushHeld.hasRoom 0 0x00100001 heldPush = true ∧
    pushTaken.firstPopper { heldPush with poppers := [1] } = some 1 ∧
    pushFull.firstPopper { heldPush with entries := List.replicate 256 7 } = none ∧
    pushFull.hasRoom 0 0x00100001 { heldPush with entries := List.replicate 256 7 } = false ∧
    (look ((destroyed pushHeld).vd 0).queues (1, 0)).isSome = true ∧ ((destroyed pushHeld).vd 0).destroying = true := by decide +kernel
theorem witness_ArrivalEvents_ring : (tk (ringWaits 0)).status = .blocked (.ring (1, 4, 0x209000, 0, 0x14000)) ∧
    ((ringWaits 255).faultRecord (tk (ringWaits 255)) 1 4 0x209000 0 0x14000).isSome = true ∧
    ((ringWaits 256).faultRecord (tk (ringWaits 256)) 1 4 0x209000 0 0x14000).isNone = true := by decide +kernel

def decided (l : List Decision) : State := d.modVd 0 fun v => { v with decisions := l, noticePins := [⟨0, 0x50, 0, 0x10003D, 0x14000⟩] }
theorem witness_CensusEvents : d.clock.sample < d.cycles / 4096 ∧ d.clock.epoch < d.cycles / 2 ^ 20 ∧
    ((decided [⟨3, 1, some 100, 0⟩]).stands 0 ⟨3, 1, some 100, 0⟩ = true ∧
      (decided [⟨0, 1, some 100, 0⟩]).stands 0 ⟨0, 1, some 100, 0⟩ = false) ∧ ((decided []).entry 0 0).state ≤ 1 ∧
    (decided []).noticeUsed ((decided []).vd 0) + ((decided []).vd 0).noticeReserved < 256 ∧ (d.tile 1023).retired = false ∧
    (d.tile 1023).owner = none := by decide +kernel

/-- What was sampled is above the thresholds, and below them. -/
def sampled (n : Nat) : State := d.modVd 0 fun v => { v with pressure :=
  { v.pressure with samples := 1, computeSum := 5, storageSum := 1, slots := 100, readySum := 100 * n, liveSum := 40960 * n, occupied := 90 * n } }
theorem witness_CensusEvents_gauges : ∀ n ∈ [0, 1], ((sampled n).gauges 0).map (fun g => (g.role, g.tiles != 0, g.high, g.low)) =
    [(1, true, n == 1, n == 0), (2, true, n == 1, n == 0), (3, true, n == 1, n == 0)] := by decide +kernel
def noTiles : State := d.modVd 0 fun v => { v with rolemap := [] }
theorem witness_CensusEvents_sample : (d.vds.map Prod.fst).Nodup ∧ (look d.vds 0).isSome = true ∧ (look d.vds 7).isNone = true ∧
    (d.vd 0).pwr ≠ 2 ∧ ((d.modVd 0 fun v => { v with pwr := 2 }).vd 0).pwr = 2 ∧
    (((noTiles).gauges 0).map (fun g => (g.role, g.tiles))).head? = some (1, 0) := by decide +kernel
/-- The epoch's first part: leases lapse. Tile 1, of lid 4, fails, or nothing does. -/
def failing (b : Bool) : State := d.modTile 1 fun t => { t with failing := b }
def lapsed (s : State) : State := s.modVd 0 fun v => { v with rolemap := v.rolemap.map fun x =>
  (x.1, { x.2 with lease := x.2.lease - 1, owner := if x.2.lease = 1 then none else x.2.owner }) }
theorem witness_CensusEvents_epoch : (∀ b ∈ [true, false], (failing b).vds.map (·.1) = [0] ∧
      (∀ x ∈ (failing b).tiles, x.2.failing = true → x.2.owner.isSome = true) ∧ ((failing b).vd 0).pwr = 0) ∧
    ((lapsed d).gauges 0).all (fun g => !g.high) = true ∧ (lapsed d).tilesOf 0 ≤ (lapsed d).tileShare 0 ∧
    ({ State.reset with cycles := 2 ^ 21 } : State).clock.epoch < 2 ^ 21 / 2 ^ 20 ∧ State.reset.vds = [] ∧ State.reset.tiles = [] := by
  decide +kernel
theorem witness_CensusEvents_retires : ((decided [⟨4, 1, none, 3⟩]).vd 0).decisions = [⟨4, 1, none, 3⟩] ∧
    (∀ b ∈ [true, false], ((failing b).entry 0 4).role ≠ 0 ∧ ((failing b).entry 0 4).state ≤ 1 ∧
      ((failing b).entry 0 4).backed = false ∧ ((failing b).tile ((failing b).entry 0 4).phys).failing = b ∧
      ((failing b).tile ((failing b).entry 0 4).phys).owner = some (0, 4)) := by decide +kernel
/-- A packet that has been refused entry to the ring toward the east for 1,024 master cycles; in another state no packet is. -/
def starving : State := { d with dies := d.dies.set 0 { (d.dies[0]) with master := 1024 }
                                 packets := [{ carry .plain (.stop 5) .queue with since := some 0 }] }
theorem witness_CensusEvents_starvation : starving.packets[0]? = some { carry .plain (.stop 5) .queue with since := some 0 } ∧
    nextMove 0 (starving.dstOf { carry .plain (.stop 5) .queue with since := some 0 }) = .ring 0 ∧
    0 + 1024 ≤ starving.masterAt 0 ∧ d.packets = [] := by decide +kernel
theorem witness_CensusEvents_deferred : (((decided []).modVd 0 fun v => { v with deferred := [(0x30001, 0, 0, 0)] }).vd 0).deferred =
    [(0x30001, 0, 0, 0)] ∧ (decided []).draining = false ∧ ((decided []).vd 0).pwr = 0 := by decide +kernel

/-- A walk of R243: two cycles through every stop by links east and south, one that turns south where row and column add up
to 15 and one that turns east there, and their mirror images by links west and north. -/
def lap (a b : Nat) (turn : Nat → Bool) : Nat → Nat → List Nat
  | 0, _ => []
  | n + 1, stop =>
    let dir := if turn (stop / 16 + stop % 16) then b else a
    (4 * stop + dir) :: lap a b turn n (neighbour stop dir)
def walk : List Nat := lap 0 2 (fun x => x % 16 = 15) 256 0 ++ lap 2 0 (fun x => x % 16 = 15) 256 0 ++
  lap 1 3 (fun x => x % 16 = 1) 256 0 ++ lap 3 1 (fun x => x % 16 = 1) 256 0
/-- No number stands twice in a list, nor in a set given by its bits. -/
def distinct : Nat → List Nat → Bool
  | _, [] => true
  | m, x :: r => !m.testBit x && distinct (m ||| 1 <<< x) r
theorem nodup_of_distinct (l : List Nat) : ∀ m, distinct m l = true → l.Nodup ∧ ∀ x ∈ l, m.testBit x = false := by
  induction l with
  | nil => simp
  | cons x r ih =>
    intro m h
    simp only [distinct, Bool.and_eq_true, Bool.not_eq_true'] at h
    obtain ⟨hr, ho⟩ := ih _ h.2
    simp only [Nat.testBit_or, Bool.or_eq_false_iff] at ho
    refine ⟨List.nodup_cons.2 ⟨fun hx => ?_, hr⟩, fun y hy => ?_⟩
    · simpa [Nat.testBit_shiftLeft] using (ho x hx).2
    · rcases List.mem_cons.1 hy with rfl | hy
      · exact h.1
      · exact (ho y hy).1
theorem walk_links : distinct 0 walk = true := by decide +kernel
theorem walk_stops : ∀ i ∈ List.range 4, distinct 0 (((walk.drop (256 * i)).take 256).map (· / 4)) = true := by decide +kernel
theorem walk_joins : walk.length = 1024 ∧ walk.all (· < 1024) = true ∧
    (walk.zip (walk.rotateLeft 1)).all (fun x => neighbour (x.1 / 4) (x.1 % 4) == x.2 / 4) = true := by decide +kernel
theorem witness_MoveEvents_preset : presetOk walk = true := by
  simp only [presetOk, Bool.and_eq_true, beq_iff_eq, decide_eq_true_eq]
  exact ⟨⟨⟨⟨walk_joins.1, walk_joins.2.1⟩, (nodup_of_distinct _ 0 walk_links).1⟩, walk_joins.2.2⟩,
    List.all_eq_true.2 fun i hi => decide_eq_true (nodup_of_distinct _ 0 (walk_stops i hi)).1⟩
/-- Die 0 drains with a message in a ring slot; no die drains any more. -/
def ringing (l : List Loc) : State := { d with
  draining := true, dies := d.dies.set 0 { (d.dies[0]) with draining := l != [.drained] }
  packets := l.map fun x => { carry .plain (.stop 5) x with hdr := { kind := 0x20, src := 0, dst := 5 } } }
theorem witness_MoveEvents_drain : ((ringing [.slot 1 0]).dies[0]).draining = true ∧ (ringing [.slot 1 0]).ringEmpty 0 = false ∧
    (ringing [.drained]).draining = true ∧ (∀ i : Fin 4, ((ringing [.drained]).dies[i]).draining = false) := by decide +kernel

def entryAt (lid : Nat) (e : Entry) : State := d.modEntry 0 lid fun _ => e
def mover : Entry := { gen := 1, role := 1, phys := 1, state := 2, newrole := 2 }
def router : Entry := { gen := 1, role := 3, phys := 2, state := 2, newrole := 2 }
def storer : Entry := { gen := 1, role := 2, phys := 17, state := 2, newrole := 1 }
def comer : Entry := { gen := 1, role := 0, phys := 0, state := 2, newrole := 1, target := some 300 }
theorem witness_MoveEvents : d.draining = false ∧ d.clock.tide < d.cycles / 65536 ∧ (entryAt 4 mover).quiet 1 = true ∧ (entryAt 4 mover).settledOff 0 1 = true ∧
    mover.target = none ∧ storer.backed = false ∧ ((entryAt 1 storer).tile 17).owner = some (0, 1) ∧
    (entryAt 1 storer).targetBusy storer = false ∧ (entryAt 3 comer).entry 0 3 = comer ∧ (entryAt 2 router).entry 0 2 = router ∧
    (entryAt 2 router).routed 2 = true := by
  decide +kernel

/-- A device without tasks and notices that has been idle for its delay. -/
def idle : State := { d with tasks := [], cycles := 0x2001, vds := d.vds.map fun v => (v.1, { v.2 with
  rolemap := v.2.rolemap.map fun e => (e.1, { e.2 with state := 0, notice := none })
  idleSince := some 1, idleDelay := 2, futs := [] }) }
theorem witness_IdleEvents : (idle.vd 0).idleSince = some 1 ∧ (idle.vd 0).pwr = 0 ∧ (idle.vd 0).idleEn = true ∧
    (idle.vd 0).destroying = false ∧ 1 + (idle.vd 0).idleDelay * 4096 ≤ idle.cycles ∧ idle.deviceIdle 0 (idle.vd 0) = true ∧
    (∀ e ∈ (idle.vd 0).rolemap, e.2.state ≠ 1 ∧ e.2.notice = none) := by decide +kernel
def powered (n : Nat) : State := idle.modVd 0 fun v => { v with pwr := n }
def sleeper (n : Nat) : State := (d.modTask 0 fun t => { t with status := .blocked (.sleep 0x123456) }).modVd 0 fun v => { v with pwr := n }
theorem witness_IdleEvents_rest : ((powered 1).vd 0).pwr = 1 ∧ (∀ e ∈ ((powered 1).vd 0).rolemap, e.2.state ≠ 2) ∧
    ((powered 3).vd 0).pwr = 3 ∧ d.answers 0 = true ∧ d.cycles < (0x123457#64).toNat ∧
    (tk (sleeper 0)).status = .blocked (.sleep 0x123456) ∧ 0x123456 ≤ (sleeper 0).cycles ∧ ((sleeper 2).vd 0).pwr = 2 := by
  decide +kernel

theorem witness_PowerEvents : d.clock.interval < d.cycles / 4096 ∧ ({ d with dies := d.dies.map fun x => x.pass 256 } : State).dies.all (fun x => x.sampled < x.master / 256) = true ∧
    (d.dies[3]).lowered = none := by decide +kernel

def record1 : CmdRecord :=
  ⟨1, 5, 3, 1, 10, 16, 1, 1, 0, 64, 0, 0x200000, 0x500000, 0x200800, 0x600000, 4, 0x400000, 0xA20000, false⟩
def claimed : State := { d with sems := d.sems.setIfInBounds 3 1 }
theorem witness_HostEvents : (d.sems.toList.getD 3 0).toNat = 0 ∧ (claimed.sems.toList.getD 3 0).toNat = 1 ∧ d.cmdstat ≠ 1 ∧
    record1.op = 1 ∧ ({ record1 with op := 2, vd := 0 } : CmdRecord).reserved = false ∧
    claimed.holdsSem 0 { record1 with op := 2, vd := 0 } = true ∧ (look d.vds 0).isSome = true := by decide +kernel
/-- A command that runs, one that destroys a device on which nothing runs; the decoder committed, and no device. -/
def running : State := { idle with cmdstat := 1, cmdresult := 2, dying := some 0 }
def decoded : State := { d with hdmCommitted := true, hdmBase := 0x10000, vds := [], tasks := [] }
theorem witness_HostEvents_memory : ({ running with dying := none } : State).cmdstat = 1 ∧ running.deviceRuns 0 = false ∧
    decoded.reaches ⟨0, 64, .store 77⟩ = true ∧ decoded.devicesOf 0 8 = [] ∧ decoded.watchers 0 8 = [] ∧
    decoded.reaches ⟨Config.hbmBytes, 8, .store 77⟩ = false ∧ d.packets.all (fun p => !d.portCarries 1 p) = true ∧ 511 ∉ d.retired := by
  decide +kernel

def cfg (type rollback : Nat) : CfgRecord := ⟨type, 5, 96, rollback, (7, 0), [], [], 0, [], [], [], 3, [(1, 0)]⟩
/-- A record with a signature of the vendor key. -/
def sign (r : CfgRecord) : CfgRecord := { r with signature := (7, Config.vendorSign (CfgRecord.signed r) 7) }
theorem sign_passes (type rollback fused : Nat) (h : fused ≤ rollback) : CfgRecord.passes (sign (cfg type rollback)) fused = true := by
  have hs : CfgRecord.signed (sign (cfg type rollback)) = CfgRecord.signed (cfg type rollback) := rfl
  simp only [CfgRecord.passes, hs]
  simp [sign, cfg, h]
theorem witness_BootEvents : State.reset.boot = .inReset ∧ State.reset.activeSlot = 0 ∧ d.boot = .running ∧
    (∀ x ∈ d.dies.toList, x.updated = false) ∧ d.serves 3 = false ∧ d.serves 0 = true := by decide +kernel
/-- Whatever the fuse says, some slot passes, and one below the fused counter, or without a record, does not. -/
theorem witness_BootEvents_slots (f : Nat) : slotPasses [sign (cfg 0 f), sign (cfg 4 f)] f = true ∧
    slotPasses [sign (cfg 0 f), cfg 4 f] (f + 1) = false ∧ slotPasses [] f = false := by
  refine ⟨?_, ?_, rfl⟩
  · simp [slotPasses, sign_passes]
  · simp [slotPasses, CfgRecord.passes, cfg]
/-! ### Further clauses: ports, priority queues, counts, waits -/

/-- The priority queue gives the smaller of its two entries, the second one. -/
def ranked : Queue := { prio := true, entries := [0x500000000, 0x400000007, 0x400000001] }
theorem ranked_gives : ranked.gives 0x400000007 [0x500000000, 0x400000001] :=
  ⟨1, rfl, rfl, nofun, fun _ j y h => by
    match j with
    | 0 | 1 | 2 => cases h; decide +kernel
    | n + 3 => cases h⟩
theorem plain_gives : Queue.gives { prio := false, entries := [11, 22, 33] } 11 [22, 33] := ⟨0, rfl, rfl, fun _ => rfl, nofun⟩

/-- The load's line in the L1 of the tile, without and with an error; and all of its bytes in the thread's own store buffer. -/
def cached (e : List Nat) : State := d.modTile 0 fun t => { t with l1 := [((0, 0x101000 / 64), 5)], l1Err := e }
def buffering : State := d.modTask 0 fun t => { t with sbuf := [⟨0x201000, .phys 0x101000 false, cellsAt 0 (toBytes 8 7), false, 0, 0, 0, false⟩] }
theorem witness_LoadResults_hit : ∀ s ∈ [cached [], cached [0x101000 / 64]], meets (resolve 0 (tk s) 0x201000 .load) s (fun x t =>
    x.1 == .phys 0x101000 false && (tk s).sbuf.isEmpty && (l1Look (t.tile 0).l1 (0x101000 / 64)).isSome) = true := by decide +kernel
theorem witness_LoadResults_own : meets (resolve 0 (tk buffering) 0x201000 .load) buffering (fun x _ =>
    x.1 == .phys 0x101000 false) = true ∧ (∀ j < 8, buffered (tk buffering).sbuf (.phys 0x101000 false) j = true) := by decide +kernel
theorem witness_FencesAndCaches_fill : ∀ s ∈ [d, cached []], (s.quietly (tk s) ((tk s).ctx.src 1).toNat true).any (fun p =>
    s.prefills (tk s) p (Hint.effective .dflt p.ret) == s.tiles.all fun x => x.2.l1.isEmpty) = true ∧
    (s.cluster (clusterOf (tk s).last.tile)).grants s.cycles 64 = true := by decide +kernel

/-- g6 addresses the slot of the event window of a compute entry, g7 that of a storage entry, g8 what is no slot. -/
def signalled : State := setg d [(5, 0x30), (6, Config.eventBase + 4 * 65536), (7, Config.eventBase + 65536), (8, Config.eventBase + 8)]
theorem witness_EventLines_slots : ∀ b ∈ [(6 : GReg), 7, 8], signalled.issues (.evsig 5 b) 0 (tk signalled) ∧
    (tk signalled).ctx.src b ≠ 0 := by decide +kernel
theorem witness_EventLines_slot : ((tk signalled).ctx.src 5).getLsbD 31 = false ∧
    ((tk signalled).ctx.src 5).setWidth 32 ≠ (0 : Word32) ∧ eventSlot ((tk signalled).ctx.src 6).toNat = some 4 ∧
    eventSlot ((tk signalled).ctx.src 7).toNat = some 1 ∧ eventSlot ((tk signalled).ctx.src 8).toNat = none ∧
    (signalled.entry 0 4).role = 1 ∧ (signalled.entry 0 4).state ≠ 3 ∧ (signalled.entry 0 1).role ≠ 1 ∧
    (∀ l ∈ [1, 4], signalled.held 0 l (tk signalled).last.tile = false) := by decide +kernel
/-- In a drain no message leaves its source. -/
def drainingDie (b : Bool) : State := { signalled with draining := b, dies := signalled.dies.set 0 { signalled.dies[0] with draining := b } }
def signal (s : State) : State :=
  let sent := (s.release 0 .module).send 0x23 0 0 0 0 0x30 0x30 (.tile 0 4) (.event 0 0 0x30)
  sent.hop (sent.packets.length - 1)
theorem witness_EventLines_leaves : ∀ b ∈ [true, false], (drainingDie b).issues (.evsig 5 6) 0 (tk (drainingDie b)) ∧
    ((signal (drainingDie b)).packets.getLast?.map fun p => p.loc == .queue) = some b := by decide +kernel

/-- What a destination port is given: its queue takes it. -/
def takes (l : List (GReg × Word)) (s : State) : Bool := found (writeDests 0 l) s
theorem witness_HandleResults_ports : (∀ i ∈ [.fwait 1 9 25, .fref 1 1, .ftest 1 25, .ftest 7 25], (ports holder).issues i 0 (tk (ports holder))) ∧
    (ports holder).portReady (tk (ports holder)) 25 ∧
    (((ports holder).wrote 0 (.ftest 1 25) fun c => c).pushed 0 (tk (ports holder)) 25 5).isSome = true := by decide +kernel
theorem witness_HandleResults_wait : takes [(9, 77), (25, 5)] (((ports holder).acquire 0 .module).wrote 0 (.fwait 1 9 25) fun c => c) = true := by
  decide +kernel
/-- The wait of the future that is final by now holds its own reference. -/
def waited : State := ports (holder.modTask 0 fun t => { t with waitReacher := some (handle d 2) })
theorem witness_HandleResults_waited : waited.issues (.fwait 1 9 25) 0 (tk waited) ∧ (tk waited).waitReacher.isSome = true := by
  decide +kernel
theorem witness_HandleResults_dropped : takes [(9, 77), (10, 5)] ((((waited.modTask 0 fun u => { u with waitReacher := none }).dropHandle 0
    (handle d 2)).acquire 0 .module).wrote 0 (.fwait 1 9 10) fun c => c) = true := by decide +kernel
def fullFut (s : State) (n : Nat) : State := s.modFut 0 n fun f => { f with reach := 2 ^ 24 - 1 }
theorem witness_HandleStops_self :
    (fullFut holder 0).issues (.self 3) 0 (tk (fullFut holder 0)) ∧ 2 ^ 24 - 1 < ((fullFut holder 0).fut 0 0).reach + 1 ∧
    (tk holder).ident.index = 0 := by decide +kernel
theorem witness_HandleStops_counts : (fullFut holder 1).issues (.fwait 2 9 10) 0 (tk (fullFut holder 1)) ∧
    (fullFut holder 1).goodHandle 0 ((tk (fullFut holder 1)).ctx.getH 2) = true ∧ 2 ^ 24 - 1 < ((fullFut holder 1).fut 0 1).reach + 1 ∧
    (tk (fullFut holder 1)).waitReacher = none := by decide +kernel
theorem witness_HandleStops_pin : (fullFut holder 2).issues (.fpin 1 6) 0 (tk (fullFut holder 2)) ∧
    meets (slotAt 0 (tk (fullFut holder 2)) 0x201100 (roomFor 0 (handle d 2) 1)) (fullFut holder 2) (fun x s1 => x.2.2 == 0 &&
      decide (2 ^ 24 - 1 < (s1.fut 0 2).reach + 1)) = true := by decide +kernel
/-- g8 addresses what is no handle. -/
def strange : State := setg (fill holder 0x101110 [0x1234567800000000]) [(8, 0x201110)]
theorem witness_HandleStops_slots : holder.issues (.fpin 1 7) 0 (tk holder) ∧
    meets (slotAt 0 (tk holder) 0x201108 (roomFor 0 (handle d 2) 1)) holder (fun x _ => x.2.2 != 0) = true ∧ strange.issues (.ftake 3 8) 0 (tk strange) ∧
    meets (slotAt 0 (tk strange) 0x201110 (pure ())) strange (fun x s1 => x.2.2 != 0 && !s1.goodHandle 0 x.2.2) = true := by decide +kernel
theorem witness_HandleStops_own : holder.issues (.fwait 0 9 10) 0 (tk holder) ∧ (tk holder).ctx.getH 0 ≠ 0 ∧
    holder.goodHandle 0 ((tk holder).ctx.getH 0) = true ∧ hIndex ((tk holder).ctx.getH 0) = (tk holder).ident.index := by decide +kernel
/-- The handle that a SPAWN passes: no good one; of a doomed future whose last reference was dropped; of a full count. -/
def lost : State := spawner.modFut 0 1 fun f => { f with doomed := true, reach := 0 }
def badPass : State := seth spawner [(3, 0x1234567800000000)]
theorem witness_HandleStops_spawn : ∀ s ∈ [badPass, lost, fullFut spawner 1], s.issues (.spawnPass 1 1 6 3) 0 (tk s) ∧
    (tk s).ctx.getH 3 ≠ 0 ∧ ((tk s).ctx.getG 6).toNat < 2 ^ 18 ∧ ((tk s).ctx.getG 6).getLsbD 16 = false ∧
    meets (readDesc 0 (tk s) 0x201000) s (fun _ s1 =>
      let y := s1.fut 0 (hIndex ((tk s).ctx.getH 3))
      !s1.goodHandle 0 ((tk s).ctx.getH 3) || (y.doomed && y.reach == 0) || decide (2 ^ 24 - 1 < y.reach + 1)) = true := by
  decide +kernel

/-- The queue of port 1 is full. -/
def full (s : State) : State := s.modVd 0 fun v => { v with queues := put v.queues (1, 1) { prio := false, entries := List.replicate 256 7 } }
/-- A wake has given the task the value 3. -/
def given (s : State) : State := s.modTask 0 fun t => { t with kept := [⟨t.ctx.pc, .task, none, [3], none⟩] }
theorem witness_GroupResults_ports : ∀ s ∈ [ports grouped, full (ports grouped)], s.issues (.gbar 3 25) 0 (tk s) ∧
    (s.group 0 3).member 0 = true ∧ (s.group 0 3).hasArrived 0 = false ∧ (s.arriveAt 0 3 0).canFire 0 3 = true ∧
    takes [(25, ((s.arriveAt 0 3 0).group 0 3).status)]
      ((((s.arriveAt 0 3 0).fire 0 3).acquire 0 .module).wrote 0 (.gbar 3 25) fun c => c) = true := by decide +kernel
theorem witness_GroupResults_given : takes [(10, (((ports grouped).arriveAt 0 3 0).group 0 3).status)]
    (((((ports grouped).arriveAt 0 3 0).fire 0 3).acquire 0 .module).wrote 0 (.gbar 3 10) fun c => c) = true := by decide +kernel
theorem witness_GroupResults_waits : grouped.issues (.gbar 4 10) 0 (tk grouped) ∧
    (grouped.group 0 4).member 0 = true ∧ (grouped.group 0 4).hasArrived 0 = false ∧ (grouped.arriveAt 0 4 0).canFire 0 4 = false ∧
    ((grouped.arriveAt 0 4 0).task? 0).map (·.delivered) = some false := by decide +kernel
theorem witness_GroupResults_resumed : ∀ b ∈ [(10 : GReg), 25], (given (ports grouped)).resumes (.gbar 5 b) 0 (tk (given (ports grouped))) 3 := by
  have h : ∀ b ∈ [(10 : GReg), 25], (given (ports grouped)).runs 0 (tk (given (ports grouped))) ∧
      (tk (given (ports grouped))).proceeds (.gbar 5 b) ∧
      (given (ports grouped)).destHeld (tk (given (ports grouped))) (Instr.dests (.gbar 5 b)) = false ∧
      (given (ports grouped)).heldStores 0 = false ∧
      (tk (given (ports grouped))).keptFor (.gbar 5 b) = some ⟨0x200010, .task, none, [3], none⟩ := by decide +kernel
  exact fun b hb => let ⟨a, b, c, d, e⟩ := h b hb; ⟨a, b, c, d, _, e, rfl, rfl, rfl⟩
theorem witness_GroupResults_resumed_port : takes [(25, 3)] (((given (ports grouped)).acquire 0 .module).wrote 0 (.gbar 5 25) fun c => c) =
    true := by decide +kernel

/-- The priority queue at g3, with the ports bound. -/
def ordered : State := ports (queued.modVd 0 fun v => { v with queues := put v.queues (1, 2) ranked })
theorem witness_QueueResults_priority : (∀ b ∈ [(9 : GReg), 25], ordered.issues (.qpop b 3) 0 (tk ordered)) ∧ ordered.packets = [] ∧
    ordered.queueHeld 0 0x00102001 = false ∧ ordered.queue? 0 0x00102001 = some ranked := by decide +kernel
def taken1 (s : State) : State := s.setQueue 0 0x00102001 { ranked with entries := [0x500000000, 0x400000001] }
theorem witness_QueueResults_ports : ∀ s ∈ [ordered, full ordered], s.issues (.qpop 25 3) 0 (tk s) ∧
    takes [(25, 0x400000007)] (((taken1 s).acquire 0 .module).wrote 0 (.qpop 25 3) fun c => c) = true := by decide +kernel
theorem witness_QueueResults_values : (∀ i ∈ [.qnew 25 5, .qlen 25 1], ordered.issues i 0 (tk ordered)) ∧
    takes [(25, 0)] (ordered.wrote 0 (.qlen 25 1) fun c => c) = true := by decide +kernel
theorem witness_QueueResults_new_port : (ports noSlot).issues (.qnew 25 5) 0 (tk (ports noSlot)) ∧
    takes [(25, 0)] ((ports noSlot).wrote 0 (.qnew 25 5) fun c => c) = true := by decide +kernel
theorem witness_QueueResults_resumed : ∀ b ∈ [(9 : GReg), 25], (given ordered).resumes (.qpop b 1) 0 (tk (given ordered)) 3 := by
  have h : ∀ b ∈ [(9 : GReg), 25], (given ordered).runs 0 (tk (given ordered)) ∧ (tk (given ordered)).proceeds (.qpop b 1) ∧
      (given ordered).destHeld (tk (given ordered)) (Instr.dests (.qpop b 1)) = false ∧ (given ordered).heldStores 0 = false ∧
      (tk (given ordered)).keptFor (.qpop b 1) = some ⟨0x200010, .task, none, [3], none⟩ := by decide +kernel
  exact fun b hb => let ⟨a, b, c, d, e⟩ := h b hb; ⟨a, b, c, d, _, e, rfl, rfl, rfl⟩
theorem witness_QueueResults_resumed_port : takes [(25, 3)] (((given ordered).acquire 0 .module).wrote 0 (.qpop 25 1) fun c => c) = true := by
  decide +kernel
theorem witness_QueueResults_moved : meets (fun s => .ok ((), s)) queued (fun _ _ =>
    !(((queued.release 0 .module).message 0x20 0 0 4 (.tile 0 1) 0x00100001).push 0 0x00100001 { prio := false, entries := [11, 22, 33] } 4
      (.task 0)).2) = true := by decide +kernel

theorem witness_SystemRegisters_words : (decode 0xF2801000 []).toOption = some (.srrd 20 0x100) ∧
    (decode 0xF0141021 []).toOption = some (.srwr 20 0x102) := by decide +kernel

/-- TINV's first turn has found a command that holds it, which is still queued, or gone. -/
def awaiting (l : List Nat) : State := pinned.modTask 0 fun t => { t with tinv := some l }
theorem witness_TinvResults_again : ∀ l ∈ [[1], [2]], (∀ i ∈ [.tinv 1, .tinvAll], (awaiting l).issues i 0 (tk (awaiting l))) ∧
    (tk (awaiting l)).tinv = some l ∧ (awaiting l).pinners.any (fun c => c.id ∈ l) = (l == [1]) := by decide +kernel
theorem witness_TinvResults_first : ∀ s ∈ [translated, pinned], (tk s).tinv = none := by decide +kernel

/-- The thread was kept for the READY task by the pre-emption of task 1, which has run on it. -/
def keptFor : State := (heldBack none).modTask 2 fun t => { t with direct := some idler }
theorem witness_DispatchEvents_kept : keptFor.deviceAt idler = some 0 ∧ keptFor.isIdle idler = true ∧
    keptFor.modeSettled 0 idler.tile ∧
    ((keptFor.tasks.find? fun x => x.2.direct = some idler && (keptFor.waitsFor 0 x.2 idler && keptFor.mayRun x.2 idler)).any fun x =>
      x.1 == 2 && (keptFor.heldBackBy 0 idler x.2.prio (keptFor.vd 0).depthFirst).all fun y => y.2.last == idler) = true := by
  decide +kernel
theorem witness_StopAndStartEvents_never : (rdy 0).doomed = false ∧ (rdy 0).direct = none ∧ taken.overdue 0 (rdy 0).prio = [] := by
  decide +kernel

theorem witness_VectorMemory_pages : meets (checkPages 0 (tk vectors) .load ((activeBytes .n64 ((tk vectors).ctx.getM 0)).map (0x201FF8 + ·)))
      (vectors.queued 0 (tk vectors) (.vld 3 6 7 0 .n64)) (fun _ s0 =>
        found (loadRuns 0 (tk vectors) 0x201FF8 (runsOf 0x201FF8 (activeBytes .n64 ((tk vectors).ctx.getM 0)))) s0) = true ∧
    meets (checkPages 0 (tk vectors) .store ((activeBytes .n64 ((tk vectors).ctx.getM 3)).map (0x201FF8 + ·)))
      (vectors.queued 0 (tk vectors) (.vst 3 6 7 3 .n64)) (fun _ s0 =>
        found (storeBytes 0 0x201FF8 ((activeBytes .n64 ((tk vectors).ctx.getM 3)).map fun o =>
          (o, ((tk vectors).ctx.getV 3).extractLsb' (8 * o) 8)) .dflt false) s0) = true := by decide +kernel
/-- A turn of a cluster to which nothing has been granted in this interval is afforded. -/
theorem afforded_first {s : State} {n : Nat} (h : (s.cluster (clusterOf n)).first = none) (s' : State) : s.afforded s' n = true := by
  simp [State.afforded, h]
theorem witness_EngineEvents_granted : (d.cluster (clusterOf 0)).first = none ∧
    ((copies (cmdOf copyCmd false)).cluster (clusterOf 0)).first = none ∧
    ((rings (sub 2 1 (some 1)) [4, 1]).cluster (clusterOf 0)).first = none := by decide +kernel
/-- An MMA of operands in a memory-side page. -/
def apart : Cmd := { matrixCmd false with started := false, pins := [⟨0, 0x20, 0, 0x1000BD, 0x14000⟩] }
/-- A budget of one byte, spent by another turn, does not afford its fetches, nor a packet. -/
theorem witness_EngineEvents_spent :
    (let s := spent (matrices apart)
     s.afforded ((s.modTile 0 fun t => { t with served := t.served.setIfInBounds (engineNumber .matrix) 1 }).startCmd 0 1
       apart) 0) = false ∧
    (let s1 := ({ spent (copies (cmdOf copyCmd true)) with cur := ⟨0, 1, 0⟩ } : State).flush (Pkt.engineOf 1)
     let s2 := s1.doPackets 0 1 1 false (cmdOf copyCmd true).packets
     (s2.cluster 0).granted ≠ (s1.cluster 0).granted ∧ (s2.cluster 0).fits 0 = false ∧ (s2.findCmd 0 1 1).isSome = true) := by
  decide +kernel
/-- A panel in a flash channel of die 0, which one of its own streamers serves too, for a streamer of die 1. -/
def flashSub (streamer : Nat) : Sub := { sub 2 1 (some 1) with
  cmd := { (sub 2 1 (some 1)).cmd with pins := [⟨0, 0x20, 0, BitVec.ofNat 64 (Config.flashBase + 0x3D), 0x14000⟩] }
  src := 0x201000 - panelBytes, streamer := streamer }
def yielding : State := (rings (flashSub 8) [4, 1]).modCore 0 2 fun k => { k with sub := some (flashSub 0) }
theorem witness_EngineEvents_yields : (yielding.core 0 1).sub = some (flashSub 8) ∧ yielding.fillYields (flashSub 8) = true ∧
    (rings (sub 2 1 (some 1)) [4, 1]).fillYields (sub 2 1 (some 1)) = false := by decide +kernel
theorem witness_EngineEvents_streamer : (rings (sub 1 0 none) [4, 0]).computes 0 0 = true ∧
    (rings (sub 1 0 none) [4, 0]).streamerNext (sub 1 0 none).streamer = some (0, 1) := by decide +kernel
/-- A vector store over two lines: the parts of one entry of the buffer. -/
def twoLines : State := d.modTask 0 fun t => { t with sbuf := [store1, { store2 with rel := false, joined := true }] }
theorem witness_CoreEvents_joined : (tk twoLines).sbuf = [store1, { store2 with rel := false, joined := true }] := by decide +kernel
theorem witness_HostEvents_registers : record1.op = 1 ∧ ({ record1 with op := 3 } : CmdRecord).op ≠ 1 ∧
    ({ record1 with op := 3 } : CmdRecord).op ≠ 2 ∧ running.cmdstat = 1 ∧
    ¬ (0x2000 < 0x100 ∨ 0x2000 = 0x1000 ∨ 0x2000 = 0x1008 ∨ (0x10000 ≤ 0x2000 ∧ 0x2000 < 0x50000 ∧ 0x2000 % 0x1000 ≤ 0x20) ∨
      (0x1000000 ≤ 0x2000 ∧ 0x2000 < 0x2000000 ∧ windowReg (0x2000 - 0x1000000) ≠ none)) := by decide +kernel
theorem witness_SpawnResults_passes : meets (readDesc 0 (tk spawner) 0x201000) spawner (fun _ s1 =>
    s1.goodHandle 0 ((tk spawner).ctx.getH 3) && !(s1.fut 0 (hIndex ((tk spawner).ctx.getH 3))).doomed) = true := by decide +kernel

/-! ### One step of single instructions, on values of the spec's text -/

/-- What an instruction leaves in a register of the running task. -/
def resultIn (i : Instr) (s : State) (r : GReg) : Word := (tk (after i s)).ctx.getG r
def vals (l : List (Nat × Nat)) : State := setg start l

/-- R362, R419: −7 by 2 gives −3 and −1; by zero, all ones and the dividend; R401: 7 and all ones. -/
theorem test_div : resultIn (.div 4 5 6) (vals [(5, 2 ^ 64 - 7), (6, 2)]) 4 = -3 ∧
    resultIn (.rem 4 5 6) (vals [(5, 2 ^ 64 - 7), (6, 2)]) 4 = -1 ∧
    resultIn (.divu 4 3 13) (vals [(3, 7), (13, 0)]) 4 = 0xFFFFFFFFFFFFFFFF ∧
    resultIn (.remu 5 3 13) (vals [(3, 7), (13, 3)]) 5 = 1 := by decide +kernel
theorem test_max : resultIn (.max 4 5 6) (vals [(5, 2 ^ 64 - 1), (6, 1)]) 4 = 1 ∧
    resultIn (.maxu 4 5 6) (vals [(5, 2 ^ 64 - 1), (6, 1)]) 4 = 0xFFFFFFFFFFFFFFFF := by decide +kernel
/-- A write to g0 is discarded (R36), a shift takes the low six bits, and CLZ of 0 is 64. -/
theorem test_integer_corners : resultIn (.addImm 0 0 5) (vals []) 0 = 0 ∧ resultIn (.shl 4 5 6) (vals [(5, 1), (6, 65)]) 4 = 2 ∧
    resultIn (.clz 4 0) (vals []) 4 = 64 ∧ resultIn (.addImm 4 5 0xFFFE) (vals [(5, 1)]) 4 = 0xFFFFFFFFFFFFFFFF := by decide +kernel
/-- The link is the next instruction's address (R386); a branch counts words from its own address (R55). -/
theorem test_transfer : (tk (after (.jal 19 10) start)).ctx.pc = 0x200028 ∧ resultIn (.jal 19 10) start 19 = 0x200004 ∧
    (tk (after (.bge 3 0 0xFFFB) start)).ctx.pc = 0x1FFFEC ∧ (tk (after (.blt 3 0 2) start)).ctx.pc = 0x200004 := by decide +kernel
/-- A load of a byte extends its sign, LDN zeroes (R388, R390); the bytes stand least significant first (R34). -/
theorem test_load : resultIn (.ld 9 1 .dflt .b 7) d 9 = 0xFFFFFFFFFFFFFF88 ∧ resultIn (.ldn 9 1 .dflt .b 7) d 9 = 0x88 ∧
    resultIn (.ld 9 1 .dflt .w 0) d 9 = 0x44332211 := by decide +kernel
/-- R20, alignment before translation: the trap has cause 0x02, TVAL the address, and the register keeps its value. -/
theorem test_misaligned : (tk (after (.amoAdd 5 6 7 true .relaxed .module) (setg (vectored d) [(6, 0x400004)]))).ctx.tcause = 2 ∧
    (tk (after (.amoAdd 5 6 7 true .relaxed .module) (setg (vectored d) [(6, 0x400004)]))).ctx.tval = 0x400004 := by decide +kernel
/-- A thread's own store is seen by its load before it is performed (R201); AMO answers the old value (R355). -/
theorem test_atomic : resultIn (.amoAdd 9 6 3 true .relaxed .module) stored 9 = 0 ∧
    meets (atomicAt 0 (tk stored) ((tk stored).ctx.src 6).toNat 8) (after (.amoAdd 9 6 3 true .relaxed .module) stored)
      (fun x s => s.readKey x.2 8 == toBytes 8 7) = true := by decide +kernel
/-- TRAP writes the code above the cause (R443), ERET returns to TEPC. -/
theorem test_trap : (tk (after (.trap 9) (vectored d))).ctx.tcause = 0x90011 ∧ (tk (after (.trap 9) (vectored d))).ctx.pc = 0x300000 ∧
    (tk (after .eret (after (.trap 9) (vectored d)))).ctx.pc = 0x200010 ∧
    (tk (after .eret (after (.trap 9) (vectored d)))).ctx.mode = .task := by decide +kernel
/-- 1.0 + 2^-24 in f32 rounds to 1.0 (R274), and NX is noted. -/
theorem test_float : lane .f32 ((tk (after (.vadd 3 1 2 0 .f32) (floats 0))).ctx.getV 3) 7 = 0x3F800000 ∧
    (tk (after (.vadd 3 1 2 0 .f32) (floats 0))).ctx.fstat = 0x10 := by decide +kernel
/-- VSCAN of ones is the lane number plus one; m1 leaves the inactive lanes (R50). -/
theorem test_scan : lane .n8 ((tk (after (.vscan 3 1 .add 0 .n8) (start.modTask 0 fun t => { t with
    ctx := t.ctx.setV 1 (BitVec.ofNat 256 (0x01 * ((2 ^ 256 - 1) / 255))) }))).ctx.getV 3) 31 = 32 := by decide +kernel
/-- FWAIT of a final future returns its result and its status (R370). -/
theorem test_fwait : resultIn (.fwait 1 9 10) holder 9 = 77 ∧ resultIn (.qpop 9 1) queued 9 = 11 ∧
    resultIn (.qlen 9 1) queued 9 = 3 := by decide +kernel

end Sys2Proof.Tests
end

section
/-! How the module is left by reset (R19, R333), and what power control does (R317 to R325): the boundary of an interval, the
samples of the core rail, the power registers. -/

namespace Sys2Proof.Machine

/-! ### What power control keeps, and what no write of memory changes -/

/-- Two states that agree on the clock of boundaries, the clusters and the dies: all that power control reads and sets but
the telemetry ring. -/
structure State.SamePower (s t : State) : Prop where
  clock : t.clock = s.clock
  clusters : t.clusters = s.clusters
  dies : t.dies = s.dies

theorem State.SamePower.refl (s : State) : s.SamePower s := ⟨rfl, rfl, rfl⟩
theorem State.SamePower.trans {s t u : State} (h : s.SamePower t) (k : t.SamePower u) : s.SamePower u :=
  ⟨k.clock.trans h.clock, k.clusters.trans h.clusters, k.dies.trans h.dies⟩

theorem State.SamePower.cluster {s t : State} (h : s.SamePower t) (c : Nat) : t.cluster c = s.cluster c := by
  simp [State.cluster, h.clusters]

/-- What each step of a fold keeps, the fold keeps. -/
theorem State.SamePower.foldl {α : Type} {f : State → α → State} (l : List α) (s : State)
    (h : ∀ t : State, ∀ a ∈ l, t.SamePower (f t a)) : s.SamePower (l.foldl f s) :=
  List.foldlRecOn l f (motive := s.SamePower) (.refl s) fun t ht a ha => ht.trans (h t a ha)

theorem State.modVd_samePower (s : State) (n : Nat) (f : Vd → Vd) : s.SamePower (s.modVd n f) :=
  ⟨by simp, by simp, by simp⟩

theorem State.touch_samePower (s : State) (k : Nat) : s.SamePower (s.touch k) := by
  simp only [State.touch]
  split
  · split
    · exact ⟨rfl, rfl, rfl⟩
    · exact .refl s
  · split
    · split
      · exact s.modVd_samePower ..
      · exact .refl s
    · exact .refl s

theorem State.readyRecord_samePower (s : State) (t : Task) (st : Nat) : s.SamePower (s.readyRecord t st) := by
  unfold State.readyRecord
  split
  · exact s.modVd_samePower ..
  · exact .refl s

theorem State.readyTask_samePower (s : State) (id : Nat) (w : Option Woke) : s.SamePower (s.readyTask id w) := by
  unfold State.readyTask
  split
  · exact .refl s
  · split
    · exact .refl s
    · refine .trans ?_ (State.readyRecord_samePower ..)
      exact ⟨rfl, rfl, rfl⟩

/-- A changed record wakes tasks, whose own records change: by induction on how far that goes. -/
theorem State.noteFut_samePower (s : State) (vd i n : Nat) : s.SamePower (s.noteFut vd i n) := by
  induction n generalizing s vd i with
  | zero => exact .refl s
  | succ n ih =>
    refine .foldl _ s fun t x _ => ?_
    have h := t.readyTask_samePower x.1 none
    dsimp only
    split
    · exact h.trans (ih ..)
    · exact h

theorem State.makeReady_samePower (s : State) (id : Nat) (w : Option Woke) : s.SamePower (s.makeReady id w) := by
  unfold State.makeReady
  split
  · exact .refl s
  · split
    · exact .refl s
    · have h := s.readyTask_samePower id w
      dsimp only
      split
      · exact h.trans (State.noteFut_samePower ..)
      · exact h

theorem State.wakeWhere_samePower (s : State) (p : Task → Wait → Bool) (w : Option Woke) :
    s.SamePower (s.wakeWhere p w) := by
  refine .foldl _ s fun t x _ => ?_
  split
  · split
    · exact t.makeReady_samePower ..
    · exact .refl t
  · exact .refl t

theorem State.write_samePower (s : State) (l : List (Nat × Byte)) : s.SamePower (s.write l) := by
  refine .trans (t := { s with mem := s.mem.setAll l }) ⟨rfl, rfl, rfl⟩ (.foldl _ _ fun t b _ => ?_)
  refine (t.touch_samePower (b * 256)).trans (.trans ?_ (State.wakeWhere_samePower ..))
  split <;> exact ⟨rfl, rfl, rfl⟩

/-- A telemetry record, written or dropped, changes no cluster and no die (R323). -/
theorem State.telemetry_samePower (s : State) (l : List Nat) : s.SamePower (s.telemetry l) := by
  simp only [State.telemetry]
  split
  · exact State.write_samePower ..
  · exact (State.write_samePower ..).trans (State.write_samePower ..)

/-! ### Clusters by number -/

@[simp] theorem State.cluster_modCluster (s : State) (c : Nat) (f : Cluster → Cluster) :
    (s.modCluster c f).cluster c = f (s.cluster c) := by
  simp [State.cluster, State.modCluster]
theorem State.cluster_modCluster_ne (s : State) {c k : Nat} (f : Cluster → Cluster) (h : k ≠ c) :
    (s.modCluster c f).cluster k = s.cluster k := by
  simp [State.cluster, State.modCluster, look_put_ne _ _ h]

/-- One change of each cluster of a list. -/
def State.modClusters (s : State) (l : List Nat) (f : Cluster → Cluster) : State := l.foldl (fun s c => s.modCluster c f) s

/-- It changes nothing else. -/
theorem State.modClusters_eq (s : State) (l : List Nat) (f : Cluster → Cluster) :
    s.modClusters l f = { s with clusters := (s.modClusters l f).clusters } := by
  induction l generalizing s with
  | nil => rfl
  | cons a r ih => exact ih (s.modCluster a f)

theorem State.cluster_modClusters_of_notMem (s : State) {l : List Nat} (f : Cluster → Cluster) {c : Nat} (h : c ∉ l) :
    (s.modClusters l f).cluster c = s.cluster c := by
  induction l generalizing s with
  | nil => rfl
  | cons a r ih =>
    rw [List.mem_cons, not_or] at h
    exact (ih _ h.2).trans (s.cluster_modCluster_ne f h.1)

theorem State.cluster_modClusters (s : State) {l : List Nat} (hl : l.Nodup) (f : Cluster → Cluster) {c : Nat} (h : c ∈ l) :
    (s.modClusters l f).cluster c = f (s.cluster c) := by
  induction l generalizing s with
  | nil => simp at h
  | cons a r ih =>
    rw [List.nodup_cons] at hl
    obtain rfl | hr := List.mem_cons.1 h
    · exact (State.cluster_modClusters_of_notMem _ f hl.1).trans (s.cluster_modCluster c f)
    · have hne : c ≠ a := fun e => hl.1 (e ▸ hr)
      exact (ih _ hl.2 hr).trans (congrArg f (s.cluster_modCluster_ne f hne))

theorem clustersOf_nodup (die : Nat) : (clustersOf die).Nodup :=
  List.nodup_range.map fun _ _ h => Nat.add_left_cancel h

/-- The value of a listed key after a change of every value of a list. -/
theorem look_map_value {α β : Type} (l : List (Nat × α)) (f : Nat × α → β) {k : Nat} (h : k ∈ l.map Prod.fst) :
    ∃ x, look (l.map fun p => (p.1, f p)) k = some (f (k, x)) := by
  induction l with
  | nil => simp at h
  | cons p r ih =>
    by_cases hp : p.1 = k
    · exact ⟨p.2, by simp [look, ← hp]⟩
    · have hr : k ∈ r.map Prod.fst := by simpa [Ne.symm hp] using h
      simpa [look, hp] using ih hr

/-! ### The registers of power control (R320, R325) -/

theorem event_onCluster (s : State) {c : Nat} (hc : c < 256) (f : Cluster → Cluster) :
    event s (s.onCluster c f) = .next (s.modCluster c f) := by
  simp [event, State.onCluster, hc]

theorem execSensorRecalibration_next (s : State) {c k : Nat} (hc : c < 256) (hk : k < 4) :
    execSensorRecalibration c k s = .next (s.modCluster c fun y => { y with sensors := { y.sensors with
      recal := y.sensors.recal.setIfInBounds k true, passed := y.sensors.passed.setIfInBounds k 0 } }) := by
  rw [execSensorRecalibration, if_neg (Nat.not_le.2 hk)]
  exact event_onCluster s hc _

theorem execDieCtl_next (s : State) {die : Nat} (h : die < 4) (x : BitVec 64) : execDieCtl die x s =
    .next { s with dies := s.dies.set die { s.dies[die] with reqDiectl := some (x.getLsbD 0) } } := by
  simp [execDieCtl, event, h]

/-! ### The boundary of an interval (R317 to R323) -/

/-- The sensors of every cluster are judged, in the order of their numbers. -/
theorem State.senses_keys (s : State) (rs : List SensorReading) : (s.senses rs).map Prod.fst = List.range 256 := by
  simp only [State.senses, List.map_map]
  refine Eq.trans (List.map_congr_left (g := Prod.fst) fun _ _ => rfl) ?_
  exact List.map_fst_zip (by simp)

/-- The byte budget that the controls have lowered is all that `lowered` changes (R26). -/
theorem Cluster.lowered_eq (c : Cluster) (draw : Nat) : c.lowered draw = { c with limit := (c.lowered draw).limit } := by
  unfold Cluster.lowered
  split <;> rfl

theorem Cluster.lowered_of_quiet {c : Cluster} (h : c.live % 8 = 0) (draw : Nat) : c.lowered draw = c := by
  rw [Cluster.lowered, if_pos h]

/-- A cluster at a boundary, with its sensors judged: its requests applied, the patterns and the reasons of the new interval
set. -/
def Cluster.retune (c : Cluster) (x : Sensors) (high : Bool) : Cluster :=
  (({ c.apply with sensors := x } : Cluster).step high).assert_ true

/-- A cluster of the new interval: retuned, and its byte budget lowered where a control asks it. -/
def Cluster.renew (c : Cluster) (x : Sensors) (high : Bool) (draw : Nat) : Cluster := (c.retune x high).lowered draw

theorem Cluster.smallest_le_cap (c : Cluster) : c.smallest ≤ c.cap := by
  simp only [Cluster.smallest]; omega

section Renew
variable (c : Cluster) (x : Sensors) (high : Bool) (draw : Nat)

theorem Cluster.renew_eq : c.renew x high draw = { c.retune x high with limit := (c.renew x high draw).limit } :=
  Cluster.lowered_eq ..

@[simp] theorem Cluster.renew_budget : (c.renew x high draw).budget = c.reqBudget.getD c.budget := by
  rw [Cluster.renew_eq]; rfl
@[simp] theorem Cluster.renew_pctl : (c.renew x high draw).pctl = c.reqPctl.getD c.pctl := by
  rw [Cluster.renew_eq]; rfl
@[simp] theorem Cluster.renew_reqBudget : (c.renew x high draw).reqBudget = none := by
  rw [Cluster.renew_eq]; rfl
@[simp] theorem Cluster.renew_reqPctl : (c.renew x high draw).reqPctl = none := by
  rw [Cluster.renew_eq]; rfl
@[simp] theorem Cluster.renew_granted : (c.renew x high draw).granted = 0 := by
  rw [Cluster.renew_eq]; rfl
@[simp] theorem Cluster.renew_first : (c.renew x high draw).first = none := by
  rw [Cluster.renew_eq]; rfl
theorem Cluster.renew_cap : (c.renew x high draw).cap = (c.renew x high draw).pctl.toNat + 1 := by
  rw [Cluster.renew_eq]; rfl
theorem Cluster.renew_applied : (c.renew x high draw).applied = (c.renew x high draw).smallest := by
  rw [Cluster.renew_eq]; rfl

theorem Cluster.renew_applied_le : (c.renew x high draw).applied ≤ (c.renew x high draw).pctl.toNat + 1 := by
  rw [Cluster.renew_applied, ← Cluster.renew_cap]
  exact Cluster.smallest_le_cap _

variable {c x high draw} in
/-- With no current, thermal or slew reason the byte budget is whole (R26). -/
theorem Cluster.renew_limit (h : (c.renew x high draw).live % 8 = 0) : (c.renew x high draw).limit = none := by
  have hq : (c.retune x high).live % 8 = 0 := by rw [Cluster.renew_eq] at h; exact h
  rw [Cluster.renew, Cluster.lowered_of_quiet hq]
  rfl

end Renew

/-- The clock of the intervals moves on. -/
def State.nextInterval (s : State) : State := { s with clock := { s.clock with interval := s.clock.interval + 1 } }

/-- Did a sample of the interval on a cluster's die reach 2,850 A, so that the current pattern may not rise? -/
def State.railHigh (s : State) (c : Nat) : Bool := 2850 ≤ (s.dies.toList.getD (c / 64) {}).peak

/-- The clusters of a new interval, from their sensors as judged. -/
def State.renewClusters (s : State) (l : List (Nat × Sensors)) : State :=
  { s with clusters := l.map fun x => (x.1, (s.cluster x.1).renew x.2 (s.railHigh x.1) (s.draws + x.1)) }

theorem State.cluster_renewClusters (s : State) {l : List (Nat × Sensors)} {c : Nat} (h : c ∈ l.map Prod.fst) :
    ∃ x high draw, (s.renewClusters l).cluster c = (s.cluster c).renew x high draw := by
  obtain ⟨x, hx⟩ := look_map_value l (fun x => (s.cluster x.1).renew x.2 (s.railHigh x.1) (s.draws + x.1)) h
  exact ⟨x, _, _, congrArg (·.getD {}) hx⟩

/-- POWER_INTERVAL of a boundary that has passed: the clock moves on, records go to the telemetry ring, every cluster is
renewed, and the dies have their boost granted or not. -/
theorem execPowerInterval_eq (s : State) (rs : List SensorReading) (h : s.clock.interval < s.cycles / 4096) :
    ∃ (records : List (List Nat)) (dies : Vector Die 4) (draws : Nat), execPowerInterval rs s =
      .next { (records.foldl State.telemetry s.nextInterval).renewClusters (s.nextInterval.senses rs) with
        draws := draws, dies := dies } := by
  have hdue : ¬ s.cycles / Config.interval ≤ s.clock.interval := Nat.not_le.2 h
  rw [execPowerInterval, event, if_neg hdue]
  exact ⟨_, _, _, rfl⟩

/-- So a boundary moves the clock of intervals on by one, and each cluster is renewed from what it was. -/
theorem execPowerInterval_next (s : State) (rs : List SensorReading) (h : s.clock.interval < s.cycles / 4096) :
    ∃ t, execPowerInterval rs s = .next t ∧ t.clock = { s.clock with interval := s.clock.interval + 1 } ∧
      ∀ c < 256, ∃ x high draw, t.cluster c = (s.cluster c).renew x high draw := by
  obtain ⟨records, dies, draws, e⟩ := execPowerInterval_eq s rs h
  have hsame := State.SamePower.foldl records s.nextInterval fun t l _ => t.telemetry_samePower l
  refine ⟨_, e, hsame.clock, fun c hc => ?_⟩
  have hk : c ∈ (s.nextInterval.senses rs).map Prod.fst := by
    rw [State.senses_keys]; exact List.mem_range.2 hc
  obtain ⟨x, high, draw, hx⟩ := State.cluster_renewClusters (records.foldl State.telemetry s.nextInterval) hk
  exact ⟨x, high, draw, hx.trans (congrArg (Cluster.renew · x high draw) (hsame.cluster c))⟩

/-! ### Samples of the core rail (R318) -/

/-- Does a sample lower the current patterns of a die: at 2,950 A and above, at most once in 1,024 cycles? -/
def Die.lowers (x : Die) (amps : Nat) : Bool :=
  2950 ≤ amps && (match x.lowered with
    | some c => decide (c + 1024 ≤ x.master)
    | none => true)

theorem Die.lowers_of {x : Die} {amps : Nat} (ha : 2950 ≤ amps)
    (hl : x.lowered = none ∨ ∃ c, x.lowered = some c ∧ c + 1024 ≤ x.master) : x.lowers amps = true := by
  obtain hn | ⟨c, hc, hle⟩ := hl
  · simp [Die.lowers, ha, hn]
  · simp [Die.lowers, ha, hc, hle]

/-- A cluster of a die that has been sampled. -/
def Cluster.sampled (lower : Bool) (c : Cluster) : Cluster :=
  let c := if lower then { c with current := max 1 (c.current - 4) } else c
  ({ c with applied := min c.applied c.current } : Cluster).assert_ false

/-- CURRENT_SAMPLE that is due changes the clusters of its die and the dies' own records alone. -/
theorem execCurrentSample_eq (s : State) {die : Nat} (amps : Nat) (h : die < 4)
    (hs : s.dies[die].sampled < s.dies[die].master / 256) : ∃ dies, execCurrentSample die amps s =
      .next { s.modClusters (clustersOf die) (Cluster.sampled (s.dies[die].lowers amps)) with dies := dies } := by
  rw [execCurrentSample, event, dif_pos h]
  dsimp only
  rw [if_neg (Nat.not_le.2 hs)]
  exact ⟨_, rfl⟩

/-- So it leaves memory and tasks alone, and each cluster of the die takes the sample once. -/
theorem execCurrentSample_next (s : State) {die : Nat} (amps : Nat) (h : die < 4)
    (hs : s.dies[die].sampled < s.dies[die].master / 256) :
    ∃ t, execCurrentSample die amps s = .next t ∧ t.mem = s.mem ∧ t.tasks = s.tasks ∧
      ∀ c ∈ clustersOf die, t.cluster c = (s.cluster c).sampled (s.dies[die].lowers amps) := by
  obtain ⟨dies, e⟩ := execCurrentSample_eq s amps h hs
  rw [State.modClusters_eq] at e
  refine ⟨_, e, rfl, rfl, fun c hc => ?_⟩
  rw [← s.cluster_modClusters (clustersOf_nodup die) (Cluster.sampled _) hc]
  simp only [State.cluster]

/-! ### The statements -/

/-- Settles O1: the state after reset is given by its fields, and no tile of it is listed. -/
theorem resetState : Obligations.ResetState :=
  ⟨rfl, rfl, rfl, rfl, rfl, rfl, fun _ => ⟨rfl, rfl⟩⟩

/-- Settles O58, register by register; a boundary by `execPowerInterval_next` and what `renew` does, a sample by
`execCurrentSample_next`. -/
theorem powerEvents : Obligations.PowerEvents := by
  intro s c k die amps x rs
  refine ⟨fun hc => ⟨event_onCluster s hc _, event_onCluster s hc _, event_onCluster s hc _, event_onCluster s hc _,
    fun hk => execSensorRecalibration_next s hc hk⟩, fun h => execDieCtl_next s h x, fun h => ?_, fun h hs ha hl => ?_⟩
  · obtain ⟨t, ht, hclock, hall⟩ := execPowerInterval_next s rs h
    refine ⟨t, ht, hclock, fun c hc => ?_⟩
    obtain ⟨y, high, draw, e⟩ := hall c hc
    rw [e]
    exact ⟨by simp, by simp, by simp, by simp, by simp, Cluster.renew_limit, by simp, Cluster.renew_applied_le ..,
      Cluster.renew_applied ..⟩
  · obtain ⟨t, ht, hmem, htasks, hall⟩ := execCurrentSample_next s amps h hs
    refine ⟨t, ht, hmem, htasks, fun c hc => ?_⟩
    rw [hall c hc, Die.lowers_of ha hl]
    exact ⟨rfl, rfl, rfl, rfl⟩

end Sys2Proof.Machine
end

section
/-! The decoder reads back what the encoder writes (R34 to R60). -/

namespace Sys2Proof

open BitVec (extractLsb'_append_eq_of_le extractLsb'_append_eq_of_add_le extractLsb'_eq_self)

/-! ### The fields of each format (R35) -/

section Fields
variable (m : BitVec 6) (d a b x : BitVec 5)

@[simp] theorem fields_encA (fn : BitVec 6) : let w := encA m d a b x fn
    fMaj w = m ∧ fD w = d ∧ fA w = a ∧ fB w = b ∧ fX w = x ∧ fFn w = fn := by
  simp (disch := omega) only [encA, fMaj, fD, fA, fB, fX, fFn, extractLsb'_append_eq_of_le,
    extractLsb'_append_eq_of_add_le, extractLsb'_eq_self, Nat.reduceSub, and_self]

@[simp] theorem fields_encI (i : BitVec 16) : let w := encI m d a i
    fMaj w = m ∧ fD w = d ∧ fA w = a ∧ fImm w = i := by
  simp (disch := omega) only [encI, fMaj, fD, fA, fImm, extractLsb'_append_eq_of_le,
    extractLsb'_append_eq_of_add_le, extractLsb'_eq_self, Nat.reduceSub, and_self]

/-- A part of the immediate. -/
theorem extractLsb'_encI (i : BitVec 16) {lo n : Nat} (h : lo + n ≤ 16) :
    (encI m d a i).extractLsb' lo n = i.extractLsb' lo n := extractLsb'_append_eq_of_add_le h

@[simp] theorem fields_encL (h z : BitVec 2) (o : BitVec 12) : let w := encL m d b h z o
    fMaj w = m ∧ fD w = d ∧ fA w = b ∧ fHint w = h ∧ fSize w = z ∧ fOff w = o := by
  simp (disch := omega) only [encL, fMaj, fD, fA, fHint, fSize, fOff, extractLsb'_append_eq_of_le,
    extractLsb'_append_eq_of_add_le, extractLsb'_eq_self, Nat.reduceSub, and_self]

@[simp] theorem fields_encJ (o : BitVec 21) : let w := encJ m d o
    fMaj w = m ∧ fD w = d ∧ fJ w = o := by
  simp (disch := omega) only [encJ, fMaj, fD, fJ, extractLsb'_append_eq_of_le,
    extractLsb'_append_eq_of_add_le, extractLsb'_eq_self, Nat.reduceSub, and_self]

@[simp] theorem fields_encV (k : BitVec 3) (t fn : BitVec 4) : let w := encV m d a b k t fn
    fMaj w = m ∧ fD w = d ∧ fA w = a ∧ fB w = b ∧ fMask w = k ∧ fType w = t ∧ fFn4 w = fn := by
  simp (disch := omega) only [encV, fMaj, fD, fA, fB, fMask, fType, fFn4, extractLsb'_append_eq_of_le,
    extractLsb'_append_eq_of_add_le, extractLsb'_eq_self, Nat.reduceSub, and_self]

@[simp] theorem fields_encH (h h2 : BitVec 4) (fn : BitVec 8) : let w := encH m h a b h2 fn
    fMaj w = m ∧ fH w = h ∧ fHA w = a ∧ fHB w = b ∧ fH2 w = h2 ∧ fFn8 w = fn := by
  simp (disch := omega) only [encH, fMaj, fH, fHA, fHB, fH2, fFn8, extractLsb'_append_eq_of_le,
    extractLsb'_append_eq_of_add_le, extractLsb'_eq_self, Nat.reduceSub, and_self]

@[simp] theorem fields_encS (n : BitVec 12) (fn : BitVec 4) : let w := encS m d a n fn
    fMaj w = m ∧ fD w = d ∧ fA w = a ∧ fNum w = n ∧ fFn4 w = fn := by
  simp (disch := omega) only [encS, fMaj, fD, fA, fNum, fFn4, extractLsb'_append_eq_of_le,
    extractLsb'_append_eq_of_add_le, extractLsb'_eq_self, Nat.reduceSub, and_self]

end Fields

/-! ### Codes of small fields -/

@[simp] theorem Size.ofCode_code (z : Size) : Size.ofCode z.code = z := by cases z <;> rfl
@[simp] theorem Hint.ofCode_code (h : Hint) : Hint.ofCode h.code = h := by cases h <;> rfl
@[simp] theorem Scope.ofCode_code (c : Scope) : Scope.ofCode c.code = some c := by cases c <;> rfl
@[simp] theorem Order.ofCode_code (o : Order) : Order.ofCode o.code = o := by cases o <;> rfl
@[simp] theorem FenceKind.ofCode_code (k : FenceKind) : FenceKind.ofCode k.code = some k := by cases k <;> rfl
@[simp] theorem PfLevel.ofCode_code (l : PfLevel) : PfLevel.ofCode l.code = some l := by cases l <;> rfl
@[simp] theorem Cond.ofCode_code (c : Cond) : Cond.ofCode c.code = c := by cases c <;> rfl
@[simp] theorem RedOp.ofCode_code (p : RedOp) : RedOp.ofCode p.code = some p := by cases p <;> rfl
@[simp] theorem EngQ.ofCode_code (q : EngQ) : EngQ.ofCode q.code = q := by cases q <;> rfl
@[simp] theorem MCode.ofCode_code (m : MCode) : MCode.ofCode m.code = some m := by cases m <;> rfl
@[simp] theorem VTy.ofCode_bits4 (t : VTy) : VTy.ofCode t.bits4.toNat = some t := by cases t <;> rfl
/-- The type in a 5-bit field. -/
@[simp] theorem VTy.ofCode_wide (t : VTy) : VTy.ofCode (0#1 ++ t.bits4).toNat = some t := by cases t <;> rfl
@[simp] theorem bitOf_eq_one (b : Bool) : (bitOf b == 1#1) = b := by cases b <;> rfl

@[simp] theorem fieldM_wide (k : BitVec 3) (f : MReg → Except Reject Instr) : fieldM (wide k) f = f k := by
  have h : (wide k).toNat < 8 := by rw [wide, BitVec.toNat_append]; simp; exact k.isLt
  have e : (wide k).setWidth 3 = k := BitVec.setWidth_append_eq_right
  rw [fieldM, if_pos h, e]

@[simp] theorem withScope_code (c : Scope) (f : Scope → Except Reject Instr) : withScope c.code f = f c := by
  simp [withScope]

/-- The three parts of a 5-bit x field (R49). -/
@[simp] theorem parts_append5 (b : BitVec 1) (o c : BitVec 2) : let x := b ++ o ++ c
    x.extractLsb' 0 2 = c ∧ x.extractLsb' 2 2 = o ∧ x.extractLsb' 4 1 = b := by
  simp (disch := omega) only [extractLsb'_append_eq_of_le, extractLsb'_append_eq_of_add_le, extractLsb'_eq_self,
    Nat.reduceSub, and_self]

/-- Fields of two parts. -/
@[simp] theorem parts_append16 (x : BitVec 2) (y : BitVec 14) : let i : BitVec 16 := x ++ y
    i.extractLsb' 14 2 = x ∧ i.extractLsb' 0 14 = y :=
  ⟨BitVec.extractLsb'_append_eq_left, BitVec.extractLsb'_append_eq_right⟩
@[simp] theorem parts_append5_23 (x : BitVec 2) (y : BitVec 3) : let i : BitVec 5 := x ++ y
    i.extractLsb' 3 2 = x ∧ i.extractLsb' 0 3 = y :=
  ⟨BitVec.extractLsb'_append_eq_left, BitVec.extractLsb'_append_eq_right⟩
@[simp] theorem parts_append5_32 (x : BitVec 3) (y : BitVec 2) : let i : BitVec 5 := x ++ y
    i.extractLsb' 2 3 = x ∧ i.extractLsb' 0 2 = y :=
  ⟨BitVec.extractLsb'_append_eq_left, BitVec.extractLsb'_append_eq_right⟩
@[simp] theorem parts_append5_14 (x : BitVec 1) (y : BitVec 4) : let i : BitVec 5 := x ++ y
    i.extractLsb' 4 1 = x ∧ i.extractLsb' 0 4 = y :=
  ⟨BitVec.extractLsb'_append_eq_left, BitVec.extractLsb'_append_eq_right⟩
@[simp] theorem parts_append4 (x : BitVec 1) (y : BitVec 3) : let i : BitVec 4 := x ++ y
    i.extractLsb' 3 1 = x ∧ i.extractLsb' 0 3 = y :=
  ⟨BitVec.extractLsb'_append_eq_left, BitVec.extractLsb'_append_eq_right⟩

/-- The immediate of a shift (R44). -/
theorem parts_shift (k : BitVec 2) (n : BitVec 6) : let i := 0#8 ++ k ++ n
    i.extractLsb' 8 8 = 0#8 ∧ i.extractLsb' 6 2 = k ∧ i.extractLsb' 0 6 = n := by
  simp (disch := omega) only [extractLsb'_append_eq_of_le, extractLsb'_append_eq_of_add_le, extractLsb'_eq_self,
    Nat.reduceSub, and_self]

/-- The immediate of EXT (R44). -/
theorem parts_ext (g : BitVec 1) (w l : BitVec 6) : let i := 0#3 ++ g ++ w ++ l
    i.extractLsb' 13 3 = 0#3 ∧ i.extractLsb' 12 1 = g ∧ i.extractLsb' 6 6 = w ∧ i.extractLsb' 0 6 = l := by
  simp (disch := omega) only [extractLsb'_append_eq_of_le, extractLsb'_append_eq_of_add_le, extractLsb'_eq_self,
    Nat.reduceSub, and_self]

/-! ### Scalar words (R44 to R54) -/

/-- A word with a major opcode is not the all-zero word. -/
theorem eq_zero_of_fMaj {w : Word32} (h : fMaj w ≠ 0) : (w = 0#32) = False :=
  eq_false fun e => h (e ▸ rfl)

/-- What stands at the start of the words of an instruction is that instruction. -/
def Instr.Parses (i : Instr) : Prop := ∀ w rest, encode i = w :: rest → parse w rest = .ok i

theorem Instr.Parses.of_event {i : Instr} (h : encode i = []) : i.Parses := fun w rest e => by simp [h] at e

theorem Instr.Parses.of_word {i : Instr} {w : Word32} (he : encode i = [w]) (hc : fMaj w ≠ 0x3F)
    (h : parseScalar w = .ok i) : i.Parses := fun w' rest e => by
  obtain ⟨rfl, rfl⟩ := List.cons.inj (he.symm.trans e)
  rw [parse, isCommandWord, if_neg (by simpa using hc), h]

/-! The parser of each major opcode (R44). -/

section Majors
variable {w : Word32}

theorem parseScalar_alu (h : fMaj w = 0x01) : parseScalar w = parseAlu w := by
  simp [parseScalar, h, eq_zero_of_fMaj]
theorem parseScalar_shiftImm (h : fMaj w = 0x07) : parseScalar w = parseShiftImm w := by
  simp [parseScalar, h, eq_zero_of_fMaj]
theorem parseScalar_minMaxImm (h : fMaj w = 0x0A) : parseScalar w = parseMinMaxImm w := by
  simp [parseScalar, h, eq_zero_of_fMaj]
theorem parseScalar_extImm (h : fMaj w = 0x0B) : parseScalar w = parseExtImm w := by
  simp [parseScalar, h, eq_zero_of_fMaj]
theorem parseScalar_maskBranch (h : fMaj w = 0x16) : parseScalar w = parseMaskBranch w := by
  simp [parseScalar, h, eq_zero_of_fMaj]
theorem parseScalar_fence (h : fMaj w = 0x25) : parseScalar w = parseFence w := by
  simp [parseScalar, h, eq_zero_of_fMaj]
theorem parseScalar_pf (h : fMaj w = 0x26) : parseScalar w = parsePf w := by
  simp [parseScalar, h, eq_zero_of_fMaj]
theorem parseScalar_amo (h : fMaj w = 0x28) : parseScalar w = parseAmo w := by
  simp [parseScalar, h, eq_zero_of_fMaj]
theorem parseScalar_wait (h : fMaj w = 0x29) : parseScalar w = parseWait w := by
  simp [parseScalar, h, eq_zero_of_fMaj]
theorem parseScalar_vec0 (h : fMaj w = 0x30) : parseScalar w = withType w parseVec0 := by
  simp [parseScalar, h, eq_zero_of_fMaj]
theorem parseScalar_vec1 (h : fMaj w = 0x31) : parseScalar w = withType w parseVec1 := by
  simp [parseScalar, h, eq_zero_of_fMaj]
theorem parseScalar_vrep (h : fMaj w = 0x33) : parseScalar w = parseVrep w := by
  simp [parseScalar, h, eq_zero_of_fMaj]
theorem parseScalar_mask (h : fMaj w = 0x34) : parseScalar w = parseMask w := by
  simp [parseScalar, h, eq_zero_of_fMaj]
theorem parseScalar_task (h : fMaj w = 0x38) : parseScalar w = parseTask w := by
  simp [parseScalar, h, eq_zero_of_fMaj]
theorem parseScalar_group (h : fMaj w = 0x39) : parseScalar w = parseGroup w := by
  simp [parseScalar, h, eq_zero_of_fMaj]
theorem parseScalar_queue (h : fMaj w = 0x3A) : parseScalar w = parseQueue w := by
  simp [parseScalar, h, eq_zero_of_fMaj]
theorem parseScalar_role (h : fMaj w = 0x3B) : parseScalar w = parseRole w := by
  simp [parseScalar, h, eq_zero_of_fMaj]
theorem parseScalar_system (h : fMaj w = 0x3C) : parseScalar w = parseSystem w := by
  simp [parseScalar, h, eq_zero_of_fMaj]

end Majors

/-! ### Tile commands (R56 to R60) -/

/-- The successor's queue, in word 0, and its tag, in word 1 (R57, R58). -/
def CmdHead.chainQueue (hd : CmdHead) : BitVec 2 := match hd.chain with
  | some (s, _) => s.code
  | none => 0
def CmdHead.chainTag (hd : CmdHead) : BitVec 8 := match hd.chain with
  | some (_, t) => t
  | none => 0

/-- Word 0 of a command (R57). -/
def encWord0 (op : BitVec 6) (q : BitVec 2) (tag : BitVec 8) (f : BitVec 4) (fe ce : BitVec 1) (cq : BitVec 2) : Word32 :=
  0x3F#6 ++ op ++ q ++ tag ++ f ++ fe ++ ce ++ cq ++ 0#2
def CmdHead.word (hd : CmdHead) (op : BitVec 6) (q : EngQ) : Word32 :=
  encWord0 op q.code hd.tag (hd.fut.getD 0) (bitOf hd.fut.isSome) (bitOf hd.chain.isSome) hd.chainQueue

theorem encCommand_eq (op : BitVec 6) (q : EngQ) (hd : CmdHead) (b1 : BitVec 18) (c2 c3 c4 c5 c6 c7 : BitVec 26) :
    encCommand op q hd b1 c2 c3 c4 c5 c6 c7 = hd.word op q :: [encTailWord (hd.chainTag ++ b1), encTailWord c2,
      encTailWord c3, encTailWord c4, encTailWord c5, encTailWord c6, encTailWord c7] := rfl

@[simp] theorem fields_encTailWord (c : BitVec 26) : fMaj (encTailWord c) = 0x3E#6 ∧ cont (encTailWord c) = c := by
  simp (disch := omega) only [encTailWord, fMaj, cont, extractLsb'_append_eq_of_le, extractLsb'_append_eq_of_add_le,
    extractLsb'_eq_self, Nat.reduceSub, and_self]

@[simp] theorem fields_encWord0 (op : BitVec 6) (q : BitVec 2) (tag : BitVec 8) (f : BitVec 4) (fe ce : BitVec 1)
    (cq : BitVec 2) : let w := encWord0 op q tag f fe ce cq
    fMaj w = 0x3F#6 ∧ w.extractLsb' 20 6 = op ∧ w.extractLsb' 18 2 = q ∧ w.extractLsb' 10 8 = tag ∧
      w.extractLsb' 6 4 = f ∧
      w.extractLsb' 5 1 = fe ∧ w.extractLsb' 4 1 = ce ∧ w.extractLsb' 2 2 = cq ∧ w.extractLsb' 0 2 = 0#2 := by
  simp (disch := omega) only [encWord0, fMaj, extractLsb'_append_eq_of_le, extractLsb'_append_eq_of_add_le,
    extractLsb'_eq_self, Nat.reduceSub, and_self]

/-- The fields of word 1 (R58). -/
@[simp] theorem fields_word1 (t : BitVec 8) (b : BitVec 18) : let c : BitVec 26 := t ++ b
    c.extractLsb' 18 8 = t ∧ opBody c = b := by
  simp (disch := omega) only [opBody, extractLsb'_append_eq_of_le, extractLsb'_append_eq_of_add_le,
    extractLsb'_eq_self, Nat.reduceSub, and_self]
theorem extractLsb'_word1 (t : BitVec 8) (b : BitVec 18) {lo n : Nat} (h : lo + n ≤ 18) :
    (t ++ b : BitVec 26).extractLsb' lo n = b.extractLsb' lo n := extractLsb'_append_eq_of_add_le h

theorem fields_shape (acc : BitVec 6) (m : BitVec 2) (n : BitVec 6) : let b := acc ++ m ++ n ++ 0#4
    b.extractLsb' 12 6 = acc ∧ b.extractLsb' 10 2 = m ∧ b.extractLsb' 4 6 = n ∧ b.extractLsb' 0 4 = 0#4 := by
  simp (disch := omega) only [extractLsb'_append_eq_of_le, extractLsb'_append_eq_of_add_le, extractLsb'_eq_self,
    Nat.reduceSub, and_self]

/-- The fields of an operand descriptor (R59). -/
theorem fields_opnd (k : BitVec 2) (base : BitVec 5) (ty : BitVec 4) (s : BitVec 5) (o : BitVec 10) :
    let c := k ++ base ++ ty ++ s ++ o
    c.extractLsb' 24 2 = k ∧ c.extractLsb' 19 5 = base ∧ c.extractLsb' 15 4 = ty ∧ c.extractLsb' 10 5 = s ∧
      c.extractLsb' 0 10 = o := by
  simp (disch := omega) only [extractLsb'_append_eq_of_le, extractLsb'_append_eq_of_add_le, extractLsb'_eq_self,
    Nat.reduceSub, and_self]

@[simp] theorem parseOpnd_encOpnd (o : Opnd) : parseOpnd (encOpnd o) = .ok o := by
  cases o with
  | mem l2 => cases l2 <;> simp [parseOpnd, encOpnd, fields_opnd, -BitVec.reduceAppend]
  | berth => simp [parseOpnd, encOpnd, fields_opnd, -BitVec.reduceAppend]

@[simp] theorem parseShape_encShape (t : BitVec 8) (sh : Shape) : parseShape (t ++ encShape sh) = .ok sh := by
  simp [parseShape, encShape, extractLsb'_word1, fields_shape]

theorem fields_scale (a b : BitVec 5) : let c := a ++ b ++ 0#14 ++ 2#2
    c.extractLsb' 21 5 = a ∧ c.extractLsb' 16 5 = b ∧ c.extractLsb' 2 14 = 0#14 ∧ c.extractLsb' 0 2 = 2#2 := by
  simp (disch := omega) only [extractLsb'_append_eq_of_le, extractLsb'_append_eq_of_add_le, extractLsb'_eq_self,
    Nat.reduceSub, and_self]

@[simp] theorem parseScale_encScale (sc : ScaleMode) : parseScale (encScale sc) = .ok sc := by
  cases sc with
  | none => rfl
  | side => rfl
  | regs a b => simp [parseScale, encScale, fields_scale, -BitVec.reduceAppend]

@[simp] theorem parseHead_word (op : BitVec 6) (q : EngQ) (hd : CmdHead) (b : BitVec 18) :
    parseHead (hd.word op q) (hd.chainTag ++ b) = .ok hd := by
  obtain ⟨tag, fut, chain⟩ := hd
  cases fut <;> cases chain <;> simp [parseHead, CmdHead.word, CmdHead.chainTag, CmdHead.chainQueue]

@[simp] theorem parse_word (op : BitVec 6) (q : EngQ) (hd : CmdHead) (c1 c2 c3 c4 c5 c6 c7 : BitVec 26) :
    parse (hd.word op q) [encTailWord c1, encTailWord c2, encTailWord c3, encTailWord c4, encTailWord c5,
      encTailWord c6, encTailWord c7] = parseCommand (hd.word op q) ⟨c1, c2, c3, c4, c5, c6, c7⟩ := by
  simp [parse, isCommandWord, tailOf, CmdHead.word]

theorem Instr.Parses.of_command {i : Instr} {op : BitVec 6} {q : EngQ} {hd : CmdHead} {b1 : BitVec 18}
    {c2 c3 c4 c5 c6 c7 : BitVec 26} (he : encode i = encCommand op q hd b1 c2 c3 c4 c5 c6 c7)
    (h : parseCommand (hd.word op q) ⟨hd.chainTag ++ b1, c2, c3, c4, c5, c6, c7⟩ = .ok i) : i.Parses :=
  fun w rest e => by
    rw [he, encCommand_eq] at e
    obtain ⟨rfl, rfl⟩ := List.cons.inj e
    rw [parse_word, h]

@[simp] theorem fields_word (hd : CmdHead) (op : BitVec 6) (q : EngQ) :
    (hd.word op q).extractLsb' 20 6 = op ∧ (hd.word op q).extractLsb' 18 2 = q.code := by
  simp [CmdHead.word]

/-- A word with a length register, with a length and a value register, of ACCST's registers and type, and with TSUB's flag
(R58). -/
@[simp] theorem fields_encLen (l : GReg) : lenReg (encLen l) = l ∧ (encLen l).extractLsb' 0 21 = 0#21 := by
  simp (disch := omega) only [encLen, lenReg, extractLsb'_append_eq_of_le, extractLsb'_append_eq_of_add_le,
    extractLsb'_eq_self, Nat.reduceSub, and_self]
theorem fields_fill (l v : GReg) : let c := l ++ v ++ 0#16
    lenReg c = l ∧ valReg c = v ∧ c.extractLsb' 0 16 = 0#16 := by
  simp (disch := omega) only [lenReg, valReg, extractLsb'_append_eq_of_le, extractLsb'_append_eq_of_add_le,
    extractLsb'_eq_self, Nat.reduceSub, and_self]
theorem fields_accst (ta tb : GReg) (out : BitVec 4) : let c := 0#10 ++ ta ++ tb ++ out ++ 0#2
    c.extractLsb' 16 10 = 0#10 ∧ c.extractLsb' 11 5 = ta ∧ c.extractLsb' 6 5 = tb ∧ c.extractLsb' 2 4 = out ∧
      c.extractLsb' 0 2 = 0#2 := by
  simp (disch := omega) only [extractLsb'_append_eq_of_le, extractLsb'_append_eq_of_add_le, extractLsb'_eq_self,
    Nat.reduceSub, and_self]
theorem fields_pull (p : BitVec 1) : let c : BitVec 26 := 0#25 ++ p
    c.extractLsb' 1 25 = 0#25 ∧ c.extractLsb' 0 1 = p :=
  ⟨BitVec.extractLsb'_append_eq_left, BitVec.extractLsb'_append_eq_right⟩
/-- The bodies of word 1 of TABLD and QFENCE (R58). -/
theorem fields_slot (n : BitVec 2) : let b : BitVec 18 := 0#16 ++ n
    b.extractLsb' 2 16 = 0#16 ∧ b.extractLsb' 0 2 = n :=
  ⟨BitVec.extractLsb'_append_eq_left, BitVec.extractLsb'_append_eq_right⟩
theorem fields_queues (m : BitVec 4) : let b : BitVec 18 := 0#14 ++ m
    b.extractLsb' 4 14 = 0#14 ∧ b.extractLsb' 0 4 = m :=
  ⟨BitVec.extractLsb'_append_eq_left, BitVec.extractLsb'_append_eq_right⟩

theorem ok_bind {ε α β : Type} (a : α) (f : α → Except ε β) : ((Except.ok a : Except ε α) >>= f) = f a := rfl

/-- The tile commands. -/
theorem Instr.parses_of_isCommand {i : Instr} (h : i.isCommand = true) : i.Parses := by
  cases i with
  | mma | mmas | accz | accld | tcopy | tgather | tscatter | tunsub =>
    exact .of_command rfl (by simp [parseCommand, ok_bind, EngQ.code])
  | txchg hd sh g =>
    have hg : (encLen g).extractLsb' 21 5 = g := (fields_encLen g).1
    exact .of_command rfl (by simp [parseCommand, ok_bind, EngQ.code, hg])
  | accst => exact .of_command rfl (by simp [parseCommand, ok_bind, EngQ.code, fields_accst])
  | tabld => exact .of_command rfl (by simp [parseCommand, ok_bind, EngQ.code, extractLsb'_word1, fields_slot])
  | tfill => exact .of_command rfl (by simp [parseCommand, ok_bind, EngQ.code, fields_fill])
  | tsub => exact .of_command rfl (by simp [parseCommand, ok_bind, EngQ.code, fields_pull])
  | qfence hd q => exact .of_command rfl (by cases q <;> simp [parseCommand, ok_bind, extractLsb'_word1, fields_queues])
  | _ => cases h


/-! ### Every instruction -/

/-- Row by row of the tables of R44 to R60. -/
theorem Instr.parses (i : Instr) : i.Parses := by
  cases i with
  | add d a b | sub d a b | mul d a b | mulh d a b | mulhu d a b | div d a b | divu d a b | rem d a b
  | remu d a b | and d a b | or d a b | xor d a b | shl d a b | shr d a b | sra d a b | slt d a b | sltu d a b
  | min d a b | max d a b | minu d a b | maxu d a b | ext d a b | clz d a | popc d a =>
    exact .of_word rfl (by simp) ((parseScalar_alu (by simp)).trans (by simp [parseAlu, whenZero]))
  | addImm d a i | mulImm d a i | andImm d a i | orImm d a i | xorImm d a i | sltImm d a i | sltuImm d a i
  | jalr d a i | beq a b o | bne a b o | blt a b o | bge a b o | bltu a b o | bgeu a b o | jal l o =>
    exact .of_word rfl (by simp) (by simp [parseScalar, eq_zero_of_fMaj])
  | lui d i =>
    exact .of_word rfl (by simp) (by simp [parseScalar, eq_zero_of_fMaj, whenZero])
  | shlImm d a n | shrImm d a n | sraImm d a n =>
    exact .of_word rfl (by simp)
      ((parseScalar_shiftImm (by simp)).trans (by simp [parseShiftImm, extractLsb'_encI, parts_shift, -BitVec.reduceAppend]))
  | minImm d a i | maxImm d a i | minuImm d a i | maxuImm d a i =>
    exact .of_word rfl (by simp)
      ((parseScalar_minMaxImm (by simp)).trans (by simp [parseMinMaxImm, fHint, extractLsb'_encI]))
  | extImm d a s w l =>
    exact .of_word rfl (by simp)
      ((parseScalar_extImm (by simp)).trans (by simp [parseExtImm, whenZero, extractLsb'_encI, parts_ext, -BitVec.reduceAppend]))
  | bmany k o | bmnone k o | bmall k o =>
    exact .of_word rfl (by simp) ((parseScalar_maskBranch (by simp)).trans (by simp [parseMaskBranch]))
  | ld d b h z o | ldn d b h z o | st d b h z o | lda d b h z o | stl d b h z o =>
    exact .of_word rfl (by simp) (by simp [parseScalar, eq_zero_of_fMaj])
  | fence k c | cinv a | cinvAll =>
    exact .of_word rfl (by simp) ((parseScalar_fence (by simp)).trans (by simp [parseFence, whenZero]))
  | pf b h l o =>
    exact .of_word rfl (by simp) ((parseScalar_pf (by simp)).trans (by simp [parsePf, whenZero]))
  | amoAdd d a b dw o c | amoAnd d a b dw o c | amoOr d a b dw o c | amoXor d a b dw o c | amoMin d a b dw o c
  | amoMax d a b dw o c | amoMinn d a b dw o c | amoMaxn d a b dw o c | amoSwap d a b dw o c
  | amocas d a b dw o c =>
    exact .of_word rfl (by simp) ((parseScalar_amo (by simp)).trans (by simp [parseAmo]))
  | mwait d a b dw c | evwait d a | evsig a b =>
    exact .of_word rfl (by simp) ((parseScalar_wait (by simp)).trans (by simp [parseWait, whenZero]))
  | vadd d a b k t | vsub d a b k t | vmul d a b k t | vfma d a b k t | vmin d a b k t | vmax d a b k t
  | vand d a b k t | vor d a b k t | vxor d a b k t | vshl d a b k t | vshr d a b k t | vsra d a b k t
  | vsel d a b k t | vabs d a k t | vneg d a k t | vcmp c m a b k t =>
    exact .of_word rfl (by simp) ((parseScalar_vec0 (by simp)).trans (by simp [withType, parseVec0, whenZero]))
  | vaddSat d a b k t | vsubSat d a b k t | vred d a b k t | vscan d a b k t | vcvt d a b k t | vdec d a b k t
  | venc d a b k t | vperm d a b k t | vslide d a b k t | vrcp d a k t | vrsq d a k t | vexp2 d a k t
  | vlog2 d a k t | vbcast d a k t | vmovs g a l t | viota d k t =>
    exact .of_word rfl (by simp)
      ((parseScalar_vec1 (by simp)).trans (by simp [withType, withRed, parseVec1, whenZero]))
  | vld d a b k t | vst d a b k t | vldx d a b k t | vstx d a b k t =>
    exact .of_word rfl (by simp) (by simp [parseScalar, eq_zero_of_fMaj, withType, parseVec2])
  | vrep n a s =>
    exact .of_word rfl (by simp) ((parseScalar_vrep (by simp)).trans (by simp [parseVrep, whenZero]))
  | mset d a | mand d a b | mor d a b | mxor d a b | mnot d a | mpopc d a | mfirst d a =>
    exact .of_word rfl (by simp) ((parseScalar_mask (by simp)).trans (by simp [parseMask, whenZero]))
  | spawn h a b | spawnPass h a b p | gang h a | fork h a b | fwait h a b | ftest h a | fcancel h | fref h s
  | fdrop h | fpin h a | ftake h a | fdone a | depdec h | depdecMem a | rpoint | self h | exit a | yield =>
    exact .of_word rfl (by simp) ((parseScalar_task (by simp)).trans (by simp [parseTask, whenZero]))
  | gjoin a | gleave a | gbar a b | garrive a | xput a b =>
    exact .of_word rfl (by simp) ((parseScalar_group (by simp)).trans (by simp [parseGroup, whenZero]))
  | qnew a b | qfree a | qbind p a | qpush a b | qpop a b | qenq h a b | qlen a b =>
    exact .of_word rfl (by simp) ((parseScalar_queue (by simp)).trans (by simp [parseQueue, whenZero]))
  | lease a b | unlease a | rack a | rlook a b | snapopen a | snapcommit a | snaproll a b =>
    exact .of_word rfl (by simp) ((parseScalar_role (by simp)).trans (by simp [parseRole, whenZero]))
  | srrd d r | srwr a r | trap c | brk c | eret | tinv a | tinvAll | sleep a =>
    exact .of_word rfl (by simp) ((parseScalar_system (by simp)).trans (by simp [parseSystem, whenZero]))
  | mma | mmas | accz | accld | accst | tabld | tcopy | tfill | tgather | tscatter | txchg | tsub | tunsub | qfence =>
    exact parses_of_isCommand rfl
  | _ => exact .of_event rfl

theorem decode_encode {i : Instr} {w : Word32} {rest : List Word32} (hw : i.WellFormed) (he : encode i = w :: rest) :
    decode w rest = .ok i := by
  rw [decode, i.parses w rest he]
  simp only [hw]

/-- Settles O8: the parser reads back the fields that the encoder writes, and a well-formed instruction passes the checks. -/
theorem decodeEncode : Obligations.DecodeEncode := fun _ _ _ => decode_encode

end Sys2Proof
end

section
/-! How an instruction ends that stops a doomed task, or whose destination is a queue port (R39, R135, R407, R417). -/

namespace Sys2Proof.Machine

/-! ### What a task is to an instruction's end -/

/-- What the end of an instruction reads of its task: the registers, the device and the place. -/
def Task.frame (t : Task) : Ctx × Nat × Place := (t.ctx, t.vd, t.last)

/-- The same of a task by number. -/
def State.frame (s : State) (u : Nat) : Option (Ctx × Nat × Place) := (s.task? u).map Task.frame

theorem State.task_of_frame {s : State} {u : Nat} {t : Task} (h : s.frame u = some t.frame) :
    ∃ x, s.task? u = some x ∧ x.ctx = t.ctx ∧ x.vd = t.vd ∧ x.last = t.last := by
  obtain ⟨x, hx, e⟩ := Option.map_eq_some_iff.1 h
  simp only [Task.frame, Prod.mk.injEq] at e
  exact ⟨x, hx, e⟩

theorem State.frame_of_task {s : State} {u : Nat} {t : Task} (h : s.task? u = some t) : s.frame u = some t.frame := by
  simp [State.frame, h]

theorem State.frame_of_issues {s : State} {i : Instr} {id : Nat} {t : Task} (h : s.issues i id t) :
    s.frame id = some t.frame := State.frame_of_task h.1.2

/-! ### Bindings of ports -/

theorem Ctx.port_setPort (c : Ctx) (n k : Nat) (p : Port) :
    (c.setPort n p).port k = if n = k ∧ k < 8 then p else c.port k := by
  simp only [Ctx.port, Ctx.setPort, List.getD_eq_getElem?_getD, Vector.toList_setIfInBounds, List.getElem?_set,
    Vector.length_toList]
  by_cases h : n = k
  · subst h
    by_cases hn : n < 8
    · simp [hn]
    · simp [hn]
  · simp [h]

/-- Emptying a latch leaves the port's binding. -/
theorem Ctx.bound_clearLatches (c : Ctx) (l : List GReg) (n : Nat) :
    ((c.clearLatches l).port n).bound = (c.port n).bound := by
  unfold Ctx.clearLatches
  induction l generalizing c with
  | nil => rfl
  | cons r l ih =>
    rw [List.foldl_cons, ih]
    split
    · rw [Ctx.port_setPort]
      split
      · rename_i h; rw [h.1]
      · rfl
    · rfl

/-! ### The end of an instruction -/

/-- What `run` does when its body stops a doomed task (R135). -/
theorem run_doomed {i : Instr} {body : Nat → Task → List Word → Act Done} {s : State} {id : Nat} {t : Task}
    (h : s.issues i id t) (hb : body id t (i.sources.map t.ctx.src) s = .error .doomed) :
    run i body s = .next (s.stopHere id s.cur) := by
  rw [run_issues h]
  simp only [act_bind, hb, settleTurn, Stop.traps, settle, Bool.false_and, Bool.false_eq_true, if_false]

/-- Completing an instruction, its destinations aside: what `State.wrote` says, at the pc that the body answers. -/
theorem complete_wrote (s : State) (id : Nat) (i : Instr) (d : Done) :
    (s.modTask id fun t => { t.unkeep with
      ctx := Done.next i d (t.ctx.clearLatches i.sources), woke := none, fault := none }) =
    s.wrote id i fun c => { c with pc := d.pc.getD c.pc } := by
  simp only [State.wrote, Done.next, nextPc, clearLatches_pc]

theorem State.task?_wrote {s : State} {id : Nat} {t : Task} (h : s.task? id = some t) (i : Instr) (f : Ctx → Ctx) :
    (s.wrote id i f).task? id = some { t.unkeep with
      ctx := f { t.ctx.clearLatches i.sources with pc := nextPc i t.ctx }, woke := none, fault := none } :=
  State.task?_modTask h _

/-- A push through a port that is bound to a queue which the state then holds. -/
theorem writeDest_pushed {s s' : State} {id : Nat} {t x : Task} {d : GReg} {v : Word} (hx : s.task? id = some x)
    (hvd : x.vd = t.vd) (hlast : x.last = t.last) (hp : d.isPort = true)
    (hbound : (x.ctx.port (d.toNat - 24)).bound = (t.ctx.port (d.toNat - 24)).bound)
    (h0 : (t.ctx.port (d.toNat - 24)).bound ≠ 0) (h : s.pushed id t d v = some s') :
    ∃ held u, writeDest id d v s = .ok (held, u) ∧ s' = match held with
      | some p => u.park id (.push [p] none t.ctx)
      | none => u := by
  obtain ⟨q, hq, e⟩ := Option.map_eq_some_iff.1 h
  subst e
  simp only [writeDest, act_bind, act_get, hx, hp, if_true, hbound, if_neg h0, act_pure, hvd, hlast, hq, act_set]
  refine ⟨_, _, rfl, ?_⟩
  split <;> simp_all

/-- An instruction of one destination does not write two ports: `Instr.outward` of most of them. -/
theorem not_two_ports (d : GReg) : decide (1 < ([d].filter GReg.isPort).length) = false := by
  cases h : d.isPort <;> simp [h]

/-- What `run` does when its body answers one value for a destination that is a port: a release at module scope, the push,
and a park where the queue holds it (R407, R417). -/
theorem run_pushed {i : Instr} {body : Nat → Task → List Word → Act Done} {s s1 s' : State} {id : Nat} {t : Task}
    {d : GReg} {v : Word} {pc : Option Word} (h : s.issues i id t)
    (hb : body id t (i.sources.map t.ctx.src) s = .ok ({ vals := [v], pc := pc }, s1))
    (hd : i.dests = [d]) (ho : Instr.outward i = false) (hf : s1.frame id = s.frame id) (hr : s1.portReady t d)
    (hp : (s1.wrote id i fun c => { c with pc := pc.getD c.pc }).pushed id t d v = some s') :
    run i body s = .next s' := by
  obtain ⟨x, hx, hctx, hvd, hlast⟩ := State.task_of_frame (hf.trans (State.frame_of_issues h))
  obtain ⟨held, u, hw, e⟩ := writeDest_pushed (State.task?_wrote hx i _) hvd hlast hr.1
    (by rw [← hctx]; exact Ctx.bound_clearLatches ..) hr.2.1 hp
  rw [run_issues h]
  simp only [act_bind, hb, complete, act_modify, complete_wrote, hd, List.zip_cons_cons, List.zip_nil_right, dests_due,
    writeDests, hw, act_pure, Instr.keeps, ho]
  cases held <;> simp [settleTurn, Stop.traps, settle, e]

end Sys2Proof.Machine
end

section
/-! Control transfers (R55, R356, R357, R386, R387). -/

namespace Sys2Proof.Machine

section Transfer
variable {s : State} {i : Instr} {id : Nat} {t : Task}

/-- What a conditional branch is to the model: its offset, and when it is taken. -/
theorem exec_branch {b : Bool} {o : BitVec 16} (h : branchTaken i t.ctx = some (b, o)) :
    i.dests = [] ∧ ∃ taken, exec i = branch i o taken ∧ taken t (i.sources.map t.ctx.src) = b := by
  unfold branchTaken at h
  split at h <;> cases h <;> exact ⟨rfl, _, rfl, rfl⟩

/-- A branch that stops no task moves the pc, or leaves it at the next word. -/
theorem branch_next (h : s.issues i id t) (hd : i.dests = []) {o : BitVec 16} {taken : Task → List Word → Bool}
    {b : Bool}
    (hb : taken t (i.sources.map t.ctx.src) = b) (hs : ¬ (t.delivered = true ∧ b = true ∧ o.toInt ≤ 0)) :
    branch i o taken s =
      .next (s.wrote id i fun c => if b then { c with pc := t.ctx.pc + (o.signExtend 64 <<< 2) } else c) := by
  have hp : ∀ r ∈ i.dests, r.isPort = false := by simp [hd]
  cases b with
  | false => exact (run_wrote (s1 := s) (v := []) h (by simp [hb]) hp).trans (by simp [hd, Ctx.writes])
  | true =>
    have hs : ¬ (t.delivered = true ∧ o.toInt ≤ 0) := fun e => hs ⟨e.1, rfl, e.2⟩
    exact (run_jumped (s1 := s) (v := []) (pc := t.ctx.pc + (o.signExtend 64 <<< 2)) h (by simp [hb, hs, sxi]) hp).trans
      (by simp [hd, Ctx.writes])

/-- A taken branch backwards, or to itself, stops a doomed task (R135). -/
theorem branch_doomed (h : s.issues i id t) {o : BitVec 16} {taken : Task → List Word → Bool}
    (hb : taken t (i.sources.map t.ctx.src) = true) (hd : t.delivered = true) (ho : o.toInt ≤ 0) :
    branch i o taken s = .next (s.stopHere id s.cur) :=
  run_doomed h (by simp [hb, hd, ho])

/-- A transfer goes on where its task is not doomed, or where it goes forwards (R135). -/
theorem backStop_ok {target : Word} (h : t.delivered = false ∨ t.ctx.pc.toNat < target.toNat) (s : State) :
    backStop t target s = .ok ((), s) := by
  have : ¬ (t.delivered = true ∧ target.toNat ≤ t.ctx.pc.toNat) := by
    rintro ⟨hd, hle⟩
    rcases h with h | h
    · simp [h] at hd
    · omega
  simp [backStop, this]

theorem backStop_doomed {target : Word} (hd : t.delivered = true) (h : target.toNat ≤ t.ctx.pc.toNat) (s : State) :
    backStop t target s = .error .doomed := by
  simp [backStop, hd, h]

/-- The body of JAL and of an aligned JALR. -/
def link (t : Task) (target : Word) : Act Done := do
  backStop t target
  return { vals := [t.ctx.pc + 4], pc := some target }

theorem link_ok {target : Word} (h : t.delivered = false ∨ t.ctx.pc.toNat < target.toNat) (s : State) :
    link t target s = .ok ({ vals := [t.ctx.pc + 4], pc := some target }, s) := by
  simp [link, backStop_ok h]

theorem link_doomed {target : Word} (hd : t.delivered = true) (h : target.toNat ≤ t.ctx.pc.toNat) (s : State) :
    link t target s = .error .doomed := by
  simp [link, backStop_doomed hd h]

/-- What a transfer with a link is to the model. -/
theorem exec_link {d a : GReg} {j : BitVec 21} {n : BitVec 16} {target : Word}
    (h : i = .jal d j ∧ target = t.ctx.pc + (j.signExtend 64 <<< 2) ∨
      i = .jalr d a n ∧ target = t.ctx.src a + n.signExtend 64 ∧ target.toNat % 4 = 0) :
    i.dests = [d] ∧ Instr.outward i = false ∧
      ∃ body, exec i = run i body ∧ ∀ id s, body id t (i.sources.map t.ctx.src) s = link t target s := by
  rcases h with ⟨rfl, rfl⟩ | ⟨rfl, rfl, h4⟩
  · exact ⟨rfl, not_two_ports d, _, rfl, fun _ _ => rfl⟩
  · refine ⟨rfl, not_two_ports d, _, rfl, fun _ _ => ?_⟩
    simp [Instr.sources, sxi, h4, link, -BitVec.toNat_add]

end Transfer

/-- Settles O19: a branch by `branch_next` and `branch_doomed`, JAL and JALR by what `link` answers. -/
theorem transferResults : Obligations.TransferResults := by
  intro s id t d a j n
  refine ⟨fun i taken o h hb => ?_, fun i target h ht => ?_, fun h h4 => ?_⟩
  · obtain ⟨hd, f, hexec, hf⟩ := exec_branch hb
    rw [hexec]
    refine ⟨branch_next h hd hf, fun hdel htaken ho => ?_⟩
    exact branch_doomed h (hf.trans htaken) hdel ho
  · obtain ⟨hd, hout, body, hexec, hbody⟩ := exec_link ht
    rw [hexec]
    refine ⟨fun hdel hle => run_doomed h ((hbody id s).trans (link_doomed hdel hle s)), fun hgo => ?_⟩
    have hok := (hbody id s).trans (link_ok hgo s)
    refine ⟨fun hp => ?_, fun s' hr hs' => run_pushed h hok hd hout rfl hr hs'⟩
    exact (run_jumped h hok (by simpa [hd] using hp)).trans (by simp [hd, Ctx.writes])
  · exact run_trap h (by simp [Instr.sources, sxi, h4, -BitVec.toNat_add])

end Sys2Proof.Machine
end

section
/-! System registers, and what task mode may not use (R42, R43, R54, R62, R432, R433). -/

namespace Sys2Proof

/-- What decodes is well-formed. -/
theorem wellFormed_of_decode {w : Word32} {rest : List Word32} {i : Instr} (h : decode w rest = .ok i) : i.WellFormed := by
  unfold decode at h
  split at h
  · cases h
  · split at h
    · rename_i hr
      cases h
      exact hr
    · cases h

/-- The numbers that SRRD and SRWR may name (R43). -/
theorem wellFormed_srrd {g : GReg} {r : BitVec 12} (h : (Instr.srrd g r).WellFormed) :
    r.toNat ≤ 4 ∨ 0x100 ≤ r.toNat ∧ r.toNat ≤ 0x104 ∨ r = 0x200 := by
  have e : r = 0x200 ↔ r.toNat = 0x200 := ⟨fun h => h ▸ rfl, fun h => BitVec.eq_of_toNat_eq h⟩
  rw [e]
  simp [Instr.WellFormed, Instr.reject, Instr.sources, portsOf] at h
  omega

theorem wellFormed_srwr {g : GReg} {r : BitVec 12} (h : (Instr.srwr g r).WellFormed) :
    r.toNat ≤ 2 ∨ 0x100 ≤ r.toNat ∧ r.toNat ≤ 0x104 := by
  have hp : (portsOf [g]).Nodup := (List.nodup_singleton g).filter _
  simp [Instr.WellFormed, Instr.reject, Instr.sources, hp] at h
  omega

namespace Machine

/-! ### Reading and writing a system register -/

section Registers
variable {s : State} {id : Nat} {t : Task} {g : GReg} {r : BitVec 12}

theorem execSrrd_wrote {v : Word} (h : s.issues (.srrd g r) id t) (hp : g.isPort = false)
    (hv : s.readSys t r.toNat = some v) :
    execSrrd g r s = .next (s.wrote id (.srrd g r) fun c => c.setG g v) :=
  run_wrote (v := [v]) (s1 := s) h (by simp [hv]) (by simp [Instr.dests, hp])

theorem execSrwr_wrote {s' : State} (h : s.issues (.srwr g r) id t)
    (hw : s.writeSys id t r.toNat (t.ctx.src g) = some s') :
    execSrwr g r s = .next (s'.wrote id (.srwr g r) fun c => c) :=
  run_wrote (v := []) (s1 := s') h (by simp [Instr.sources, hw]) (by simp [Instr.dests])

theorem execSrwr_trap (h : s.issues (.srwr g r) id t) (hw : s.writeSys id t r.toNat (t.ctx.src g) = none) :
    execSrwr g r s = .next (s.takeTrap id 1 (Instr.word (.srwr g r)) 0) :=
  run_trap h (by simp [Instr.sources, hw])

/-- A number that is reserved or read-only takes no write (R43). -/
theorem State.writeSys_none {n : Nat} (h : n ∈ [3, 4, 0x200] ∨ 5 ≤ n ∧ n < 0x100 ∨ 0x105 ≤ n) (x : Word) :
    s.writeSys id t n x = none := by
  simp only [List.mem_cons, List.not_mem_nil, or_false] at h
  unfold State.writeSys
  split <;> first | omega | rfl

end Registers

/-- Settles O45: each register by what `readSys` and `writeSys` answer, the reserved numbers by the checks of the decoder. -/
theorem systemRegisters : Obligations.SystemRegisters := by
  intro s id t g r
  refine ⟨fun h hp v hv => execSrrd_wrote h hp ?_, fun h s' hs => execSrwr_wrote h ?_, fun h hr => ?_,
    fun w rest h => wellFormed_srrd (wellFormed_of_decode h), fun w rest h => wellFormed_srwr (wellFormed_of_decode h)⟩
  · rcases hv with h | h | h | h | h | h | h | h | h | h | h <;> obtain ⟨rfl, rfl⟩ := h <;> rfl
  · rcases hs with h | h | h | h | h | h | h | h <;> obtain ⟨rfl, rfl⟩ := h
    case inr.inr.inr.inr.inl =>
      have hall (x : Word) : x &&& 0xFFFFFFFFFFFFFFFF#64 = x := BitVec.and_allOnes
      simp [State.writeSys, sysMask, hall]
    all_goals rfl
  · exact execSrwr_trap h (State.writeSys_none hr _)

/-! ### Privilege -/

/-- An instruction that task mode may not use traps before it reads anything (R43, R54). -/
theorem runAs_privilege {i : Instr} {body : Nat → Task → List Word → Act Done} {s : State} {id : Nat} {t : Task}
    (h : s.runs id t) (hm : t.ctx.mode = .task) (hd : t.delivered = false) (hs : s.heldStores id = false)
    (hn : Instr.needsSupervisor i = true) : run i body s = .next (s.takeTrap id 0x14 (Instr.word i) 0) := by
  have hw : s.trapWaits id = false := by simp [State.trapWaits, h.2, hs]
  simp [run, runAs, h.1, hd, hm, hn, settleTurn, settle, Stop.traps, hw]

theorem needsSupervisor_srrd (d : GReg) (r : BitVec 12) :
    Instr.needsSupervisor (.srrd d r) = (decide (0x100 ≤ r.toNat) && decide (r.toNat < 0x200)) := rfl

theorem needsSupervisor_srwr (a : GReg) (r : BitVec 12) :
    Instr.needsSupervisor (.srwr a r) = decide (2 ≤ r.toNat) := rfl

/-- Settles O12: each of the forms needs supervisor mode. -/
theorem privilegeTraps : Obligations.PrivilegeTraps := by
  intro s id t i h hm hd hs _ hi
  have trap {i : Instr} {body} (hn : Instr.needsSupervisor i = true) :
      run i body s = .next (s.takeTrap id 0x14 (Instr.word i) 0) := runAs_privilege h hm hd hs hn
  rcases hi with rfl | rfl | ⟨a, rfl⟩ | ⟨d, r, rfl, hr⟩ | ⟨a, r, rfl, hr⟩
  · exact trap rfl
  · exact trap rfl
  · exact trap rfl
  · exact trap (by rw [needsSupervisor_srrd, Bool.and_eq_true, decide_eq_true_eq, decide_eq_true_eq]; omega)
  · exact trap (by rw [needsSupervisor_srwr, decide_eq_true_eq]; omega)

end Machine

end Sys2Proof
end

section
/-! Laws of a turn: the instruction that a step runs (O4), what a fetch reads and leaves (O5), and the words that are no
instruction (O6), with four words of the encoding tables (O7). -/

namespace Sys2Proof

/-- Settles O7: the encoder writes these words for their instructions. -/
theorem decodeWords : Obligations.DecodeWords :=
  ⟨decode_encode (i := .add 5 1 2) (by decide) rfl, decode_encode (i := .addImm 5 1 0xFFFF) (by decide) rfl,
    decode_encode (i := .beq 1 2 0xFFFE) (by decide) rfl, decode_encode (i := .ld 3 4 .dflt .d 8) (by decide) rfl⟩

namespace Machine

/-! ### A turn -/

theorem step_turn {s : State} {u : Turn} {rest : List Turn} (h : s.agenda = u :: rest) :
    step s = tickResult (turn { s with agenda := rest } u) := by simp [step, h]

section Turn

variable {s s1 s' : State} {p : Place} {id : Nat} {t : Task}
  (hi : ({ s with cur := p } : State).issueSlot p.tile p.core = (some p.thread, s1))
  (ht : (s1.issuing p).taskAt p = some (id, t))
include hi ht

/-- A thread's turn, where the issue slot of its core is its own, is what it fetches. -/
theorem fetchTurn_ok {i : Instr} (hf : fetch id t (s1.issuing p) = .ok (i, s')) : fetchTurn s p = .inr (i, s') := by
  simp [fetchTurn, hi, ht, hf]

theorem fetchTurn_error {e : Stop} (hf : fetch id t (s1.issuing p) = .error e) :
    fetchTurn s p = .inl (settleTurn (s1.issuing p) id p (.error e)) := by
  simp [fetchTurn, hi, ht, hf]

end Turn

/-- Settles O4: the head of the agenda is taken, a thread's turn by what it fetches. -/
theorem stepRunsDecoded : Obligations.StepRunsDecoded := by
  refine ⟨fun s s1 s' p rest id t i ha ht hi hu hf => ?_, fun s i rest ha ht => ?_⟩
  · rw [step_turn ha, turn, ht, fetchTurn_ok hi hu hf]
    rfl
  · rw [step_turn ha, turn, ht]
    rfl

/-! ### A fetch -/

/-- The bytes at a key are those of the memory and of the future records. -/
theorem State.readKey_congr {s u : State} (hm : u.mem = s.mem) (hv : u.vds = s.vds) (k n : Nat) :
    u.readKey k n = s.readKey k n := by
  induction n generalizing k with
  | zero => rfl
  | succ n ih => simp [State.readKey, ih, State.byteAt, State.inTable, State.fut, State.vd, hm, hv]

@[simp] theorem State.readKey_grant (s : State) (tile c k n : Nat) : (s.grant tile c).readKey k n = s.readKey k n :=
  State.readKey_congr (s := s) (u := s.grant tile c) rfl rfl k n

@[simp] theorem State.readKey_fetched (s : State) (tile key k n : Nat) :
    (s.fetched tile key).readKey k n = s.readKey k n := by
  unfold State.fetched
  split
  · rfl
  · exact State.readKey_congr (s := s) (u := s.modTile tile _) rfl rfl k n

@[simp] theorem State.readKey_codeRead (s : State) (t : Task) (a k n : Nat) :
    (s.codeRead t a).readKey k n = s.readKey k n := by
  rw [State.codeRead, State.readKey_fetched]
  split
  · rfl
  · exact State.readKey_grant ..

variable {s s' : State} {id : Nat} {t : Task} {va a n : Nat} {m : Bool} {p : Phys}

theorem fetchBytes_hold (hr : resolve id t va .fetch s = .ok ((.phys a m, p), s')) (hg : ¬ s'.codeGranted t a) :
    fetchBytes id t va n s = .error .hold := by
  obtain ⟨hc, hb⟩ := not_or.1 hg
  simp [fetchBytes, hr, keyOf, hc, budget, hb]

theorem fetchBytes_granted (hr : resolve id t va .fetch s = .ok ((.phys a m, p), s')) (hg : s'.codeGranted t a) :
    fetchBytes id t va n s = .ok (s'.readKey a n, s'.codeRead t a) := by
  rw [← State.readKey_codeRead s' t a a n]
  by_cases hc : a / 64 ∈ (s'.tile t.last.tile).icache
  · simp [fetchBytes, hr, keyOf, hc, State.codeRead]
  · have hb := hg.resolve_left hc
    simp [fetchBytes, hr, keyOf, hc, budget, hb, State.codeRead]

theorem wordsOf_one_readKey (s : State) (a : Nat) :
    wordsOf 1 (s.readKey a 4) = [BitVec.ofNat 32 (ofBytes (s.readKey a 4))] := rfl

/-- Settles O5: word 0 by `fetchBytes_granted`, words 1 to 7 by the same of the state that its fetch leaves. -/
theorem fetchDecodes : Obligations.FetchDecodes := by
  refine ⟨fun s s' id t p a m i hr => ⟨fun hg => ?_, fun hg hc hd => ?_⟩,
    fun s s1 s2 id t p q a b m n i hr hg hr' hg' hc ha hd => ?_⟩
  · simp [fetch, fetchBytes_hold hr hg]
  · simp [fetch, fetchBytes_granted hr hg, wordsOf_one_readKey, hc, hd]
  · simp [fetch, fetchBytes_granted hr hg, fetchBytes_granted hr' hg', wordsOf_one_readKey, hc, ha, hd]

/-- A word that is no instruction ends its fetch with the trap of R62. -/
theorem fetch_illegal (hr : resolve id t t.ctx.pc.toNat .fetch s = .ok ((.phys a m, p), s')) (hg : s'.codeGranted t a)
    {w : Word32} (hw : w = BitVec.ofNat 32 (ofBytes (s'.readKey a 4)))
    (h : (isCommandWord w = false ∧ (∃ e, decode w [] = .error e)) ∨
      (isCommandWord w = true ∧ t.ctx.pc.toNat % 32 ≠ 0)) :
    fetch id t s = .error (.trap 1 (w.setWidth 64) 0) := by
  subst hw
  rcases h with ⟨hc, e, hd⟩ | ⟨hc, ha⟩
  · simp [fetch, fetchBytes_granted hr hg, wordsOf_one_readKey, hc, hd]
  · simp [fetch, fetchBytes_granted hr hg, wordsOf_one_readKey, hc, ha]

/-- Settles O6: the fetch of the word traps, and the turn takes the trap, for no move holds a store of the task. -/
theorem illegalWordTraps : Obligations.IllegalWordTraps := by
  intro s s1 s' id t p a m hi u hu ht hs hr hg w hw
  have hwait : u.trapWaits id = false := by simp [State.trapWaits, ht, hs]
  rw [fetchTurn_error hi hu (fetch_illegal hr hg rfl hw), settleTurn, hwait, Bool.and_false]
  rfl

end Machine

end Sys2Proof
end

section
/-! Why an unbound source port need not trap (O15): the task may have done the ADD already. -/

namespace Sys2Proof.Machine

/-! ### An ADD that has been done -/

/-- ADD of an unbound port, its first source. -/
def addFromPort : Instr := .add 5 24 1

/-- A task that has done the ADD at its pc, and keeps its value for the destination. -/
def taskPastAdd : Task :=
  { vd := 0, ident := .ordinary 0, status := .running ⟨0, 0, 0⟩,
    kept := [{ pc := 0, mode := .task, instr := some addFromPort, vals := [7] }] }

/-- It is on the thread whose turn it is; its device has a handler at 0x1000. -/
def statePastAdd : State := { tasks := [(0, taskPastAdd)], vds := [(0, { tvec := 0x1000 })], cur := ⟨0, 0, 0⟩ }

/-- The pc of the task after a turn. -/
def pcAfter : Result → Option Word
  | .next s => (s.task? 0).map (·.ctx.pc)
  | _ => none

theorem exec_statePastAdd_pc : pcAfter (exec addFromPort statePastAdd) = some 4 := by decide +kernel

theorem takeTrap_statePastAdd_pc : pcAfter (.next (statePastAdd.takeTrap 0 0xC 0 0)) = some 0x1000 := by decide +kernel

/-- Refutes O15: nothing in its hypotheses says that nothing is kept for the ADD (`State.issues` does), and a task that has
done it only writes its destination, whatever its source ports are: here g5, where the statement has the trap of port 0. -/
theorem not_portFaults : ¬ Obligations.PortFaults := by
  intro h
  have htrap : exec addFromPort statePastAdd = .next (statePastAdd.takeTrap 0 0xC 0 0) :=
    (h statePastAdd 0 taskPastAdd 5 24 1 ⟨rfl, rfl⟩ rfl rfl).1 rfl rfl rfl
  have hpc := congrArg pcAfter htrap
  rw [exec_statePastAdd_pc, takeTrap_statePastAdd_pc] at hpc
  exact absurd hpc (by decide)

end Sys2Proof.Machine
end

section
/-! Laws of tile commands: the checks of a command itself, what its push reads of tables, and the push that goes through
(O47). -/

namespace Sys2Proof.Machine

/-! ### The checks of a command -/

theorem checkRange_ok {sh : Shape} (h : sh.acc.toNat + sh.blocks - 1 ≤ 63) (s : State) :
    checkRange sh s = .ok ((), s) := by
  simp [checkRange, Nat.not_lt.2 h]

@[simp] theorem checkAlign_nil (s : State) : checkAlign [] s = .ok ((), s) := rfl

theorem checkAlign_cons {a n : Nat} (h : a % n = 0) (l : List (Nat × Nat)) (s : State) :
    checkAlign ((a, n) :: l) s = checkAlign l s := by
  simp [checkAlign, h]

/-- What a predicate of errors finds among reads that could all be made. -/
theorem findIdx?_of_reads {l : List (Except Nat (Nat × Byte))} (h : ∀ y ∈ l, ∃ z, y = .ok z)
    {p : Except Nat (Nat × Byte) → Bool} (hp : ∀ z, p (.ok z) = false) : l.findIdx? p = none := by
  rw [List.findIdx?_eq_none_iff]
  intro y hy
  obtain ⟨z, rfl⟩ := h y hy
  exact hp z

/-- What a push of `i` checks and carries once its pages are pinned. -/
def pushMore (id : Nat) (t : Task) (i : Instr) (vals : List Word) (more : Cmd → Act (Option Table)) : Prop :=
  ∀ (c : Cmd) (tb : Option Table) (s s' : State), c.instr = i → c.vals = vals → s.tableChecks id t c tb s' →
    more c s = .ok (tb, s')

theorem pushMore_none {id : Nat} {t : Task} {i : Instr} {vals : List Word}
    (h : ∀ (s : State) (c : Cmd) tb s', s.tableChecks id t { c with instr := i } tb s' ↔ tb = none ∧ s' = s) :
    pushMore id t i vals fun _ => return none := by
  rintro c tb s s' rfl - hm
  obtain ⟨rfl, rfl⟩ := (h s c tb s').1 hm
  rfl

/-- MMA and MMAS check the tables of both operands. -/
theorem pushMore_tables {id : Nat} {t : Task} {i : Instr} {vals : List Word} {a b : Nat}
    (h : ∀ (s : State) (c : Cmd) tb s', s.tableChecks id t { c with instr := i } tb s' ↔ tb = none ∧ s' = s ∧
      checkTable id t.last a 0 s = .ok ((), s) ∧ checkTable id t.last b 1 s = .ok ((), s)) :
    pushMore id t i vals fun _ => do
      checkTable id t.last a 0
      checkTable id t.last b 1
      return none := by
  rintro c tb s s' rfl - hm
  obtain ⟨rfl, rfl, ha, hb⟩ := (h s c tb s').1 hm
  simp only [act_bind, ha, hb, act_pure]

theorem not_extentFits {x : Option Arg} (h : extentFits x = true) : ¬ (!extentFits x) = true := by simp [h]

/-- A command whose own checks pass goes on to its push. -/
theorem exec_command {i : Instr} {hd : CmdHead} {s : State} {id : Nat} {t : Task} {vals : List Word}
    (hi : headOf i = some hd) (hc : s.ownChecks id t i vals) :
    ∃ body more, exec i = run i body ∧ body id t vals s = push i hd id t vals more s ∧ pushMore id t i vals more := by
  cases i with
  | mma hd' sh a b sc =>
    cases hi
    obtain ⟨hr, ha, hb⟩ := hc
    refine ⟨_, _, rfl, ?_, pushMore_tables fun _ _ _ _ => .rfl⟩
    simp only [matrixPush, act_bind, checkRange_ok hr, ha, hb]
  | mmas hd' sh a b sc =>
    cases hi
    obtain ⟨hr, ha, hb⟩ := hc
    refine ⟨_, _, rfl, ?_, pushMore_tables fun _ _ _ _ => .rfl⟩
    simp only [matrixPush, act_bind, checkRange_ok hr, ha, hb]
  | accz hd' sh =>
    cases hi
    refine ⟨_, _, rfl, ?_, pushMore_none fun _ _ _ _ => .rfl⟩
    simp only [act_bind, checkRange_ok hc]
  | accld hd' sh a =>
    cases hi
    refine ⟨_, _, rfl, ?_, pushMore_none fun _ _ _ _ => .rfl⟩
    simp only [act_bind, checkRange_ok hc]
  | accst hd' sh c ta tb out =>
    cases hi
    refine ⟨_, _, rfl, ?_, pushMore_none fun _ _ _ _ => .rfl⟩
    simp only [act_bind, checkRange_ok hc]
  | tcopy hd' a c len =>
    cases hi
    obtain ⟨hshort, hlen, ha, hc'⟩ := hc
    refine ⟨_, _, rfl, ?_, pushMore_none fun _ _ _ _ => .rfl⟩
    simp only [act_bind, if_neg (not_or.2 ⟨Nat.not_le.2 hshort, not_not.2 hlen⟩), checkAlign_cons ha, checkAlign_cons hc',
      checkAlign_nil]
  | tfill hd' c len val =>
    cases hi
    obtain ⟨hshort, hlen, hc'⟩ := hc
    refine ⟨_, _, rfl, ?_, pushMore_none fun _ _ _ _ => .rfl⟩
    simp only [act_bind, if_neg (not_or.2 ⟨Nat.not_le.2 hshort, not_not.2 hlen⟩), checkAlign_cons hc',
      checkAlign_nil]
  | tgather hd' a b c len =>
    cases hi
    obtain ⟨hshort, hext, ha, hb, hc'⟩ := hc
    refine ⟨_, _, rfl, ?_, pushMore_none fun _ _ _ _ => .rfl⟩
    simp only [act_bind, if_neg (not_or.2 ⟨Nat.not_le.2 hshort, not_extentFits hext⟩),
      checkAlign_cons ha, checkAlign_cons hb, checkAlign_cons hc', checkAlign_nil]
  | tscatter hd' a b c len =>
    cases hi
    obtain ⟨hshort, hext, ha, hb, hc'⟩ := hc
    refine ⟨_, _, rfl, ?_, pushMore_none fun _ _ _ _ => .rfl⟩
    simp only [act_bind, if_neg (not_or.2 ⟨Nat.not_le.2 hshort, not_extentFits hext⟩),
      checkAlign_cons ha, checkAlign_cons hb, checkAlign_cons hc', checkAlign_nil]
  | txchg hd' sh grp =>
    cases hi
    obtain ⟨hg, hm, hr⟩ := hc
    refine ⟨_, _, rfl, ?_, pushMore_none fun _ _ _ _ => .rfl⟩
    simp only [act_bind, act_get, if_neg (Nat.not_lt.2 hg), hm, Bool.not_true, Bool.false_eq_true, if_false,
      checkRange_ok hr]
  | tsub hd' a c len pull =>
    cases hi
    obtain ⟨hshort, hring, ha, hin⟩ := hc
    refine ⟨_, _, rfl, ?_, pushMore_none fun _ _ _ _ => .rfl⟩
    simp only [act_bind, if_neg (Nat.not_le.2 hshort), checkAlign_cons hring, checkAlign_cons ha, checkAlign_nil,
      Option.isNone_eq_false_iff.2 hin, Bool.false_eq_true, if_false]
  | qfence hd' q m =>
    cases hi
    exact ⟨_, _, rfl, rfl, pushMore_none fun _ _ _ _ => .rfl⟩
  | tabld hd' slot a =>
    cases hi
    refine ⟨_, ?_, rfl, ?push, ?more⟩
    case push =>
      have : ¬ ((viewOf (Instr.tabld hd slot a) vals).a.map Arg.addr).getD 0 % 64 ≠ 0 := not_not.2 hc
      simp only [if_neg this]
      rfl
    case more =>
      rintro c tb s s' hi rfl hm
      have hview : c.view = viewOf (.tabld hd slot a) c.vals := by rw [Cmd.view, hi]
      simp only [State.tableChecks, hi, hview, addrOf] at hm
      obtain ⟨hread, rfl, hfault, rfl⟩ := hm
      simp only [act_bind, act_get, act_set, findIdx?_of_reads hread, implies_true, hfault, act_pure]
  | _ => nomatch hi

/-! ### The push that goes through -/

/-- The command that a push of `i` makes, before its future, table and reserved lines. -/
def newCmd (n id : Nat) (t : Task) (i : Instr) (hd : CmdHead) (vals : List Word) (pins : List TlbEntry) : Cmd :=
  { id := n, task := id, vd := t.vd, instr := i, fctl := t.ctx.fctl, vals := vals, pins := pins, fut := none, link := hd.chain }

theorem not_taken {b : Bool} {o : Option Nat} {id : Nat} (h : b = true → o = none ∨ o = some id) :
    (b && (o.isSome && o != some id)) = false := by
  cases b with
  | false => rfl
  | true => rcases h rfl with rfl | rfl <;> simp

theorem record_left {b : Bool} {m n : Nat} (h : b = true → m < n) : (b && decide (n ≤ m)) = false := by
  cases b with
  | false => rfl
  | true => simpa using h rfl

/-- A push that passes what it checks, and finds its queue, its partition and a record. -/
theorem push_ok {i : Instr} {hd : CmdHead} {s s0 s1 s2 s3 : State} {id : Nat} {t : Task} {vals : List Word}
    {more : Cmd → Act (Option Table)} {pins : List TlbEntry} {r : List (Nat × Nat)} {f : Option Nat} {tb : Option Table}
    (hpin : pinAll id t (rangeRuns i (rangesOf i (viewOf i vals))) [] (s.release id .tile) = .ok (pins, s0))
    (hmore : more (newCmd s0.nextCmd id t i hd vals pins) s0 = .ok (tb, s1))
    (hres : reserveAll id t.vd (rangesOf i (viewOf i vals)) s1 = .ok (r, s2))
    (hroom : ((s2.core t.last.tile t.last.core).queue (Instr.engine i)).length < 16)
    (hown : Instr.owns i = true →
      (s2.core t.last.tile t.last.core).owner = none ∨ (s2.core t.last.tile t.last.core).owner = some id)
    (hrec : hd.fut.isSome = true → (s1.vd t.vd).live < (s1.vd t.vd).futQuota)
    (hfut : cmdFuture id t.vd hd s2 = .ok (f, s3)) :
    let s4 : State := { s3 with nextCmd := s3.nextCmd + 1 }
    let s5 := if Instr.owns i then s4.modCore t.last.tile t.last.core fun k => { k with owner := some id } else s4
    push i hd id t vals more s = .ok ({}, s5.enter t.last (Instr.engine i)
      { newCmd s0.nextCmd id t i hd vals pins with fut := f, table := tb, reserved := r } hd.tag) := by
  unfold newCmd at hmore
  simp only [push, act_bind, act_modify, act_get, hpin, hmore, hres, not_taken hown, if_neg (Nat.not_le.2 hroom),
    record_left hrec, Bool.false_eq_true, if_false, hfut]
  split <;> rfl

theorem headOf_dests {i : Instr} {hd : CmdHead} (h : headOf i = some hd) : i.dests = [] := by
  cases i with
  | mma | mmas | accz | accld | accst | tcopy | tfill | tgather | tscatter | txchg | tsub | qfence | tabld => rfl
  | _ => nomatch h

/-- Settles O47: the command's own checks by `exec_command`, and the push by `push_ok`. -/
theorem commandPush : Obligations.CommandPush := by
  intro s s0 s1 s2 s3 id t i hd pins r f tb hi h vals ranges p q hc hpin c htab hres hroom hown hrec hfut s4 s5
  obtain ⟨body, more, he, hb, hm⟩ := exec_command hi hc
  have hpush := hb.trans (push_ok hpin (hm c tb s0 s1 rfl rfl htab) hres hroom hown hrec hfut)
  rw [he, run_wrote h hpush (by simp [headOf_dests hi]), headOf_dests hi]
  rfl

end Sys2Proof.Machine
end

section
/-! What leaves the registers, the device and the place of every task alone: writes at a home with the wakes they make,
exchanges that land, and packets delivered (R206, R212, R241). -/

namespace Sys2Proof.Machine

/-! ### Frames -/

theorem State.frame_of_tasks {s s' : State} (h : s'.tasks = s.tasks) : s'.frame = s.frame := by
  funext u
  simp [State.frame, State.task?, h]

theorem State.SameWork.frame {s s' : State} (h : s.SameWork s') : s'.frame = s.frame := State.frame_of_tasks h.tasks

theorem State.frame_setTask {s : State} {n : Nat} {t x : Task} (h : s.task? n = some t) (hx : x.frame = t.frame) :
    (s.setTask n x).frame = s.frame := by
  funext u
  by_cases hu : u = n
  · subst hu
    simp [State.frame, h, hx]
  · simp [State.frame, State.task?_setTask_ne s x hu]

theorem State.frame_modTask (s : State) (n : Nat) {f : Task → Task} (hf : ∀ t, (f t).frame = t.frame) :
    (s.modTask n f).frame = s.frame := by
  cases h : s.task? n with
  | none => simp [State.modTask, h]
  | some t => rw [State.modTask_of h, State.frame_setTask h (hf t)]

/-- What each step of a fold keeps, the fold keeps. -/
theorem State.frame_foldl {α : Type} {f : State → α → State} (h : ∀ s a, (f s a).frame = s.frame) (l : List α) (s : State) :
    (l.foldl f s).frame = s.frame := by
  induction l generalizing s with
  | nil => rfl
  | cons a l ih => rw [List.foldl_cons, ih, h]

section Parts

variable (s : State) (n : Nat)

@[simp] theorem State.frame_setTile (x : Tile) : (s.setTile n x).frame = s.frame := rfl
@[simp] theorem State.frame_modTile (f : Tile → Tile) : (s.modTile n f).frame = s.frame := rfl
@[simp] theorem State.frame_modStop (f : NetStop → NetStop) : (s.modStop n f).frame = s.frame := rfl
@[simp] theorem State.frame_modVd (f : Vd → Vd) : (s.modVd n f).frame = s.frame := State.frame_of_tasks (by simp)
@[simp] theorem State.frame_modEntry (k : Nat) (f : Entry → Entry) : (s.modEntry n k f).frame = s.frame := s.frame_modVd ..
@[simp] theorem State.frame_putFut (k : Nat) (f : Fut) : (s.putFut n k f).frame = s.frame := s.frame_modVd ..
@[simp] theorem State.frame_setGroup (k : Nat) (x : Group) : (s.setGroup n k x).frame = s.frame := s.frame_modVd ..
@[simp] theorem State.frame_grant (k : Nat) : (s.grant n k).frame = s.frame := rfl

end Parts

/-! ### Waking (R131, R212) -/

@[simp] theorem State.frame_readyRecord (s : State) (t : Task) (st : Nat) : (s.readyRecord t st).frame = s.frame := by
  unfold State.readyRecord
  split
  · exact s.frame_putFut ..
  · rfl

@[simp] theorem State.frame_readyTask (s : State) (id : Nat) (w : Option Woke) : (s.readyTask id w).frame = s.frame := by
  unfold State.readyTask
  split
  · rfl
  · next t ht =>
    split
    · rfl
    · rw [State.frame_readyRecord]
      exact State.frame_setTask ht rfl

/-- A changed record wakes tasks, whose own records change: by induction on how far that goes. -/
@[simp] theorem State.frame_noteFut (s : State) (vd i n : Nat) : (s.noteFut vd i n).frame = s.frame := by
  induction n generalizing s vd i with
  | zero => rfl
  | succ n ih =>
    refine State.frame_foldl (fun s x => ?_) _ s
    dsimp only
    split
    · rw [ih, State.frame_readyTask]
    · rw [State.frame_readyTask]

@[simp] theorem State.frame_makeReady (s : State) (id : Nat) (w : Option Woke) : (s.makeReady id w).frame = s.frame := by
  unfold State.makeReady
  split
  · rfl
  · split
    · rfl
    · dsimp only
      split <;> simp

@[simp] theorem State.frame_wakeWhere (s : State) (p : Task → Wait → Bool) (w : Option Woke) :
    (s.wakeWhere p w).frame = s.frame := by
  refine State.frame_foldl (fun s x => ?_) _ s
  split
  · split <;> simp
  · rfl

/-! ### Writes at a home -/

@[simp] theorem State.frame_touch (s : State) (k : Nat) : (s.touch k).frame = s.frame := by
  simp only [State.touch]
  split
  · split <;> simp
  · split
    · split <;> simp
    · rfl

@[simp] theorem State.frame_write (s : State) (l : List (Nat × Byte)) : (s.write l).frame = s.frame := by
  refine (State.frame_foldl (fun s b => ?_) _ _).trans (State.frame_of_tasks rfl)
  rw [State.frame_wakeWhere]
  split
  · exact (State.frame_of_tasks rfl).trans (s.frame_touch _)
  · exact s.frame_touch _

@[simp] theorem State.frame_writeDword (s : State) (k : Nat) (x : Word) : (s.writeDword k x).frame = s.frame := s.frame_write _

@[simp] theorem State.frame_undoWrite (s : State) (r : Region) (off : Nat) (l : List (Nat × Byte)) :
    (s.undoWrite r off l).frame = s.frame := s.frame_write _

theorem State.frame_ownWrites {s : State} (vd : Nat) {f : State → State} (hf : ∀ s, (f s).frame = s.frame) :
    (s.ownWrites vd f).frame = s.frame := by
  unfold State.ownWrites
  split <;> simp [hf]

@[simp] theorem State.frame_journal (s : State) (vd va key : Nat) (pin : Bool) :
    (s.journal vd va key pin).frame = s.frame := by
  unfold State.journal
  split
  · rfl
  · extract_lets line e old u u' r' m s1
    have hs1 : s1.frame = s.frame := by
      simp only [s1, u', u, apply_ite State.frame, State.frame_modVd, State.frame_undoWrite, ite_self]
    split
    · split <;> simp [hs1]
    · exact hs1

@[simp] theorem State.frame_l2Drop (s : State) (k : Nat) : (s.l2Drop k).frame = s.frame := (s.l2Drop_same k).frame

@[simp] theorem State.frame_l2Demand (s : State) (vd tier a n ret : Nat) (b : Bool) :
    (s.l2Demand vd tier a n ret b).frame = s.frame := State.frame_of_tasks (s.l2Demand_mem vd tier a n ret b).2

@[simp] theorem State.frame_l2Store (s : State) (vd : Nat) (st : Store) : (s.l2Store vd st).frame = s.frame := by
  unfold State.l2Store
  split <;> simp

@[simp] theorem State.frame_performAt (s : State) (vd task : Nat) (st : Store) :
    (s.performAt vd task st).1.frame = s.frame := by
  unfold State.performAt
  split
  · rfl
  · dsimp only
    rw [State.frame_ownWrites vd fun s => s.frame_write _, State.frame_l2Store]
    split <;> simp

/-! ### Exchanges and messages that land -/

@[simp] theorem State.frame_message (s : State) (kind src vd : Nat) (x : Word) (g : Goal) (h : Nat) (a : Word) :
    (s.message kind src vd x g h a).frame = s.frame := rfl

@[simp] theorem State.frame_noticePut (s : State) (vd : Nat) (r : Word × Word × Word × Word) :
    (s.noticePut vd r).frame = s.frame := by
  unfold State.noticePut
  dsimp only
  split
  · rfl
  · simp only [State.frame_message, State.frame_writeDword]

@[simp] theorem State.frame_noticeOrDrop (s : State) (vd kind lid : Nat) : (s.noticeOrDrop vd kind lid).frame = s.frame := by
  unfold State.noticeOrDrop
  extract_lets v
  split
  · rfl
  · split <;> simp

@[simp] theorem State.frame_shadowWrite (s : State) (k : Nat) (x : Word) : (s.shadowWrite k x).frame = s.frame := rfl

@[simp] theorem State.frame_land (s : State) (vd task lid off : Nat) (x : Word) :
    (s.land vd task lid off x).frame = s.frame := by
  unfold State.land
  dsimp only
  split
  · split <;> simp
  · split
    · split <;> simp
    · simp

theorem State.frame_of_tasks_map {s s' : State} {f : Nat × Task → Nat × Task} (h : s'.tasks = s.tasks.map f)
    (hn : ∀ x, (f x).1 = x.1) (hf : ∀ x, (f x).2.frame = x.2.frame) : s'.frame = s.frame := by
  funext u
  simp only [State.frame, State.task?, h]
  generalize s.tasks = l
  induction l with
  | nil => rfl
  | cons x l ih =>
    by_cases hx : x.1 = u
    · simp [look, hn, hf, hx]
    · simpa [look, hn, hx] using ih

@[simp] theorem State.frame_mapCmds (s : State) (f : Cmd → Cmd) : (s.mapCmds f).frame = s.frame :=
  State.frame_of_tasks_map rfl (fun _ => rfl) fun _ => rfl

@[simp] theorem State.frame_modCmdAt (s : State) (n : Nat) (f : Cmd → Cmd) : (s.modCmdAt n f).frame = s.frame :=
  s.frame_mapCmds _

@[simp] theorem State.frame_saveMessage (s : State) (vd n round id : Nat) (m : Message) :
    (s.saveMessage vd n round id m).frame = s.frame := by
  unfold State.saveMessage
  split
  · rfl
  · split <;> simp

/-! ### Packets delivered (R206, R241) -/

@[simp] theorem State.frame_deliver (s : State) (p : Pkt) : (s.deliver p).frame = s.frame := by
  unfold State.deliver
  split
  · exact s.frame_performAt ..
  · simp only [apply_ite State.frame, State.frame_modCmdAt, State.frame_performAt, ite_self]
  · simp
  · simp [State.exchangeHere]
  all_goals rfl

@[simp] theorem State.frame_countRoute (s : State) (b : Bool) (stop dst n : Nat) :
    (s.countRoute b stop dst n).frame = s.frame := by
  induction n generalizing s stop with
  | zero => rfl
  | succ n ih =>
    unfold State.countRoute
    split
    · rfl
    · rw [ih, State.frame_modStop]
    · exact ih ..

@[simp] theorem State.frame_countRest (s : State) (p : Pkt) : (s.countRest p).frame = s.frame := by
  unfold State.countRest
  extract_lets -lift s1
  have hs1 : s1.frame = s.frame := by
    unfold s1
    split <;> rfl
  split <;> simp [hs1]

@[simp] theorem State.frame_countTrip (s : State) (p : Pkt) : (s.countTrip p).frame = s.frame := by
  unfold State.countTrip
  extract_lets home there
  split
  · rfl
  · rfl
  all_goals simp [there]

@[simp] theorem State.frame_flush (s : State) (f : Pkt → Bool) : (s.flush f).frame = s.frame := by
  unfold State.flush
  split
  · rfl
  · extract_lets l ids now s1
    rw [State.frame_foldl State.frame_deliver]
    exact (State.frame_of_tasks rfl).trans (State.frame_foldl State.frame_countTrip now s)

@[simp] theorem State.frame_settlePath (s : State) (tile id : Nat) (goal : Goal) (g : Target) (n : Nat) :
    (s.settlePath tile id goal g n).frame = s.frame := by
  unfold State.settlePath
  split <;> simp

end Sys2Proof.Machine
end

section
/-! Accesses of a thread leave the registers, the device and the place of every task alone (R389). -/

namespace Sys2Proof.Machine

/-! ### Actions that keep the frames -/

/-- Where the action answers, what it leaves has the frames of what it began in. -/
structure KeepsFrame {α : Type} (m : Act α) (s : State) : Prop where
  frame : ∀ x s', m s = .ok (x, s') → s'.frame = s.frame

section Actions

variable {α β : Type} {s : State}

theorem keepsFrame_of_error {m : Act α} {e : Stop} (h : m s = .error e) : KeepsFrame m s :=
  ⟨fun x s' h' => by simp [h] at h'⟩

theorem keepsFrame_of_ok {m : Act α} {x : α} {s' : State} (h : m s = .ok (x, s')) (hf : s'.frame = s.frame) :
    KeepsFrame m s := by
  refine ⟨fun y u h' => ?_⟩
  obtain ⟨rfl, rfl⟩ : x = y ∧ s' = u := by simpa [h] using h'
  exact hf

theorem keepsFrame_pure (x : α) : KeepsFrame (pure x : Act α) s := keepsFrame_of_ok (act_pure x s) rfl
theorem keepsFrame_set {u : State} (h : u.frame = s.frame) : KeepsFrame (set u : Act PUnit) s :=
  keepsFrame_of_ok (act_set s u) h
theorem keepsFrame_modify {f : State → State} (h : (f s).frame = s.frame) : KeepsFrame (modify f : Act PUnit) s :=
  keepsFrame_of_ok (act_modify f s) h
theorem keepsFrame_trap (c : Nat) (v : Word) : KeepsFrame (trap c v : Act α) s := keepsFrame_of_error (act_trap c v s)
theorem keepsFrame_holdHere : KeepsFrame (holdHere : Act α) s := keepsFrame_of_error (act_holdHere s)

theorem keepsFrame_bind {m : Act α} {f : α → Act β} (hm : KeepsFrame m s)
    (hf : ∀ x s', m s = .ok (x, s') → KeepsFrame (f x) s') : KeepsFrame (m >>= f) s := by
  refine ⟨fun y u h => ?_⟩
  cases hx : m s with
  | error e => simp [hx] at h
  | ok p =>
    obtain ⟨x, s'⟩ := p
    have h : f x s' = .ok (y, u) := by simpa [hx] using h
    exact ((hf x s' hx).frame y u h).trans (hm.frame x s' hx)

theorem keepsFrame_get_bind {f : State → Act β} (hf : KeepsFrame (f s) s) : KeepsFrame (get >>= f) s :=
  keepsFrame_bind (keepsFrame_of_ok (act_get s) rfl) fun x s' h => by
    obtain ⟨rfl, rfl⟩ : s = x ∧ s = s' := by simpa using h
    exact hf

theorem keepsFrame_ite {c : Prop} [Decidable c] {m m' : Act α} (h : KeepsFrame m s) (h' : KeepsFrame m' s) :
    KeepsFrame (if c then m else m') s := by
  split
  · exact h
  · exact h'

theorem keepsFrame_error_bind {m : Act α} {e : Stop} (h : m s = .error e) (f : α → Act β) : KeepsFrame (m >>= f) s :=
  keepsFrame_of_error (e := e) (by simp [h])

end Actions

/-! ### Translation -/

variable (id : Nat) (t : Task) (va n : Nat) (a : Acc) (g : Target) (s : State)

theorem keepsFrame_walkFor : KeepsFrame (walkFor id t va a) s := by
  simp only [walkFor]
  refine keepsFrame_get_bind ?_
  split
  · exact keepsFrame_of_error rfl
  · split
    · exact keepsFrame_trap ..
    · next e level pte _ _ _ =>
      refine keepsFrame_bind (keepsFrame_set ?_) fun _ _ _ => keepsFrame_bind (keepsFrame_modify ?_) fun _ _ _ =>
        keepsFrame_pure _
      · split <;> simp
      · exact State.frame_modTask _ _ fun _ => rfl

theorem keepsFrame_translate : KeepsFrame (translate id t va a) s := by
  simp only [translate]
  refine keepsFrame_get_bind ?_
  split
  · split
    · exact keepsFrame_trap ..
    · exact keepsFrame_pure _
  · exact keepsFrame_walkFor ..

theorem keepsFrame_resolve : KeepsFrame (resolve id t va a) s := by
  simp only [resolve]
  refine keepsFrame_get_bind ?_
  split
  · exact keepsFrame_trap ..
  · split
    · split
      · exact keepsFrame_pure _
      · split
        · split
          · exact keepsFrame_trap ..
          · split
            · exact keepsFrame_trap ..
            · exact keepsFrame_pure _
        · exact keepsFrame_trap ..
    · refine keepsFrame_bind (keepsFrame_translate ..) fun p s' _ => ?_
      exact keepsFrame_get_bind (keepsFrame_ite (keepsFrame_error_bind rfl _) (keepsFrame_pure _))

theorem keepsFrame_keyOf : KeepsFrame (keyOf t va g) s := by
  simp only [keyOf]
  split
  · exact keepsFrame_pure _
  · exact keepsFrame_pure _
  · exact keepsFrame_pure _
  · refine keepsFrame_get_bind ?_
    split
    · exact keepsFrame_error_bind rfl _
    · split
      · exact keepsFrame_pure _
      · exact keepsFrame_trap ..

theorem keepsFrame_storable : KeepsFrame (storable t va g) s := by
  simp only [storable]
  split
  · exact keepsFrame_get_bind (keepsFrame_ite (keepsFrame_trap ..) (keepsFrame_pure _))
  · exact keepsFrame_pure _

/-! ### Reads -/

theorem keepsFrame_budget : KeepsFrame (budget t g n) s := by
  have granted : KeepsFrame (do
      let s ← get
      if !(s.cluster (clusterOf t.last.tile)).grants s.cycles n then holdHere
      set (s.grant t.last.tile n)) s := by
    refine keepsFrame_get_bind ?_
    split
    · exact keepsFrame_error_bind rfl _
    · exact keepsFrame_set rfl
  simp only [budget]
  split
  · exact granted
  · exact granted
  · exact keepsFrame_pure _

theorem keepsFrame_homeBytes (m : Nat) : KeepsFrame (homeBytes id t va g n m) s := by
  simp only [homeBytes]
  refine keepsFrame_bind (keepsFrame_keyOf ..) fun _ s1 _ => keepsFrame_bind (keepsFrame_budget ..) fun _ s2 _ =>
    keepsFrame_bind (keepsFrame_modify (by simp)) fun _ s3 _ => keepsFrame_bind (keepsFrame_keyOf ..) fun k s4 _ =>
    keepsFrame_get_bind ?_
  split
  · exact keepsFrame_error_bind rfl _
  · exact keepsFrame_pure _

@[simp] theorem State.frame_fillL1 (p : Place) (line : Nat) : (s.fillL1 p line).frame = s.frame := rfl

@[simp] theorem State.frame_traffic (kind len answer vd : Nat) (p : Place) (x : Word) (o : OpField) (y : Word)
    (l : List Word) : (s.traffic kind len answer vd id p va x g o y l).frame = s.frame := by
  unfold State.traffic
  split
  · rfl
  · rfl

theorem keepsFrame_readHome (ret tier : Nat) (fill : Bool) : KeepsFrame (readHome id t va g ret n tier fill) s := by
  simp only [readHome]
  refine keepsFrame_get_bind (keepsFrame_bind (keepsFrame_homeBytes ..) fun b s1 _ => ?_)
  have answered (k : Nat) (u : State) : KeepsFrame (do
      modify fun s => s.traffic 0 0 k t.vd id t.last va 0 g { size := n }
      pure b) u := keepsFrame_bind (keepsFrame_modify (u.frame_traffic ..)) fun _ _ _ => keepsFrame_pure _
  split
  · refine keepsFrame_bind (keepsFrame_modify ?_) fun _ u _ => answered _ u
    split <;> simp
  · split
    · exact keepsFrame_bind (keepsFrame_modify (s1.frame_l2Drop _)) fun _ u _ => answered _ u
    · exact answered _ s1

theorem keepsFrame_readLine (ret tier : Nat) : KeepsFrame (readLine id t va g ret n tier) s := by
  simp only [readLine]
  split
  · refine keepsFrame_get_bind ?_
    split
    · exact keepsFrame_get_bind (keepsFrame_ite (keepsFrame_error_bind rfl _) (keepsFrame_pure _))
    · exact keepsFrame_readHome ..
  · exact keepsFrame_readHome ..

theorem keepsFrame_loadPiece (h : Hint) (fresh : Bool) : KeepsFrame (loadPiece id t va n h fresh) s := by
  simp only [loadPiece]
  refine keepsFrame_bind (keepsFrame_resolve ..) fun x s1 _ => ?_
  have read {m : Act (List Byte)} (hm : KeepsFrame m s1) : KeepsFrame (do
      let b ← m
      pure ((List.range n).map fun i => forward t.sbuf x.1 i (b.getD i 0))) s1 :=
    keepsFrame_bind hm fun _ _ _ => keepsFrame_pure _
  exact keepsFrame_ite (read (keepsFrame_pure _))
    (keepsFrame_ite (read (keepsFrame_readHome ..)) (read (keepsFrame_readLine ..)))

theorem keepsFrame_loadPieces (h : Hint) (fresh : Bool) (l : List (Nat × Nat)) :
    KeepsFrame (loadPieces id t h fresh l) s := by
  induction l generalizing s with
  | nil => exact keepsFrame_pure _
  | cons x l ih =>
    exact keepsFrame_bind (keepsFrame_loadPiece ..) fun _ u _ => keepsFrame_bind (ih u) fun _ _ _ => keepsFrame_pure _

theorem keepsFrame_checkAddress : KeepsFrame (checkAddress id t a va) s :=
  keepsFrame_bind (keepsFrame_resolve ..) fun _ _ _ => keepsFrame_storable ..

theorem keepsFrame_checkAddresses (l : List Nat) : KeepsFrame (checkAddresses id t a l) s := by
  induction l generalizing s with
  | nil => exact keepsFrame_pure _
  | cons x l ih => exact keepsFrame_bind (keepsFrame_checkAddress ..) fun _ u _ => ih u

theorem keepsFrame_checkPages (l : List Nat) : KeepsFrame (checkPages id t a l) s := by
  unfold checkPages
  split
  · exact keepsFrame_pure _
  · exact keepsFrame_pure _
  · exact keepsFrame_checkAddresses ..

theorem keepsFrame_loadBytes (h : Hint) (fresh : Bool) : KeepsFrame (loadBytes id t va n h fresh) s :=
  keepsFrame_bind (keepsFrame_checkPages ..) fun _ _ _ => keepsFrame_loadPieces ..

end Sys2Proof.Machine
end

section
/-! The values of loads and extracted fields as bit vectors, and instructions whose destination is a queue port (O20). -/

namespace Sys2Proof.Machine

/-! ### Values -/

theorem ofBytes_lt (l : List Byte) : ofBytes l < 256 ^ l.length := by
  induction l with
  | nil => simp [ofBytes]
  | cons b l ih =>
    have hb := b.isLt
    simp only [ofBytes, List.length_cons, Nat.pow_succ]
    omega

theorem ofBytes_lt_two_pow {l : List Byte} {n : Nat} (h : l.length = n) : ofBytes l < 2 ^ (8 * n) := by
  rw [Nat.pow_mul, ← h]
  exact ofBytes_lt l

/-- The model's sign extension of a value of `k` bits is that of a bit vector. -/
theorem signExtend_ofNat {k x : Nat} (hk : 0 < k) (hk' : k ≤ 64) (hx : x < 2 ^ k) :
    (if x.testBit (k - 1) then BitVec.ofNat 64 (x + (2 ^ 64 - 2 ^ k)) else BitVec.ofNat 64 x) =
      (BitVec.ofNat k x).signExtend 64 := by
  have hpow : (2 : Nat) ^ k ≤ 2 ^ 64 := Nat.pow_le_pow_right (by decide) hk'
  have hmsb : (BitVec.ofNat k x).msb = x.testBit (k - 1) := by
    rw [BitVec.msb_eq_getLsbD_last, BitVec.getLsbD_ofNat, decide_eq_true (by omega), Bool.true_and]
  apply BitVec.eq_of_toNat_eq
  rw [BitVec.toNat_signExtend, hmsb]
  cases x.testBit (k - 1) with
  | false => simp [Nat.mod_eq_of_lt hx]
  | true =>
    simp only [if_true, BitVec.toNat_setWidth, BitVec.toNat_ofNat, Nat.mod_eq_of_lt hx]
    omega

theorem setWidth_ofNat {k x : Nat} (hx : x < 2 ^ k) : (BitVec.ofNat k x).setWidth 64 = BitVec.ofNat 64 x := by
  apply BitVec.eq_of_toNat_eq
  simp [Nat.mod_eq_of_lt hx]

theorem ones_eq_countP (n : Nat) {w : Nat} (x : BitVec w) : ones n x.toNat = (List.range n).countP fun k => x.getLsbD k :=
  List.countP_eq_length_filter.symm

/-- A bit of the field that is shifted up against the top of the word. -/
theorem getLsbD_field_up {l w i : Nat} (a : Word) (h : l + w < 64) (hi : i ≤ w) :
    (a <<< (63 - l - w)).getLsbD (63 - w + i) = a.getLsbD (l + i) := by
  have hlt : 63 - w + i < 64 := by omega
  have hge : ¬ 63 - w + i < 63 - l - w := by omega
  have hidx : 63 - w + i - (63 - l - w) = l + i := by omega
  rw [BitVec.getLsbD_shiftLeft, hidx, decide_eq_true hlt, decide_eq_false hge, Bool.not_false, Bool.true_and, Bool.true_and]

/-- A bit of the field as a number. -/
theorem testBit_field (a : Word) (l w i : Nat) :
    (a.toNat / 2 ^ l % 2 ^ (w + 1)).testBit i = (decide (i ≤ w) && a.getLsbD (l + i)) := by
  simp [Nat.testBit_mod_two_pow, Nat.testBit_div_two_pow, BitVec.getLsbD, Nat.add_comm]

theorem extract_unsigned {a : Word} {l w : Nat} (h : l + w < 64) :
    extract a l (w + 1) false = (a <<< (63 - l - w)) >>> (63 - w) := by
  apply BitVec.eq_of_getLsbD_eq
  intro i hi
  have hbit : (extract a l (w + 1) false).getLsbD i = (decide (i ≤ w) && a.getLsbD (l + i)) := by
    simp only [extract, Bool.false_and, Bool.false_eq_true, if_false, BitVec.getLsbD_ofNat, testBit_field, hi,
      decide_true, Bool.true_and]
  rw [hbit, BitVec.getLsbD_ushiftRight]
  by_cases hw : i ≤ w
  · simp only [getLsbD_field_up a h hw, hw, decide_true, Bool.true_and]
  · rw [decide_eq_false hw, Bool.false_and]
    exact (BitVec.getLsbD_of_ge _ _ (by omega)).symm

theorem extract_signed {a : Word} {l w : Nat} (h : l + w < 64) :
    extract a l (w + 1) true = (a <<< (63 - l - w)).sshiftRight (63 - w) := by
  have hv : a.toNat / 2 ^ l % 2 ^ (w + 1) < 2 ^ (w + 1) := Nat.mod_lt _ (Nat.two_pow_pos _)
  have hext : extract a l (w + 1) true = (BitVec.ofNat (w + 1) (a.toNat / 2 ^ l % 2 ^ (w + 1))).signExtend 64 :=
    (signExtend_ofNat (by omega) (by omega) hv)
  have hbit (i : Nat) (hw : i ≤ w) :
      (BitVec.ofNat (w + 1) (a.toNat / 2 ^ l % 2 ^ (w + 1))).getLsbD i = (a <<< (63 - l - w)).getLsbD (63 - w + i) := by
    rw [BitVec.getLsbD_ofNat, testBit_field, getLsbD_field_up a h hw, decide_eq_true (Nat.lt_succ_of_le hw),
      decide_eq_true hw, Bool.true_and, Bool.true_and]
  rw [hext]
  apply BitVec.eq_of_getLsbD_eq
  intro i hi
  rw [BitVec.getLsbD_signExtend, BitVec.getLsbD_sshiftRight]
  by_cases hw : i ≤ w
  · have hlt : 63 - w + i < 64 := by omega
    rw [if_pos (Nat.lt_succ_of_le hw), if_pos hlt, hbit i hw]
    simp [hi]
  · have hlt : ¬ 63 - w + i < 64 := by omega
    rw [if_neg (by omega), if_neg hlt, BitVec.msb_eq_getLsbD_last, BitVec.msb_eq_getLsbD_last, Nat.add_sub_cancel,
      hbit w (Nat.le_refl w)]
    have htop : 63 - w + w = 64 - 1 := by omega
    simp [hi, htop]

theorem Size.bytes_bounds (z : Size) : 0 < Size.bytes z ∧ Size.bytes z ≤ 8 := by
  cases z <;> decide

/-! The value of a load: its bytes, extended. -/

theorem extend_signed {z : Size} {l : List Byte} (h : l.length = Size.bytes z) :
    extend true (Size.bytes z) (ofBytes l) = (BitVec.ofNat (8 * Size.bytes z) (ofBytes l)).signExtend 64 := by
  have hz := Size.bytes_bounds z
  exact signExtend_ofNat (by omega) (by omega) (ofBytes_lt_two_pow h)

theorem extend_unsigned {n : Nat} {l : List Byte} (h : l.length = n) :
    extend false n (ofBytes l) = (BitVec.ofNat (8 * n) (ofBytes l)).setWidth 64 :=
  (setWidth_ofNat (ofBytes_lt_two_pow h)).symm

/-! ### Destinations that are ports -/

/-- A load whose destination is a port. An acquire at tile scope does nothing (R173). -/
theorem load_pushed {i : Instr} {z : Size} {o : BitVec 12} {h : Hint} {signed : Bool} {acq : Option Scope}
    {s s0 s' : State} {id : Nat} {t : Task} {d a : GReg} {l : List Byte} (hi : s.issues i id t) (hs : i.sources = [a])
    (hd : i.dests = [d]) (ho : Instr.outward i = false) (hacq : acq = none ∨ acq = some .tile)
    (hva : (t.ctx.src a + o.signExtend 64).toNat % Size.bytes z = 0)
    (hl : loadBytes id t (t.ctx.src a + o.signExtend 64).toNat (Size.bytes z) h false s = .ok (l, s0))
    (hr : s0.portReady t d)
    (hp : (s0.wrote id i fun c => c).pushed id t d (extend signed (Size.bytes z) (ofBytes l)) = some s') :
    load i z o h signed acq s = .next s' := by
  refine run_pushed (pc := none) hi ?_ hd ho (congrFun ((keepsFrame_loadBytes ..).frame _ _ hl) id) hr hp
  have haddr : addressOf z o (t.ctx.src a) s = .ok ((t.ctx.src a + o.signExtend 64).toNat, s) := by
    simp only [addressOf, sxi, hva, ne_eq, not_true_eq_false, if_false, act_pure]
  have hfresh : (acq == some .module || acq == some .system) = false := by rcases hacq with rfl | rfl <;> rfl
  simp only [hs, hfresh, act_bind, List.map_cons, List.getD_cons_zero, haddr, hl]
  rcases hacq with rfl | rfl <;> rfl

theorem extImm_fits {d a : GReg} {g : Bool} {w l : BitVec 6} (h : (Instr.extImm d a g w l).WellFormed) :
    l.toNat + w.toNat < 64 := by
  by_contra hlt
  have hle : ¬ l.toNat + w.toNat + 1 ≤ 64 := by omega
  have hp : (portsOf [a]).Nodup := (List.nodup_singleton a).filter _
  simp [Instr.WellFormed, Instr.reject, Instr.sources, hp, hle] at h

/-- The field of EXT with immediate bounds is its shifts up and down (R369). -/
theorem extract_field {a : Word} {l w : Nat} (g : Bool) (h : l + w < 64) : extract a l (w + 1) g =
    if g then (a <<< (63 - l - w)).sshiftRight (63 - w) else (a <<< (63 - l - w)) >>> (63 - w) := by
  cases g with
  | false => exact extract_unsigned h
  | true => exact extract_signed h

/-- Settles O20: each form by the value that its body answers, and `run_pushed`. -/
theorem portDestination : Obligations.PortDestination := by
  intro s s0 id t d a m h z o g w e l i v s' va n hform hi hr hp
  rcases hform with ⟨hva, hlen, hload⟩ | ⟨rfl, hplain⟩
  · rcases hload with ⟨rfl, hl, rfl⟩ | ⟨rfl, hl, rfl⟩ | ⟨rfl, hl, rfl⟩
    · rw [← extend_signed hlen] at hp
      exact load_pushed hi rfl rfl (not_two_ports d) (.inl rfl) hva hl hr hp
    · rw [← extend_unsigned hlen] at hp
      exact load_pushed hi rfl rfl (not_two_ports d) (.inl rfl) hva hl hr hp
    · rw [← extend_unsigned hlen] at hp
      exact load_pushed hi rfl rfl (not_two_ports d) (.inr rfl) hva hl hr hp
  · have push {body} (hd : i.dests = [d]) (ho : Instr.outward i = false)
        (hb : body id t (i.sources.map t.ctx.src) s0 = .ok ({ vals := [v] }, s0)) : run i body s0 = .next s' :=
      run_pushed (pc := none) hi hb hd ho rfl hr hp
    rcases hplain with ⟨rfl, hw, rfl⟩ | ⟨rfl, rfl⟩ | ⟨rfl, hlid, rfl⟩
    · exact push rfl (not_two_ports d) (by simp [Instr.sources, extract_field g (extImm_fits hw)])
    · exact push rfl (not_two_ports d) (by simp [ones_eq_countP])
    · exact push rfl (not_two_ports d) (by simp [Instr.sources, tileArg, Nat.not_lt.2 hlid, State.entry])

end Sys2Proof.Machine
end

section
/-! Groups, barriers and XPUT (R88, R89, R183, R184, R381 to R385, R468), with how an instruction ends that writes registers
and ports alike (R39, R407). -/

namespace Sys2Proof.Machine

/-! ### The end of an instruction, whatever its destinations are -/

section Ends
variable {i : Instr} {s s1 s2 : State} {id : Nat} {t : Task} {v : List Word} {l : List (Word32 × Option Nat)}

/-- An instruction that has written its destinations parks its task where pushes of them are held, and is over. -/
theorem complete_afterPushes (hw : writeDests id (i.dests.zip v) (s1.wrote id i fun c => c) = .ok (l, s2)) (p : Place) :
    settleTurn s id p (complete i id t { vals := v } (Done.next i { vals := v }) none s1) =
      .next (s2.afterPushes id t i v l) := by
  have hc : (s1.modTask id fun t => { t.unkeep with
      ctx := Done.next i { vals := v } (t.ctx.clearLatches i.sources), woke := none, fault := none }) =
      s1.wrote id i fun c => c := complete_wrote s1 id i { vals := v }
  simp only [complete, act_bind, act_modify, hc, dests_due, hw]
  cases l with
  | nil => rfl
  | cons x l => rfl

/-- What `run` does when its body answers values, whose destinations are then written. -/
theorem run_afterPushes {body : Nat → Task → List Word → Act Done} (h : s.issues i id t)
    (hb : body id t (i.sources.map t.ctx.src) s = .ok ({ vals := v }, s1))
    (hw : writeDests id (i.dests.zip v) (s1.wrote id i fun c => c) = .ok (l, s2)) :
    run i body s = .next (s2.afterPushes id t i v l) := by
  rw [run_issues h, act_bind, hb]
  exact complete_afterPushes hw s.cur

/-- What `run` does where the wake has given the value: an acquire, and the destination (R209, R382, R416). -/
theorem run_resumed {body : Nat → Task → List Word → Act Done} {x : Word} (h : s.resumes i id t x)
    (hw : writeDests id (i.dests.zip [x]) ((s.acquire id .module).wrote id i fun c => c) = .ok (l, s2)) :
    run i body s = .next (s2.afterPushes id t i [x] l) := by
  obtain ⟨⟨hr, ht⟩, ⟨hp, hv⟩, hq, hs, k, hk, hwake, hvals, hall⟩ := h
  have hp' : (t.delivered && Instr.isPoint i) = false := by
    rwa [← Bool.and_eq_true, Bool.not_eq_true] at hp
  have hkept : resumeKept i k id t (Done.next i) s =
      complete i id t { vals := [x] } (Done.next i { vals := [x] }) none (s.acquire id .module) := by
    simp only [resumeKept, hwake, Option.isNone_none, if_true, act_bind, act_modify, hvals, hall]
  simp only [run, hr, runAs, hp', hv, hk, Option.isSome_some, ht, Option.getD_some, hq, hs, Bool.and_false, Bool.or_self,
    Bool.false_eq_true, if_false, if_true, hkept]
  exact complete_afterPushes hw s.cur

theorem State.afterPushes_nil (s : State) : s.afterPushes id t i v [] = s := if_pos rfl

/-- A destination that is no port takes its value. -/
theorem writeDests_register {d : GReg} (hd : d.isPort = false) (x : Word) :
    writeDests id [(d, x)] (s.wrote id i fun c => c) = .ok ([], s.wrote id i fun c => c.setG d x) := by
  rw [writeDests_plain _ id [(d, x)] (by simpa using hd), State.wrote, State.modTask_modTask]
  rfl

/-- The end of an instruction without destinations. -/
theorem run_wrote_noDests {body : Nat → Task → List Word → Act Done} (h : s.issues i id t) (hd : i.dests = [])
    (hb : body id t (i.sources.map t.ctx.src) s = .ok ({}, s1)) :
    run i body s = .next (s1.wrote id i fun c => c) :=
  run_afterPushes (v := []) (l := []) h hb (by rw [hd]; rfl)

end Ends

/-! ### The group that an instruction names -/

section Groups
variable {s : State} {id : Nat} {t : Task} {x : Word}

theorem groupId_ok (h : x.toNat ≤ 4095) : groupId x s = .ok (x.toNat, s) := by
  simp [groupId, Nat.not_lt.2 h]

theorem groupId_trap (h : 4095 < x.toNat) : groupId x s = .error (.trap 1 x 0) := by
  simp [groupId, h]

theorem ownGroup_ok (h : x.toNat ≤ 4095) (hm : (s.group t.vd x.toNat).member id = true) :
    ownGroup id t x s = .ok (x.toNat, s) := by
  simp [ownGroup, groupId_ok h, hm]

/-- GARRIVE and GBAR trap on a group id that is out of range, and on a group of which the task is no member (R341). -/
theorem ownGroup_trap (h : 4095 < x.toNat ∨ (s.group t.vd x.toNat).member id = false) :
    ownGroup id t x s = .error (.trap 1 x 0) := by
  by_cases hx : 4095 < x.toNat
  · simp [ownGroup, groupId_trap hx]
  · simp [ownGroup, groupId_ok (Nat.not_lt.1 hx), h.resolve_left hx]

end Groups

/-! ### Joining, leaving, arriving -/

section Members
variable {s : State} {id : Nat} {t : Task} {a b : GReg}

theorem execGjoin_joined (h : s.issues (.gjoin a) id t) (hn : (t.ctx.src a).toNat ≤ 4095)
    {g : Group} (hg : s.group t.vd (t.ctx.src a).toNat = g) (hm : g.member id = false) :
    execGjoin a s = .next ((s.setGroup t.vd (t.ctx.src a).toNat
      { g with members := g.members ++ [(id, g.begun)] }).wrote id (.gjoin a) fun c => c) :=
  run_wrote_noDests h rfl (by simp [Instr.sources, groupId_ok hn, hg, hm])

theorem execGjoin_member (h : s.issues (.gjoin a) id t) (hn : (t.ctx.src a).toNat ≤ 4095)
    (hm : (s.group t.vd (t.ctx.src a).toNat).member id = true) :
    execGjoin a s = .next (s.wrote id (.gjoin a) fun c => c) :=
  run_wrote_noDests h rfl (by simp [Instr.sources, groupId_ok hn, hm])

theorem execGleave_left (h : s.issues (.gleave a) id t) (hn : (t.ctx.src a).toNat ≤ 4095) : execGleave a s =
    .next ((s.depart t.vd (t.ctx.src a).toNat id (s.lidOf t) .exit).wrote id (.gleave a) fun c => c) :=
  run_wrote_noDests h rfl (by simp [Instr.sources, Nat.not_lt.2 hn])

theorem execGarrive_arrived (h : s.issues (.garrive a) id t) (hn : (t.ctx.src a).toNat ≤ 4095)
    (hm : (s.group t.vd (t.ctx.src a).toNat).member id = true) : execGarrive a s =
    .next ((if (s.group t.vd (t.ctx.src a).toNat).hasArrived id then s
      else (s.arriveAt t.vd (t.ctx.src a).toNat id).tryFire t.vd (t.ctx.src a).toNat).wrote id (.garrive a) fun c => c) := by
  refine run_wrote_noDests h rfl ?_
  cases ha : (s.group t.vd (t.ctx.src a).toNat).hasArrived id <;> simp [Instr.sources, ownGroup_ok hn hm, ha]

/-- The group ids of GJOIN, GARRIVE and GBAR that trap. -/
theorem exec_groupTrap {i : Instr} (h : s.issues i id t)
    (hi : i = .gjoin a ∧ 4095 < (t.ctx.src a).toNat ∨ (i = .garrive a ∨ i = .gbar a b) ∧
      (4095 < (t.ctx.src a).toNat ∨ (s.group t.vd (t.ctx.src a).toNat).member id = false)) :
    exec i s = .next (s.takeTrap id 1 (t.ctx.src a) 0) := by
  rcases hi with ⟨rfl, hx⟩ | ⟨rfl | rfl, hx⟩
  · exact run_trap h (by simp [Instr.sources, groupId_trap hx])
  · exact run_trap h (by simp [Instr.sources, ownGroup_trap hx])
  · exact run_trap h (by simp [Instr.sources, ownGroup_trap hx])

theorem execGleave_trap (h : s.issues (.gleave a) id t) (hn : 4095 < (t.ctx.src a).toNat) :
    execGleave a s = .next (s.takeTrap id 1 (Instr.word (.gleave a)) 0) :=
  run_trap h (by simp [Instr.sources, hn])

/-- GBAR whose arrival completes the episode (R382). -/
theorem execGbar_fired {u s1 : State} {l : List (Word32 × Option Nat)} {n : Nat} (h : s.issues (.gbar a b) id t)
    (hx : (t.ctx.src a).toNat = n) (hn : n ≤ 4095)
    (hm : (s.group t.vd n).member id = true) (ha : (s.group t.vd n).hasArrived id = false)
    (hu : s.arriveAt t.vd n id = u) (hf : u.canFire t.vd n = true)
    (hw : writeDests id [(b, (u.group t.vd n).status)]
      (((u.fire t.vd n).acquire id .module).wrote id (.gbar a b) fun c => c) = .ok (l, s1)) :
    execGbar a b s = .next (s1.afterPushes id t (.gbar a b) [(u.group t.vd n).status] l) := by
  subst hx hu
  exact run_afterPushes h (by simp [Instr.sources, ownGroup_ok hn hm, ha, hf]) hw

/-- GBAR whose arrival does not complete the episode parks, with what it has done. -/
theorem execGbar_parked {u : Task} {n : Nat} (h : s.issues (.gbar a b) id t) (hx : (t.ctx.src a).toNat = n) (hn : n ≤ 4095)
    (hm : (s.group t.vd n).member id = true) (ha : (s.group t.vd n).hasArrived id = false)
    (hf : (s.arriveAt t.vd n id).canFire t.vd n = false)
    (hu : (s.arriveAt t.vd n id).task? id = some u) (hd : u.delivered = false) :
    execGbar a b s = .next ((s.arriveAt t.vd n id).park id (.barrier n)) := by
  subst hx
  exact run_park h (by simp [Instr.sources, ownGroup_ok hn hm, ha, hf]) hu hd

/-- GBAR of a task that has arrived in the episode only parks. -/
theorem execGbar_again {n : Nat} (h : s.issues (.gbar a b) id t) (hx : (t.ctx.src a).toNat = n) (hn : n ≤ 4095)
    (hm : (s.group t.vd n).member id = true) (ha : (s.group t.vd n).hasArrived id = true)
    (hd : t.delivered = false) : execGbar a b s = .next (s.park id (.barrier n)) := by
  subst hx
  exact run_park h (by simp [Instr.sources, ownGroup_ok hn hm, ha]) h.1.2 hd

/-- XPUT to the window of the task itself, or to a compute tile that is not lost (R468). -/
theorem execXput_sent {n lid : Nat} (h : s.issues (.xput a b) id t) (hx : (t.ctx.src a).toNat = n) (h8 : n % 8 = 0)
    (hlo : Config.windowBase ≤ n) (hhi : n < Config.windowBase + 2 ^ 36) (hbank : n % 2 ^ 24 < Config.bankBytes)
    (hlid : (n - Config.windowBase) / 2 ^ 24 = lid)
    (hown : t.owns lid (n % 2 ^ 24) = true ∨ (s.entry t.vd lid).role = 1 ∧ (s.entry t.vd lid).state ≠ 3) :
    execXput a b s = .next (({ (s.drain id).send 0x07 0 t.last.tile t.last.core t.vd (t.ctx.src a) (t.ctx.src b)
        (.place t.vd id (.window lid (n % 2 ^ 24) (t.owns lid (n % 2 ^ 24))))
        (.xput s.nextXput t.vd id lid (n % 2 ^ 24) (t.ctx.src b)) with
      nextXput := s.nextXput + 1 } : State).wrote id (.xput a b) fun c => c) := by
  have hin : ¬ (n < Config.windowBase ∨ Config.windowBase + 2 ^ 36 ≤ n ∨ Config.bankBytes ≤ n % 2 ^ 24) := by omega
  have hmine : ¬ (¬ t.owns lid (n % 2 ^ 24) = true ∧ ((s.entry t.vd lid).role ≠ 1 ∨ (s.entry t.vd lid).state = 3)) := by
    tauto
  refine run_wrote_noDests h rfl ?_
  simp only [Instr.sources, List.map_cons, List.map_nil, List.getD_cons_zero, List.getD_cons_succ, hx, hlid, h8, ne_eq,
    not_true_eq_false, if_false, if_neg hin, if_neg hmine, act_bind, act_get, act_pure, act_modify]

end Members

/-- Settles O41: the group that each instruction names, and what its body then answers. -/
theorem groupResults : Obligations.GroupResults := by
  intro s s1 id t a b l x n g arrived
  refine ⟨fun h hn hm => execGjoin_joined h hn rfl hm, execGjoin_member, execGleave_left, execGarrive_arrived,
    fun h hn hm ha hf => ?_, fun h hn hm ha hf ⟨u, hu, hd⟩ => execGbar_parked h rfl hn hm ha hf hu hd,
    fun h hd hn hm ha => execGbar_again h rfl hn hm ha hd, fun w h => ?_,
    fun i hi h hn => ?_, execGleave_trap,
    fun i hi h hn hm => exec_groupTrap h (.inr ⟨hi, .inr hm⟩),
    fun h h8 hlo hhi hbank => execXput_sent h rfl h8 hlo hhi hbank rfl⟩
  · intro w fired
    refine ⟨fun hb => ?_, execGbar_fired h rfl hn hm ha rfl hf⟩
    exact (execGbar_fired h rfl hn hm ha rfl hf (writeDests_register hb w)).trans (by rw [State.afterPushes_nil])
  · refine ⟨fun hb => ?_, run_resumed h⟩
    exact (run_resumed h (writeDests_register hb w)).trans (by rw [State.afterPushes_nil])
  · rcases hi with rfl | hi
    · exact exec_groupTrap (b := b) h (.inl ⟨rfl, hn⟩)
    · exact exec_groupTrap h (.inr ⟨hi, .inl hn⟩)

end Sys2Proof.Machine
end

section
/-! Pre-emption, saves, doomed tasks, reclamation, the placement of gangs (R85, R86, R93, R94, R134, R136, R271). -/

namespace Sys2Proof.Machine

theorem mem_of_smallest {α : Type} {key : α → Nat} {l : List α} {x : α} (h : smallest key l = some x) : x ∈ l := by
  induction l generalizing x with
  | nil => cases h
  | cons y r ih =>
    rw [smallest] at h
    split at h
    · next z hz =>
      split at h
      · cases h
        exact List.mem_cons_of_mem y (ih hz)
      · cases h
        exact List.mem_cons_self ..
    · cases h
      exact List.mem_cons_self ..

theorem smallest_eq_none {α : Type} {key : α → Nat} {l : List α} (h : smallest key l = none) : l = [] := by
  cases l with
  | nil => rfl
  | cons y r =>
    rw [smallest] at h
    split at h
    · split at h <;> cases h
    · cases h

/-! ### Pre-emption (R93, R94) -/

/-- Task `id`, which is `y`, may give way to `x` on its thread `p`: it runs there and is due, of the same device, of no higher
descriptor priority, on a thread that `x` could take. -/
def State.GivesWay (s : State) (x : Task) (id : Nat) (y : Task) (p : Place) : Prop :=
  (id, y) ∈ s.tasks ∧ y.status = .running p ∧ y.vd = x.vd ∧ y.due = true ∧ y.descPrio ≤ x.prio ∧
    s.computes x.vd p.tile = true ∧ (x.bound = none ∨ x.bound = some (p.tile, p.core)) ∧ s.mayFollow x id p = true

/-- PREEMPTION of a READY task that no thread can take quiesces a task that may give way, and keeps its thread. -/
theorem execPreemption_next {s : State} {w : Nat} {x : Task} (hw : s.task? w = some x) (hr : x.status = .ready)
    (hd : x.doomed = false) (hdir : x.direct = none) (ho : x.ran = true ∨ s.overdue x.vd x.prio = [])
    (hp : ∀ n ∈ s.computeTiles x.vd, ∀ p ∈ placesOf n, s.mayRun x p = false) (hv : ∃ id y p, s.GivesWay x id y p) :
    ∃ id y p, s.GivesWay x id y p ∧
      execPreemption w s = .next ((s.quiesce id p).modTask w fun u => { u with direct := some p }) := by
  have hwaits : ¬ (x.status ≠ .ready ∨ x.doomed = true ∨ x.direct.isSome = true) := by simp [hr, hd, hdir]
  have hfirst : ¬ (!x.ran && !(s.overdue x.vd x.prio).isEmpty) = true := by
    rcases ho with h | h <;> simp [h]
  have hplace : ¬ ((s.computeTiles x.vd).any fun n => (placesOf n).any fun p => s.mayRun x p) = true := by
    simpa using hp
  simp only [execPreemption, hw, if_neg hwaits, if_neg hfirst, if_neg hplace]
  generalize hdue : List.filterMap _ s.tasks = due
  generalize ho : smallest _ due = o
  have hmem (v : Nat × Task × Place) : v ∈ due ↔ s.GivesWay x v.1 v.2.1 v.2.2 := by
    rw [← hdue, List.mem_filterMap]
    constructor
    · rintro ⟨y, hy, e⟩
      split at e
      · next p hst =>
        split at e
        · next hgo =>
          cases e
          obtain ⟨hvd, hlate, hprio, hcomp, hbound, hfollow⟩ := hgo
          exact ⟨hy, hst, hvd, hlate, hprio, hcomp, hbound.imp_left Option.isNone_iff_eq_none.1, hfollow⟩
        · cases e
      · cases e
    · rintro ⟨hy, hst, hvd, hlate, hprio, hcomp, hbound, hfollow⟩
      refine ⟨(v.1, v.2.1), hy, ?_⟩
      simp [hst, hvd, hlate, hprio, hcomp, hbound, hfollow]
  obtain ⟨id, y, p, hy⟩ := hv
  cases o with
  | none =>
    have hin : (id, y, p) ∈ due := (hmem (id, y, p)).2 hy
    simp [smallest_eq_none ho] at hin
  | some v => exact ⟨v.1, v.2.1, v.2.2, (hmem v).1 (mem_of_smallest ho), rfl⟩

/-! ### Saves (R271) -/

section Saves
variable {s : State} {id : Nat} {t : Task}

theorem execSaveTransferComplete_held {p : Place} (ht : s.task? id = some t) (hst : t.status = .saving p)
    (hd : t.doomed = false) (hw : s.saveWaits t.vd id p.tile = true) : execSaveTransferComplete id s = .next s := by
  simp [execSaveTransferComplete, event, ht, hst, hd, hw]

theorem execSaveTransferComplete_next {p : Place} (ht : s.task? id = some t) (hst : t.status = .saving p)
    (hd : t.doomed = false) (hr : s.running id = false) (hw : s.saveWaits t.vd id p.tile = false) {u : State}
    (hu : ((s.release id .module).saveAway id p.tile p.core).writeContext id true = u) :
    execSaveTransferComplete id s = .next ((u.modTask id fun y =>
      { y with home := u.homeAfter y.vd p.tile, bound := none, prio := y.descPrio, extTable := [], due := false,
               preempted := true }).makeReady id t.woke) := by
  subst hu
  simp [execSaveTransferComplete, event, ht, hst, hd, hr, hw]

/-! ### Doomed tasks (R134) -/

theorem execDoomedFlagDelivery_running {p : Place} (ht : s.task? id = some t) (hd : t.doomed = true)
    (hst : t.status = .running p) (hn : t.delivered = false) :
    execDoomedFlagDelivery id s = .next (s.setTask id { t with delivered := true }) := by
  simp [execDoomedFlagDelivery, event, ht, hd, hst, hn]

theorem execDoomedFlagDelivery_waiting (ht : s.task? id = some t) (hd : t.doomed = true)
    (hst : t.status = .pending ∨ t.status = .ready ∨ ∃ w, t.status = .blocked w) :
    execDoomedFlagDelivery id s = .next (s.setTask id { t with status := .stopping none }) := by
  rcases hst with h | h | ⟨w, h⟩ <;> simp [execDoomedFlagDelivery, event, ht, hd, h]

/-! ### Reclamation (R136, R329) -/

theorem execReclaim_held (ht : s.task? id = some t) (hw : s.saveWaits t.vd id t.last.tile = true) :
    execReclaim id s = .next s := by
  simp only [execReclaim, event, ht, hw, if_true]
  cases t.status <;> rfl

variable {q : Option Place}

theorem execReclaim_destroyed (ht : s.task? id = some t) (hst : t.status = .stopping q)
    (hw : s.saveWaits t.vd id t.last.tile = false) (hn : t.torn = false) (hv : (s.vd t.vd).destroying = true) :
    execReclaim id s = .next (s.quietDown id t) := by
  simp [execReclaim, event, ht, hst, hw, hn, hv]

/-- The reclaim of a task that no reclaim has begun with: it is torn down, and gone unless commands of it are still running. -/
theorem execReclaim_torn (ht : s.task? id = some t) (hst : t.status = .stopping q)
    (hw : s.saveWaits t.vd id t.last.tile = false) (hn : t.torn = false) (hv : (s.vd t.vd).destroying = false) :
    execReclaim id s =
      .next (if (s.tearDown id).running id then s.tearDown id else (s.tearDown id).reclaimed id) := by
  cases hr : (s.tearDown id).running id <;> simp [execReclaim, event, ht, hst, hw, hn, hv, hr]

end Saves

/-! ### Gangs (R85, R86, R94) -/

theorem execGangPlacement_next {s : State} {vd gid : Nat} {g : GangWait} {rest : List GangWait} {tiles : List Nat}
    (hg : (s.vd vd).gangs = g :: rest) (hpwr : (s.vd vd).pwr = 0) (hd : (s.vd vd).destroying = false)
    (ho : s.overdue vd g.prio = []) (ht : s.gangTiles vd g = some tiles) (hf : (s.vd vd).freeGroup = some gid) :
    let d : Desc := { entry := g.entry, scratch := g.scratch, prio := g.prio, extents := g.extents }
    execGangPlacement vd s = .next (((s.modVd vd fun v => { v with gangs := rest }).modFut vd g.fut fun f =>
      { f with state := 3, ran := true, made := g.groups * g.threads, left := g.groups * g.threads }).gangStart vd g gid
        ((tiles.zipIdx).flatMap fun x =>
          (((s.idleThreads vd d x.1).take g.threads).zipIdx).map fun y => (x.2, y.2, y.1))) := by
  simp [execGangPlacement, event, hg, hpwr, hd, ho, ht, hf]

/-- Settles O50, event by event: each is enabled by its hypotheses, and answers the state that its lemma gives. -/
theorem stopAndStartEvents : Obligations.StopAndStartEvents := by
  intro s w id vd gid x t p g rest tiles
  refine ⟨execPreemption_next, fun hw p hst hd hr =>
      ⟨execSaveTransferComplete_held hw hst hd, fun hs => execSaveTransferComplete_next hw hst hd hr hs rfl⟩,
    execDoomedFlagDelivery_running, execDoomedFlagDelivery_waiting, fun ht ⟨q, hst⟩ hs hn => ?_,
    execReclaim_held, execGangPlacement_next⟩
  refine ⟨execReclaim_destroyed ht hst hs hn, fun hv => ?_⟩
  have htorn := execReclaim_torn ht hst hs hn hv
  exact ⟨fun hr => htorn.trans (by rw [hr]; rfl), fun hr => htorn.trans (by rw [hr]; rfl)⟩

end Sys2Proof.Machine
end

section
/-! Dispatch, stealing, time slices, aging, the counts of dispatchers, and the issue slot of a core (R71, R93, R94, R96, R98 to
R102, R105). -/

namespace Sys2Proof.Machine

/-! ### The issue slot of a core (R71, R105) -/

section Slot
variable {s : State} {tile core n id : Nat} {t : Task}

/-- A thread that may not issue is passed by. -/
theorem State.slotFrom_skip (h : s.eligible ⟨tile, core, n⟩ = false) (r : List Nat) :
    s.slotFrom tile core (n :: r) = s.slotFrom tile core r := by
  simp only [State.slotFrom, h, Bool.not_false, if_true]
  split <;> rfl

/-- A limited thread is passed over on the first of two turns. -/
theorem State.slotFrom_limited (ht : s.taskAt ⟨tile, core, n⟩ = some (id, t)) (he : s.eligible ⟨tile, core, n⟩ = true)
    (hl : s.limited t ⟨tile, core, n⟩ = true) (hp : (s.core tile core).passed.toList.getD n false = false) (r : List Nat) :
    s.slotFrom tile core (n :: r) =
      (s.modCore tile core fun c => { c with passed := c.passed.setIfInBounds n true }).slotFrom tile core r := by
  simp only [State.slotFrom, ht, he, hl, hp, Bool.not_true, Bool.not_false, Bool.and_true, Bool.false_eq_true, if_false, if_true]

/-- It has the slot on the second. -/
theorem State.slotFrom_passed (ht : s.taskAt ⟨tile, core, n⟩ = some (id, t)) (he : s.eligible ⟨tile, core, n⟩ = true)
    (hp : (s.core tile core).passed.toList.getD n false = true) (r : List Nat) : s.slotFrom tile core (n :: r) =
      (some n, s.modCore tile core fun c => { c with passed := c.passed.setIfInBounds n false }) := by
  simp only [State.slotFrom, ht, he, hp, Bool.not_true, Bool.and_false, Bool.false_eq_true, if_false, if_true]

/-- A thread that is not limited, and was not passed over, has the slot. -/
theorem State.slotFrom_free (ht : s.taskAt ⟨tile, core, n⟩ = some (id, t)) (he : s.eligible ⟨tile, core, n⟩ = true)
    (hl : s.limited t ⟨tile, core, n⟩ = false) (hp : (s.core tile core).passed.toList.getD n false = false) (r : List Nat) :
    s.slotFrom tile core (n :: r) = (some n, s) := by
  simp only [State.slotFrom, ht, he, hl, hp, Bool.not_true, Bool.false_and, Bool.false_eq_true, if_false]

theorem State.task_of_eligible {p : Place} (h : s.eligible p = true) : ∃ id t, s.taskAt p = some (id, t) := by
  unfold State.eligible at h
  split at h
  · next id t ht => exact ⟨id, t, ht⟩
  · cases h

/-- With no thread limited or passed over, the slot is the first that may issue. -/
theorem State.slotFrom_unlimited (h : ∀ n id t, s.taskAt ⟨tile, core, n⟩ = some (id, t) →
      s.limited t ⟨tile, core, n⟩ = false ∧ (s.core tile core).passed.toList.getD n false = false) (l : List Nat) :
    s.slotFrom tile core l = (l.find? fun n => s.eligible ⟨tile, core, n⟩, s) := by
  induction l with
  | nil => rfl
  | cons n r ih =>
    cases he : s.eligible ⟨tile, core, n⟩ with
    | false => rw [State.slotFrom_skip he, ih, List.find?_cons_of_neg (by simp [he])]
    | true =>
      obtain ⟨id, t, ht⟩ := State.task_of_eligible he
      obtain ⟨hl, hp⟩ := h n id t ht
      rw [State.slotFrom_free ht he hl hp, List.find?_cons_of_pos (by exact he)]

end Slot

/-! ### What a change of a task keeps that leaves its status and its window alone -/

/-- A function that gives the same for the old and the new value of a key gives the same list after the write. -/
theorem map_put {κ α β : Type} [DecidableEq κ] {l : List (κ × α)} {q : κ} {x y : α} (hx : look l q = some x)
    {f : κ × α → β} (hf : f (q, y) = f (q, x)) : (put l q y).map f = l.map f := by
  induction l with
  | nil => cases hx
  | cons p r ih =>
    obtain ⟨k, z⟩ := p
    by_cases hk : k = q
    · subst hk
      obtain rfl : z = x := by simpa [look] using hx
      simp [put, hf]
    · simp only [look, hk, if_false] at hx
      simp [put, hk, ih hx]

section Keep
variable (s : State) (n : Nat) {f : Task → Task}

theorem State.map_tasks_modTask {β : Type} {g : Nat × Task → β} (hg : ∀ x, g (n, f x) = g (n, x)) :
    (s.modTask n f).tasks.map g = s.tasks.map g := by
  unfold State.modTask
  split
  · next x hx => exact map_put hx (hg x)
  · rfl

theorem State.isIdle_modTask (hs : ∀ x, (f x).status = x.status) : (s.modTask n f).isIdle = s.isIdle := by
  funext p
  have h := congrArg (List.any · (Status.holds p)) (s.map_tasks_modTask n (g := fun x => x.2.status) hs)
  rw [List.any_map, List.any_map] at h
  exact congrArg (!·) h

theorem State.windows_modTask (hw : ∀ x, (f x).window = x.window) : (s.modTask n f).windows = s.windows := by
  funext k
  unfold State.windows
  have h := congrArg (List.filterMap fun o : Option Window => match o with
    | some w => if w.tile = some k then some (w.off, w.size) else none
    | none => none) (s.map_tasks_modTask n (g := fun x => x.2.window) hw)
  rw [List.filterMap_map, List.filterMap_map] at h
  exact h

theorem State.computes_modTask : (s.modTask n f).computes = s.computes := by
  funext v k
  unfold State.computes State.entry
  rw [State.tile_modTask, State.vd_modTask]

theorem State.mayRun_modTask (hs : ∀ x, (f x).status = x.status) (hw : ∀ x, (f x).window = x.window) :
    (s.modTask n f).mayRun = s.mayRun := by
  funext t p
  unfold State.mayRun State.core
  rw [State.computes_modTask, State.isIdle_modTask s n hs, State.windows_modTask s n hw, State.vd_modTask, State.tile_modTask]

end Keep

/-! ### The order of dispatch (R94, R99, R100), and dispatch itself -/

section Dispatch
variable {s : State} {p : Place} {vd : Nat} {mode : Bool}

/-- The first task is taken where nothing holds it back. -/
theorem State.pick_first {x : Nat × Task} (h : x.2.cls = 1 ∨ s.heldBackBy vd p x.2.prio mode = []) (r : List (Nat × Task)) :
    s.pick vd p mode (x :: r) = some x := by
  rcases h with h | h <;> simp [State.pick, h]

/-- One that is held back leaves its turn to those that hold it back, and then to the tasks after it. -/
theorem State.pick_held {x : Nat × Task} (hc : x.2.cls ≠ 1) (h : s.heldBackBy vd p x.2.prio mode ≠ [])
    (r : List (Nat × Task)) : s.pick vd p mode (x :: r) =
      ((s.heldBackBy vd p x.2.prio mode).find? fun y => s.waitsFor vd y.2 p && s.mayRun y.2 p).or (s.pick vd p mode r) := by
  rw [State.pick, if_neg hc]
  split
  · contradiction
  · rfl

/-- It gives way to the first that holds it back and may run there. -/
theorem State.pick_gives {x y : Nat × Task} (hc : x.2.cls ≠ 1)
    (hy : (s.heldBackBy vd p x.2.prio mode).find? (fun y => s.waitsFor vd y.2 p && s.mayRun y.2 p) = some y)
    (r : List (Nat × Task)) : s.pick vd p mode (x :: r) = some y := by
  rw [State.pick_held hc (List.ne_nil_of_mem (List.mem_of_find?_eq_some hy)), hy, Option.some_or]

/-- Where none of them may, it is passed over. -/
theorem State.pick_passes {x : Nat × Task} (hc : x.2.cls ≠ 1) (h : s.heldBackBy vd p x.2.prio mode ≠ [])
    (hn : (s.heldBackBy vd p x.2.prio mode).find? (fun y => s.waitsFor vd y.2 p && s.mayRun y.2 p) = none)
    (r : List (Nat × Task)) : s.pick vd p mode (x :: r) = s.pick vd p mode r := by
  rw [State.pick_held hc h, hn, Option.none_or]

theorem State.modeSeen_settled (h : s.modeSettled vd p.tile) : s.modeSeen vd p = ((s.vd vd).depthFirst, s) := by
  simp [State.modeSeen, h]

variable (hv : s.deviceAt p = some vd) (hi : s.isIdle p = true) (hm : s.modeSettled vd p.tile)

include hv hi hm in
/-- A task for which the thread is kept takes it, where nothing holds it back but what has just left the thread. -/
theorem execDispatch_kept {x : Nat × Task}
    (hx : s.tasks.find? (fun x => decide (x.2.direct = some p) && (s.waitsFor vd x.2 p && s.mayRun x.2 p)) = some x)
    (h : x.2.cls = 1 ∨ ∀ y ∈ s.heldBackBy vd p x.2.prio (s.vd vd).depthFirst, y.2.last = p) :
    execDispatch p s = .next (s.startOn x.1 p) := by
  have hnone : ((if x.2.cls = 1 then [] else s.heldBackBy vd p x.2.prio (s.vd vd).depthFirst).filter
      fun y => y.2.last != p) = [] := by
    rcases h with h | h
    · rw [if_pos h]; rfl
    · split
      · rfl
      · simpa using h
  simp only [execDispatch, hv, hi, Bool.not_true, Bool.false_eq_true, if_false, State.modeSeen_settled hm, Bool.and_assoc, hx,
    hnone]
  rfl

include hv hi hm in
/-- With no such task, the first that nothing holds back is started. -/
theorem execDispatch_picked
    (hx : s.tasks.find? (fun x => decide (x.2.direct = some p) && (s.waitsFor vd x.2 p && s.mayRun x.2 p)) = none) :
    execDispatch p s = .next ((s.pick vd p (s.vd vd).depthFirst (s.queueFor vd p (s.vd vd).depthFirst)).elim s fun x =>
      s.startOn x.1 p) := by
  simp only [execDispatch, hv, hi, Bool.not_true, Bool.false_eq_true, if_false, State.modeSeen_settled hm, Bool.and_assoc, hx,
    event]
  cases s.pick vd p (s.vd vd).depthFirst (s.queueFor vd p (s.vd vd).depthFirst) <;> rfl

theorem execDispatch_busy (h : s.isIdle p = false) : execDispatch p s = .next s := by
  simp only [execDispatch, h, Bool.not_false, if_true]
  cases s.deviceAt p <;> rfl

theorem execWorkSteal_busy (h : s.isIdle p = false) : execWorkSteal p s = .next s := by
  simp only [execWorkSteal, h, Bool.not_false, Bool.true_or, if_true]
  cases s.deviceAt p <;> rfl

include hv hi hm in
/-- With no task to take in its own, a dispatcher takes one of the nearest cluster that has one (R102). -/
theorem execWorkSteal_taken
    (hx : s.tasks.find? (fun x => decide (x.2.direct = some p) && (s.waitsFor vd x.2 p && s.mayRun x.2 p)) = none)
    (hq : s.queueFor vd p (s.vd vd).depthFirst = []) {able : Nat → List (Nat × Task)}
    (hable : ∀ c, able c = s.tasks.filter fun x => s.waitsFor vd x.2 p && x.2.home = c && x.2.bound.isNone)
    {c : Nat} {x : Nat × Task}
    (hc : (probeOrder (clusterOf p.tile)).find? (fun c => !(able c).isEmpty) = some c)
    (hpick : s.pick vd p (s.vd vd).depthFirst (s.inOrder (s.vd vd).depthFirst (able c)) = some x)
    (hr : s.mayRun x.2 p = true) : execWorkSteal p s =
      .next ((s.modTask x.1 fun u => { u with home := clusterOf p.tile }).startOn x.1 p) := by
  have hnone : (s.tasks.any fun x => x.2.direct = some p && s.waitsFor vd x.2 p && s.mayRun x.2 p) = false := by
    simp only [Bool.and_assoc]
    rw [List.any_eq_false]
    exact List.find?_eq_none.1 hx
  have hrun (f : Task → Task) (hs : ∀ u, (f u).status = u.status) (hw : ∀ u, (f u).window = u.window) :
      (s.modTask x.1 f).mayRun x.2 p = true := by rw [State.mayRun_modTask s x.1 hs hw, hr]
  simp only [hable] at hc hpick
  simp only [execWorkSteal, hv, hi, hnone, Bool.not_true, Bool.or_self, Bool.false_eq_true, if_false,
    State.modeSeen_settled hm, hq, List.isEmpty_nil, event, hc, hpick, Option.map_some, hrun, implies_true, if_true,
    Option.getD_some]

end Dispatch

/-! ### Time slices, aging, counts (R93, R96, R101) -/

section Times
variable {s : State} {id : Nat} {t : Task}

theorem slice20_eq : Config.slice20 = 2 ^ 20 := rfl

theorem execTimeSliceExpiry_due {p : Place} (ht : s.taskAt p = some (id, t)) (hd : t.due = false)
    (h : t.since + 2 ^ 20 ≤ s.cycles) :
    execTimeSliceExpiry p s = .next (s.modTask id fun u => { u with due := true }) := by
  have hdue : ¬ (t.due = true ∨ s.cycles < t.since + Config.slice20) := by
    simp only [hd, Bool.false_eq_true, false_or, slice20_eq, Nat.not_lt, h]
  simp only [execTimeSliceExpiry, event, ht, if_neg hdue, Option.getD_some]

theorem execAging_rises (ht : s.task? id = some t) (hst : t.status = .ready) (hp : t.prio < 7)
    (h : t.readytime + 2 ^ 20 * (t.prio - t.descPrio + 1) ≤ s.cycles) : execAging id s = .next (match t.ident with
      | .ordinary i => (s.modTask id fun u => { u with prio := u.prio + 1 }).modFut t.vd i fun f => { f with prio := t.prio + 1 }
      | _ => s.modTask id fun u => { u with prio := u.prio + 1 }) := by
  have hrise : t.status = .ready ∧ t.prio < 7 ∧ t.readytime + Config.slice20 * (t.prio - t.descPrio + 1) ≤ s.cycles := by
    rw [slice20_eq]
    exact ⟨hst, hp, h⟩
  simp only [execAging, ht, event]
  rw [if_pos hrise]
  cases t.ident <;> dsimp only <;> rw [Option.getD_some]

/-- The halvings of a cluster's counts that are due (R101). -/
def State.halvingsDue (s : State) (c : Nat) : Nat :=
  (s.dies.toList.getD (c / 64) {}).master / 2 ^ 20 - (s.cluster c).halved

theorem execDispatchCountHalving_none {c : Nat} (h : s.halvingsDue c = 0) : execDispatchCountHalving c s = .next s := by
  unfold State.halvingsDue at h
  simp only [execDispatchCountHalving, event, h, if_true, Option.getD_none]

theorem execDispatchCountHalving_due {c n : Nat} (hn : s.halvingsDue c = n) (h : n ≠ 0) : execDispatchCountHalving c s =
    .next { s.modCluster c (fun x => { x with halved := x.halved + n }) with
      vds := s.vds.map fun v => (v.1, { v.2 with
        used := v.2.used.map fun u => if u.1 = c then (u.1, u.2 / 2 ^ n) else u }) } := by
  unfold State.halvingsDue at hn
  simp only [execDispatchCountHalving, event, hn, if_neg h, Option.getD_some, State.modCluster]

end Times

/-- Settles O49: the issue slot by how `slotFrom` passes each thread, DISPATCH and WORK_STEAL by what `pick` answers, the
other events by their own lemmas. -/
theorem dispatchEvents : Obligations.DispatchEvents := by
  refine ⟨fun s tile core _ h => State.slotFrom_unlimited h _, fun s tile core n id t r ht he hl =>
    ⟨fun hp => State.slotFrom_limited ht he hl hp r, fun hp => State.slotFrom_passed ht he hp r⟩, fun s p vd id t =>
    ⟨fun hv hi hm => ⟨fun x r => ?_, fun x hx h => execDispatch_kept hv hi hm hx h, fun hx => ?_⟩,
      fun h => ⟨execDispatch_busy h, execWorkSteal_busy h⟩, execTimeSliceExpiry_due, execAging_rises, fun c =>
      ⟨execDispatchCountHalving_none, execDispatchCountHalving_due rfl⟩⟩⟩
  · exact ⟨fun h => State.pick_first h r, fun y hc hy => State.pick_gives hc hy r,
      fun hc hne hf => State.pick_passes hc hne hf r⟩
  · exact ⟨execDispatch_picked hv hi hm hx, fun hq c x hc hpick hr =>
      execWorkSteal_taken hv hi hm hx hq (fun _ => rfl) hc hpick hr⟩

end Sys2Proof.Machine
end

section
/-! VREP: its issue, and the turns of its thread (R113, R114, R464). -/

namespace Sys2Proof.Machine

/-! ### The VREP of a task's registers -/

theorem Ctx.clearLatches_vrep (c : Ctx) (v : Option Vrep) (l : List GReg) :
    ({ c with vrep := v } : Ctx).clearLatches l = { c.clearLatches l with vrep := v } := by
  unfold Ctx.clearLatches
  induction l generalizing c with
  | nil => rfl
  | cons r l ih =>
    rw [List.foldl_cons, List.foldl_cons, ← ih]
    split <;> rfl

/-- Task `id` stands at a VREP, or at none. -/
def State.setVrep (s : State) (id : Nat) (v : Option Vrep) : State :=
  s.modTask id fun x => { x with ctx := { x.ctx with vrep := v } }

/-- What the end of an instruction does commutes with it. -/
theorem State.wrote_setVrep (s : State) (id : Nat) (i : Instr) (v : Option Vrep) (pc : Word) :
    ((s.setVrep id v).wrote id i fun c => { c with pc := pc }) = s.wrote id i fun c => { c with pc := pc, vrep := v } := by
  simp only [State.setVrep, State.wrote, State.modTask_modTask, Ctx.clearLatches_vrep]
  rfl

/-! ### The issue, and one body word -/

section Vrep
variable {s : State} {id : Nat} {t : Task} {n : BitVec 4} {a : GReg} {st : BitVec 5}

/-- What the issue of a VREP of count `c` answers, with its words at hand. -/
def vrepIssued (t : Task) (id : Nat) (words : Nat) (st : BitVec 5) (c : Word) (body : List Word32) (s : State) : Done × State :=
  if c = 0 then ({ pc := some (t.ctx.pc + BitVec.ofNat 64 (4 + 4 * words)) }, s.setVrep id none)
  else ({ pc := some t.ctx.pc }, s.setVrep id (some ⟨t.ctx.pc, true, true, c.toNat, body, st.toNat, 0, 0⟩))

/-- A thread that executes no VREP issues it: a count above 256 traps, any other is answered with the body. -/
theorem exec_vrep_issue (h : s.runs id t) (hr : t.ctx.running = none) (c : Word) :
    ∃ f : Nat → Task → List Word → Act Done, exec (.vrep n a st) s = run (.vrep n a st) f s ∧
      (256 < c.toNat → f id t [c] s = .error (.trap 1 c 0)) ∧
      ∀ body s1, c.toNat ≤ 256 → fetchBody id t (t.ctx.pc.toNat + 4) (n.toNat + 1) s = .ok (body, s1) →
        f id t [c] s = .ok (vrepIssued t id (n.toNat + 1) st c body s1) := by
  refine ⟨?body, ?exec, fun hc => ?trap, fun body s1 hc hb => ?issued⟩
  case exec =>
    simp only [exec, execVrep, h.1, hr]
    rfl
  case trap => simp [hc]
  case issued =>
    by_cases h0 : c = 0#64
    · subst h0
      simp [hb, vrepIssued, State.setVrep]
    · simp [Nat.not_lt.2 hc, hb, h0, hr, vrepIssued, State.setVrep]

theorem exec_vrep_trap (h : s.issues (.vrep n a st) id t) (hr : t.ctx.running = none) (hc : 256 < (t.ctx.src a).toNat) :
    exec (.vrep n a st) s = .next (s.takeTrap id 1 (t.ctx.src a) 0) := by
  obtain ⟨f, hexec, htrap, -⟩ := exec_vrep_issue (n := n) (a := a) (st := st) h.1 hr (t.ctx.src a)
  rw [hexec]
  exact run_trap h (htrap hc)

section Issued
variable {s1 : State} {body : List Word32} (h : s.issues (.vrep n a st) id t) (hr : t.ctx.running = none)
  (hc : (t.ctx.src a).toNat ≤ 256) (hb : fetchBody id t (t.ctx.pc.toNat + 4) (n.toNat + 1) s = .ok (body, s1))
include h hr hc hb

/-- The issue leaves the task at the pc and the VREP that it answers. -/
theorem exec_vrep_issued {pc : Word} {v : Option Vrep}
    (hv : vrepIssued t id (n.toNat + 1) st (t.ctx.src a) body s1 = ({ pc := some pc }, s1.setVrep id v)) :
    exec (.vrep n a st) s = .next (s1.wrote id (.vrep n a st) fun x => { x with pc := pc, vrep := v }) := by
  obtain ⟨f, hexec, -, hok⟩ := exec_vrep_issue (n := n) (a := a) (st := st) h.1 hr (t.ctx.src a)
  have hbody : f id t ((Instr.vrep n a st).sources.map t.ctx.src) s = .ok ({ pc := some pc }, s1.setVrep id v) :=
    hv ▸ hok body s1 hc hb
  rw [hexec, run_jumped h hbody (by simp [Instr.dests]), ← State.wrote_setVrep]
  rfl

theorem exec_vrep_zero (h0 : t.ctx.src a = 0) : exec (.vrep n a st) s =
    .next (s1.wrote id (.vrep n a st) fun x =>
      { x with vrep := none, pc := t.ctx.pc + BitVec.ofNat 64 (4 + 4 * (n.toNat + 1)) }) :=
  exec_vrep_issued h hr hc hb (if_pos h0)

theorem exec_vrep_first (h0 : t.ctx.src a ≠ 0) : exec (.vrep n a st) s =
    .next (s1.wrote id (.vrep n a st) fun x => { x with
      pc := t.ctx.pc, vrep := some ⟨t.ctx.pc, true, true, (t.ctx.src a).toNat, body, st.toNat, 0, 0⟩ }) :=
  exec_vrep_issued h hr hc hb (if_neg h0)

end Issued

/-- A turn at a VREP whose body is read runs the word at which it stands. -/
theorem exec_vrep_word {r : Vrep} {w : Word32} {j : Instr} {f : VBody} (h : s.runs id t) (hr : t.ctx.running = some r)
    (hl : r.loaded = true) (hrep : r.rep < r.count) (hw : r.body[r.idx]? = some w) (hj : bodyInstr w = some j)
    (hf : vectorBody (stepped (BitVec.ofNat 5 (r.rep * r.stride)) j) = some f) :
    exec (.vrep n a st) s = runAs (stepped (BitVec.ofNat 5 (r.rep * r.stride)) j) f (fun _ c => r.advance c) id t s := by
  simp only [exec, execVrep, h.1, hr, hl, if_true, vrepWord, if_neg (Nat.not_le.2 hrep), hw, Option.bind_some, hj, hf]

end Vrep

/-- Settles O35: the issue by what its body answers, a later turn by the word at which the VREP stands. -/
theorem vrepRuns : Obligations.VrepRuns := by
  intro s s1 id t n a st body
  exact ⟨exec_vrep_trap, fun h hr hc hb => ⟨exec_vrep_zero h hr hc hb, exec_vrep_first h hr hc hb⟩,
    fun r w j f => exec_vrep_word⟩

end Sys2Proof.Machine
end

section
/-! Why the packet of a store that has come to its destination stop need not be performed there (O51): its logical tile may
have left that stop since (R162). -/

namespace Sys2Proof.Machine

/-- A store to the window of logical tile 1. -/
def storeToWindow : Store := { va := 0, target := .window 1 8 false, bytes := [(0, 1)] }

/-- Its packet, which has come from tile 0 to stop 3. -/
def packetAtOldHome : Pkt :=
  { hdr := { kind := 2, src := 0, dst := 3 }, body := .store 0 0 storeToWindow, goal := .place 0 0 storeToWindow.target,
    loc := .arrived }

/-- The task that made the store. -/
def taskOfStore : Task := { vd := 0, ident := .ordinary 0 }

/-- Logical tile 1 lies on tile 17 by now. -/
def stateAtOldHome : State :=
  { packets := [packetAtOldHome], tasks := [(0, taskOfStore)], vds := [(0, { rolemap := [(1, { role := 1, phys := 17 })] })] }

/-- The kinds of the packets on their way after a step. -/
def kindsAfter : Result → List (BitVec 6)
  | .next s => s.packets.map (·.hdr.kind)
  | _ => []

/-- The old home sends the packet on (kind 0x08). -/
theorem exec_stateAtOldHome_kinds : kindsAfter (exec (.storeBufferDrain 0 1) stateAtOldHome) = [0x08] := by decide +kernel

/-- What the statement has in its place: the store performed, and its acknowledgement (kind 0x03). -/
theorem performed_stateAtOldHome_kinds : kindsAfter (.next ((({ stateAtOldHome with
    packets := stateAtOldHome.packets.eraseIdx 0 } : State).perform 0 0 storeToWindow).answer packetAtOldHome 0x03 0)) =
    [0x03] := by decide +kernel

/-- Refutes O51: nothing in its hypotheses says that the stop is the packet's home still. Where the logical tile has left the
stop (`State.astray`), the packet may be received, and it is neither performed nor acknowledged but sent on. -/
theorem not_coreEvents : ¬ Obligations.CoreEvents := by
  intro h
  obtain ⟨-, hpacket, -⟩ := h stateAtOldHome 0 0 0 0 0 0 0 0 0 taskOfStore storeToWindow [] ⟨0, .rpoint, none⟩ [] packetAtOldHome
  have hreceive : stateAtOldHome.mayReceive 0 packetAtOldHome = true := by decide +kernel
  have hperformed := congrArg kindsAfter ((hpacket rfl (by decide +kernel) rfl).2 hreceive rfl)
  rw [exec_stateAtOldHome_kinds, performed_stateAtOldHome_kinds] at hperformed
  exact absurd hperformed (by decide)

end Sys2Proof.Machine
end

section
/-! The engines of a tile, their commands, the berths of subscriptions, and the messages of TXCHG (R115, R188, R190, R210, R300,
R317, R348, R412, R437, R449). -/

namespace Sys2Proof.Machine

variable {s : State} {n k : Nat}

/-! ### Events, the byte budget (R317), and what the place of a turn does not change -/

@[simp] theorem event_some (s s' : State) : event s (some s') = .next s' := rfl
@[simp] theorem event_none (s : State) : event s none = .next s := rfl

theorem State.within?_of_afforded {s' : State} (h : s.afforded s' n = true) : s.within? n s' = some s' := by
  rw [State.within?, if_pos h]

theorem State.within?_of_spent {s' : State} (h : s.afforded s' n = false) : s.within? n s' = none := by
  rw [State.within?, if_neg (by simp [h])]

section Place
variable (s : State) (p : Place)

@[simp] theorem State.core_cur (m j : Nat) : ({ s with cur := p } : State).core m j = s.core m j := rfl
@[simp] theorem State.pendingAmong_cur (l : List Nat) : ({ s with cur := p } : State).pendingAmong l = s.pendingAmong l := rfl
@[simp] theorem State.engineHeld_cur (m : Nat) (c : Cmd) : ({ s with cur := p } : State).engineHeld m c = s.engineHeld m c := rfl
@[simp] theorem State.berthsTaken_cur (c : Cmd) : ({ s with cur := p } : State).berthsTaken c = s.berthsTaken c := rfl

end Place

/-! ### Start (R115) -/

/-- An engine that serves no command starts the head of the next core with a ready one, where the byte budget affords it. -/
theorem execEngineCommandStart_next {q : EngQ} {c : Cmd} (hq : q ≠ .stream)
    (hidle : ∀ j < 4, ∀ x ∈ ((s.tile n).core j).queue q, x.started = false)
    (hk : ((List.range 4).map fun j => ((s.tile n).served.toList.getD (engineNumber q) 3 + 1 + j) % 4).find?
      (fun j => (s.startable n j q).isSome) = some k) (hc : s.startable n k q = some c) :
    execEngineCommandStart n q s = event s (s.within? n ((s.modTile n fun t =>
      { t with served := t.served.setIfInBounds (engineNumber q) k }).startCmd n k c)) := by
  have hbusy : ((List.range 4).any fun j => (((s.tile n).core j).queue q).any fun x => x.started) = false := by
    simpa using hidle
  simp only [execEngineCommandStart, hbusy, Bool.and_false, Bool.false_eq_true, if_false, if_neg hq, hk, hc]

/-! ### TXCHG messages (R300, R449) -/

theorem execTxchgMessageArrival_next {j v g r d : Nat} {y : Message} {p : Pkt} (hp : s.packets[j]? = some p)
    (hb : p.body = .txchg v g r d y) (hr : s.mayReceive j p = true) : execTxchgMessageArrival j s =
      .next ((({ s with packets := s.packets.eraseIdx j } : State).answer p 0x03 0).exchangeHere v g r d y) := by
  simp only [execTxchgMessageArrival, hp, hb, hr, Bool.not_true, Bool.false_eq_true, if_false, event_some]

/-! ### Berths (R188, R190) -/

section Berths
variable {u : Sub} {w : Word}

/-- A fill that is due starts where it is its streamer's turn. -/
theorem execBerthFillStart_next (hd : s.fillDue n k = some u) (hn : s.streamerNext u.streamer = some (n, k)) :
    let s1 := s.berthMove u.cmd.task u.ring (u.next % u.berths) 0 (withState 1)
    execBerthFillStart n k s = .next (({ s1 with dies := s1.dies.mapIdx fun i x => if i = u.streamer / 8 then
      { x with streamers := x.streamers.setIfInBounds (u.streamer % 8) (4 * (n % 256) + k) } else x } : State).modCore n k
        fun x => { x with sub := some { u with filling := some u.next } }) := by
  simp only [execBerthFillStart, hd, hn, ne_eq, not_true_eq_false, if_false, event_some]

variable (hu : (s.core n k).sub = some u)
include hu

theorem State.fillDue_of_empty (hf : u.filling = none) (he : u.ending = false) (ht : u.next < u.total) (hb : u.berths ≠ 0)
    (hs : s.isSaving u.cmd.task = false) (hw : s.berthWord u.cmd.task u.ring (u.next % u.berths) = some w)
    (h0 : berthState w = 0) (hc : s.computes u.cmd.vd n = true) : s.fillDue n k = some u := by
  simp [State.fillDue, hu, hf, he, Nat.not_le.2 ht, hb, hs, hw, h0, hc]

theorem execBerthFillComplete_next (hf : u.filling.isSome = true) (hw : s.fillWaits u = false) (hy : s.fillYields u = false)
    (ha : s.afforded (s.fillDone n k) n = true) : execBerthFillComplete n k s = .next (s.fillDone n k) := by
  simp [execBerthFillComplete, hu, hf, hw, hy, State.within?_of_afforded ha]

/-- A fill waits for its berth, for a flash channel, or for its bytes. -/
theorem execBerthFillComplete_waits (h : u.filling = none ∨ s.fillWaits u = true ∨ s.fillYields u = true ∨
    s.afforded (s.fillDone n k) n = false) : execBerthFillComplete n k s = .next s := by
  rcases h with h | h | h | h
  · simp [execBerthFillComplete, hu, h]
  · simp [execBerthFillComplete, hu, h]
  · simp [execBerthFillComplete, hu, h]
  · simp [execBerthFillComplete, hu, State.within?_of_spent h]

theorem execBerthDrain_next {b : Nat} (hb : b < u.berths) (hw : s.berthWord u.cmd.task u.ring b = some w)
    (h4 : berthState w = 4) (hp : u.pull = false) :
    execBerthDrain n k b s = .next (s.berthMove u.cmd.task u.ring b 4 (withState 0)) := by
  simp [execBerthDrain, hu, hb, State.isDraining, hw, h4, hp]

end Berths

/-! ### Completion (R210, R348, R412, R437) -/

/-- A command that performs packets; `o`: in an open order. -/
def Cmd.Performs (c : Cmd) (o : Bool) : Prop :=
  (o = false ∧ ((∃ hd a d len, c.instr = .tcopy hd a d len) ∨ (∃ hd d len v, c.instr = .tfill hd d len v) ∨
    (∃ hd a b d len, c.instr = .tgather hd a b d len) ∨ (∃ hd sh d a b ty, c.instr = .accst hd sh d a b ty))) ∨
  (o = true ∧ ∃ hd a b d len, c.instr = .tscatter hd a b d len)

section Completion
variable {q : EngQ} {c m : Cmd} {l : List Cmd} (hq : (s.core n k).queue q = c :: l)
include hq

/-- A QFENCE completes once nothing that it awaits is left. -/
theorem execEngineCommandComplete_fence (hf : c.isFence = true) (hp : s.pendingAmong c.preds = false)
    (ha : s.pendingAmong (c.awaits.filter (· ≠ c.id)) = false) :
    execEngineCommandComplete n k q s = .next (({ s with cur := ⟨n, k, s.cur.thread⟩ } : State).finishCmd c 0) := by
  simp only [execEngineCommandComplete, State.core_cur, State.pendingAmong_cur, hq, hf, hp, ha, Bool.or_self,
    Bool.false_eq_true, if_true, if_false, event_some]

variable {s1 : State} (h1 : ({ s with cur := ⟨n, k, s.cur.thread⟩ } : State).flush (Pkt.engineOf c.id) = s1)
  (hf : c.isFence = false) (hs : c.started = true) (hh : s.engineHeld n c = false) (hb : s.berthsTaken c = true)
include h1 hf hs hh hb

/-- A command of packets performs what is left of them, where the byte budget has room for all of that. -/
theorem execEngineCommandComplete_packets {o : Bool} (hc : c.Performs o) {s2 : State}
    (h2 : s1.doPackets n k c.id o c.packets = s2) : execEngineCommandComplete n k q s = event s (
      if (s1.cluster (clusterOf n)).granted ≠ (s2.cluster (clusterOf n)).granted ∧ !(s2.cluster (clusterOf n)).fits 0 then none
      else (s2.findCmd n k c.id).map fun m => s2.finishCmd m m.detail) := by
  simp only [execEngineCommandComplete, State.core_cur, State.engineHeld_cur, State.berthsTaken_cur, hq, h1, hf, hs, hh, hb,
    Bool.not_true, Bool.or_self, Bool.false_eq_true, if_false]
  rcases hc with ⟨rfl, ⟨_, _, _, _, h⟩ | ⟨_, _, _, _, h⟩ | ⟨_, _, _, _, _, h⟩ | ⟨_, _, _, _, _, _, h⟩⟩ |
    ⟨rfl, _, _, _, _, _, h⟩ <;> simp only [h, h2]

section Packets
variable {o : Bool} (hc : c.Performs o) {s2 : State} (h2 : s1.doPackets n k c.id o c.packets = s2)
include hc h2

theorem execEngineCommandComplete_performed {m : Cmd} (hm : s2.findCmd n k c.id = some m)
    (h : (s2.cluster (clusterOf n)).granted = (s1.cluster (clusterOf n)).granted ∨ (s2.cluster (clusterOf n)).fits 0 = true) :
    execEngineCommandComplete n k q s = .next (s2.finishCmd m m.detail) := by
  have hroom : ¬ ((s1.cluster (clusterOf n)).granted ≠ (s2.cluster (clusterOf n)).granted ∧
      (!(s2.cluster (clusterOf n)).fits 0) = true) := by
    rcases h with h | h <;> simp [h]
  rw [execEngineCommandComplete_packets hq h1 hf hs hh hb hc h2, if_neg hroom, hm, Option.map_some, event_some]

theorem execEngineCommandComplete_spent
    (hg : (s2.cluster (clusterOf n)).granted ≠ (s1.cluster (clusterOf n)).granted)
    (h : (s2.cluster (clusterOf n)).fits 0 = false) : execEngineCommandComplete n k q s = .next s := by
  rw [execEngineCommandComplete_packets hq h1 hf hs hh hb hc h2, if_pos ⟨hg.symm, by rw [h]; rfl⟩, event_none]

end Packets

theorem execEngineCommandComplete_table {hd : CmdHead} {slot : BitVec 2} {a : Opnd} (h : c.instr = .tabld hd slot a) :
    execEngineCommandComplete n k q s = .next ((s1.modCore n k fun x =>
      { x with slots := x.slots.setIfInBounds slot.toNat c.table }).finishCmd c 0) := by
  simp only [execEngineCommandComplete, State.core_cur, State.engineHeld_cur, State.berthsTaken_cur, hq, h1, hf, hs, hh, hb, h,
    Bool.not_true, Bool.or_self, Bool.false_eq_true, if_false, event_some]

theorem execEngineCommandComplete_zeroes {hd : CmdHead} {sh : Shape} (h : c.instr = .accz hd sh) (hc : c.detail ≠ 2) :
    execEngineCommandComplete n k q s = .next (((s1.modCore n k fun x =>
      x.writeAcc (s1.accWrites n k c s1.draws).1).leaveBerths n k c).finishCmd c (s1.accWrites n k c s1.draws).2) := by
  simp only [execEngineCommandComplete, State.core_cur, State.engineHeld_cur, State.berthsTaken_cur, hq, h1, hf, hs, hh, hb, h,
    hc, Bool.not_true, Bool.or_self, Bool.false_eq_true, if_false, event_some]

theorem execEngineCommandComplete_over {hd : CmdHead} {a d : Opnd} {len : GReg} {pull : Bool}
    (h : c.instr = .tsub hd a d len pull) {u : Sub} (hu : (s1.core n k).sub = some u) (hid : u.cmd.id = c.id)
    (ho : s1.subOver u = true) : execEngineCommandComplete n k q s = .next (s1.endSub n k) := by
  simp only [execEngineCommandComplete, State.core_cur, State.engineHeld_cur, State.berthsTaken_cur, hq, h1, hf, hs, hh, hb, h,
    hu, hid, ho, Bool.not_true, Bool.or_self, Bool.false_eq_true, and_self, if_true, if_false, event_some]

end Completion

/-- Settles O52, event by event: each is enabled by its hypotheses, and answers the state that its lemma gives. -/
theorem engineEvents : Obligations.EngineEvents := by
  intro s n k b d v g r q c m l u w y
  refine ⟨fun hq hidle hk hc => ?_, fun j p => execTxchgMessageArrival_next, fun hu =>
      ⟨fun hf he ht hb hs hw h0 hc => execBerthFillStart_next (State.fillDue_of_empty hu hf he ht hb hs hw h0 hc),
        execBerthFillComplete_next hu, execBerthFillComplete_waits hu, execBerthDrain_next hu⟩,
    fun hq => ⟨execEngineCommandComplete_fence hq, fun hf hs hh hb =>
      ⟨fun o hc hm => ⟨execEngineCommandComplete_performed hq rfl hf hs hh hb hc rfl hm,
          execEngineCommandComplete_spent hq rfl hf hs hh hb hc rfl⟩,
        fun hd slot a => execEngineCommandComplete_table hq rfl hf hs hh hb,
        fun hd sh => execEngineCommandComplete_zeroes hq rfl hf hs hh hb,
        fun hd a d len pull h => execEngineCommandComplete_over hq rfl hf hs hh hb h⟩⟩⟩
  have hstart := execEngineCommandStart_next hq hidle hk hc
  exact ⟨fun ha => hstart.trans (by rw [State.within?_of_afforded ha, event_some]),
    fun ha => hstart.trans (by rw [State.within?_of_spent ha, event_none])⟩

end Sys2Proof.Machine
end

section
/-! Reclamation points (R131, R135): where a doomed task whose flag has reached its core stops. -/

namespace Sys2Proof.Machine

/-! ### Which instructions are reclamation points -/

theorem Instr.isPoint_of_stops {i : Instr} (h : Instr.stops i = true) : Instr.isPoint i = true := by
  simp [Instr.isPoint, h]

/-- Every tile command is one. -/
theorem Instr.isPoint_of_isCommand {i : Instr} (h : i.isCommand = true) : Instr.isPoint i = true := by
  refine Instr.isPoint_of_stops ?_
  cases i
  case spawn | spawnPass | gang | fork | qenq | mwait | evwait | fwait | gbar | qpop | qpush | qbind | sleep | yield | rpoint
      | fdone | exit => rfl
  all_goals exact h

/-- Every instruction of which a field names a queue port is one. -/
theorem Instr.isPoint_of_port {i : Instr} {r : GReg} (hr : r ∈ i.sources ++ i.dests) (hp : r.isPort = true) :
    Instr.isPoint i = true := by
  simp only [Instr.isPoint, Bool.or_eq_true, List.any_eq_true]
  rcases List.mem_append.1 hr with hr | hr
  · exact .inl (.inr ⟨r, hr, hp⟩)
  · exact .inr ⟨r, hr, hp⟩

/-! ### How they run -/

/-- Before an instruction has any effect a doomed task stops at it. -/
theorem run_point {i : Instr} {body : Nat → Task → List Word → Act Done} {s : State} {id : Nat} {t : Task}
    (h : s.runs id t) (hd : t.delivered = true) (hp : Instr.isPoint i = true) :
    run i body s = .next (s.stopHere id s.cur) := by
  simp only [run, h.1, runAs, hd, hp, Bool.and_self, if_true]

/-- A reclamation point is an instruction of a thread, which `run` runs: an event of the module has no field that could name
a port. -/
theorem exec_run_of_isPoint {i : Instr} (hp : Instr.isPoint i = true) (hv : ∀ n a e, i ≠ .vrep n a e) :
    ∃ body, exec i = run i body := by
  cases i
  case vrep n a e => exact absurd rfl (hv n a e)
  case dispatch | workSteal | timeSliceExpiry | preemption | saveTransferComplete | aging | dispatchCountHalving
      | storeBufferDrain | vectorLaneBind | vectorRetire | laneCountHalving | engineCommandStart | engineCommandComplete
      | gangPlacement | doomedFlagDelivery | reclaim | barrierFire | xputLanding | censusSample | censusEpoch | notice
      | tideDrain | tideDrainEnd | roleMoveComplete | forward | tileFailingMark | tileFailure | injectionStarvation
      | berthFillStart | berthFillComplete | berthDrain | heldPushAccept | remoteEnqueueArrival | enqueueReply | eventArrival
      | txchgMessageArrival | faultRecordDeferred | idleCollapse | collapseComplete | wake | wakeComplete | waketime
      | waketimeExpiry | idlectl | sleepExpiry | powerInterval | currentSample | budget | pctl | dieCtl | throttle | teleper
      | sensorRecalibration | semClaim | semFree | hostLinkDown | create | destroy | hostRegionWrite | cxlMemAccess
      | peerLinkTimeout | pseudoChannelRetirement | boot | liveUpdate | peerAccessArrival | hdmDecoderCommit
      | noticeRecordDeferred | apertureTableWrite | freeze | unfreeze | getVersion | getCapabilities | negotiateAlgorithms
      | getDigests | getCertificate | getMeasurements | commandDone => exact Bool.noConfusion hp
  all_goals exact ⟨_, rfl⟩

/-- A doomed task stops at every reclamation point: at a VREP before its issue. -/
theorem exec_point {i : Instr} {s : State} {id : Nat} {t : Task} (h : s.runs id t) (hd : t.delivered = true)
    (hv : ∀ n a e, i = .vrep n a e → t.ctx.running = none) (hp : Instr.isPoint i = true) :
    exec i s = .next (s.stopHere id s.cur) := by
  by_cases hi : ∃ n a e, i = .vrep n a e
  · obtain ⟨n, a, e, rfl⟩ := hi
    obtain ⟨body, hexec, -⟩ := exec_vrep_issue (n := n) (a := a) (st := e) h (hv n a e rfl) 0
    rw [hexec]
    exact run_point h hd hp
  · obtain ⟨body, hexec⟩ := exec_run_of_isPoint hp fun n a e he => hi ⟨n, a, e, he⟩
    rw [hexec]
    exact run_point h hd hp

/-- Settles O13: each of the forms is a reclamation point. -/
theorem doomedStops : Obligations.DoomedStops := by
  intro s id t i h hd hv hi
  have hp : Instr.isPoint i = true := by
    by_cases hc : i.isCommand = true
    · exact Instr.isPoint_of_isCommand hc
    by_cases hq : ∃ r ∈ i.sources ++ i.dests, r.isPort = true
    · obtain ⟨r, hr, hport⟩ := hq
      exact Instr.isPoint_of_port hr hport
    simp only [hc, hq, Bool.false_eq_true, or_false] at hi
    rcases hi with rfl | rfl | ⟨a, rfl⟩ | ⟨a, rfl⟩ | ⟨a, rfl⟩ | ⟨h, a, b, rfl⟩ | ⟨h, a, b, rfl⟩ | ⟨h, a, b, p, rfl⟩ | ⟨h, a, rfl⟩ |
      ⟨h, a, b, rfl⟩ | ⟨h, a, b, rfl⟩ | ⟨a, b, rfl⟩ | ⟨a, b, rfl⟩ | ⟨a, b, rfl⟩ | ⟨p, a, rfl⟩ | ⟨d, a, rfl⟩ | ⟨d, a, b, w, c, rfl⟩
    all_goals rfl
  rw [exec_point h hd hv hp, State.stopHere, State.modTask_of h.2]

end Sys2Proof.Machine
end

section
/-! Why SELF need not do what the record of its task says (O38, O39): a handle holds 24 bits of a record's number (R118), and
nothing in the statements says that the number of the task's record fits them. -/

namespace Sys2Proof.Machine

/-! ### A record whose number no handle holds -/

/-- A task whose future is record 2^24, one past the last that a handle can name: its handle names record 0. -/
def taskPastHandles : Task := { vd := 0, ident := .ordinary (2 ^ 24), status := .running ⟨0, 0, 0⟩ }

/-- It is on the thread whose turn it is; its device has a handler at 0x1000, and the reach count of record `n` is full. -/
def stateOfFullRecord (n : Nat) : State :=
  { tasks := [(0, taskPastHandles)], vds := [(0, { tvec := 0x1000, futs := [(n, { reach := 2 ^ 24 - 1 })] })],
    cur := ⟨0, 0, 0⟩ }

theorem stateOfFullRecord_issues (n : Nat) (h : HReg) : (stateOfFullRecord n).issues (.self h) 0 taskPastHandles :=
  ⟨⟨rfl, rfl⟩, ⟨nofun, nofun⟩, fun _ hr => absurd hr List.not_mem_nil, rfl, rfl, rfl⟩

/-- SELF looks for room in the record that its handle names: with record 0 full it traps, with the task's own full it goes
on. -/
theorem exec_self_pc : pcAfter (exec (.self 1) (stateOfFullRecord 0)) = some 0x1000 ∧
    pcAfter (exec (.self 1) (stateOfFullRecord (2 ^ 24))) = some 4 := by decide +kernel

/-! ### The statements -/

/-- What O38 has with record 0 full: a reference to the task's own future, which has none yet. -/
theorem referenced_pc : pcAfter (.next (let s := stateOfFullRecord 0
    ((s.raise 0 (2 ^ 24)).putH 0 1 (handleOf (s.fut 0 (2 ^ 24)) (2 ^ 24))).wrote 0 (.self 1) fun c => c)) = some 4 := by
  decide +kernel

/-- Refutes O38: the clause of SELF asks for room in the task's own record, number 2^24 here, and the model traps because
record 0, which the handle names, has none. -/
theorem not_handleResults : ¬ Obligations.HandleResults := by
  intro h
  obtain ⟨-, -, -, -, -, -, -, -, -, -, hself, -⟩ :=
    h (stateOfFullRecord 0) {} {} 0 taskPastHandles 1 1 1 1 (.window 0 0 false) 0 0 []
  have hpc := congrArg pcAfter (hself (stateOfFullRecord_issues 0 1) (by decide +kernel))
  exact absurd (exec_self_pc.1.symm.trans (hpc.trans referenced_pc)) (by decide)

/-- What O39 has with the task's own record full: a trap. -/
theorem trapped_pc : pcAfter (.next (let s := stateOfFullRecord (2 ^ 24)
    s.takeTrap 0 0xB (handleOf (s.fut 0 (2 ^ 24)) (2 ^ 24)) 0)) = some 0x1000 := by decide +kernel

/-- Refutes O39: the clause of SELF has a trap where the task's own record, number 2^24 here, is full, and the model goes on
because record 0, which the handle names, has room. -/
theorem not_handleStops : ¬ Obligations.HandleStops := by
  intro h
  obtain ⟨-, -, -, hself, -⟩ := h (stateOfFullRecord (2 ^ 24)) {} 0 0 taskPastHandles 1 1 1 1 (.self 1) (.window 0 0 false) 0
    { entry := 0, scratch := 0, prio := 0, extents := [] } (stateOfFullRecord_issues (2 ^ 24) 1)
  have hpc := congrArg pcAfter (hself rfl (by decide +kernel))
  exact absurd (exec_self_pc.2.symm.trans (hpc.trans trapped_pc)) (by decide)

end Sys2Proof.Machine
end

section
/-! The role instructions (R145, R148, R153, R157, R391, R418, R420, R450). -/

namespace Sys2Proof.Machine

/-! ### The logical tile that an instruction names -/

section Named
variable {s : State} {id : Nat} {t : Task} {a b : GReg} {x : Word}

theorem tileArg_ok (h : x.toNat ≤ 4095) : tileArg x s = .ok (x.toNat, s) := by
  simp [tileArg, Nat.not_lt.2 h]

theorem tileArg_trap (h : 4095 < x.toNat) : tileArg x s = .error (.trap 1 x 0) := by
  simp [tileArg, h]

/-- A number above 4,095 traps. -/
theorem exec_roleTrap {i : Instr} (hi : i = .lease a b ∨ i = .unlease a ∨ i = .rack a ∨ i = .rlook b a)
    (h : s.issues i id t) (hx : 4095 < (t.ctx.src a).toNat) :
    exec i s = .next (s.takeTrap id 1 (t.ctx.src a) 0) := by
  rcases hi with rfl | rfl | rfl | rfl
  · exact run_trap h (by simp [Instr.sources, tileArg_trap hx])
  · exact run_trap h (by simp [Instr.sources, tileArg_trap hx])
  · exact run_trap h (by simp [Instr.sources, tileArg_trap hx])
  · exact run_trap h (by simp [Instr.sources, tileArg_trap hx])

end Named

/-! ### LEASE (R148, R157) -/

/-- Does a lease that begins in a cycle withdraw the notice of an entry: one that is no retirement, before its effective
tide? -/
def Entry.Withdraws (e : Entry) (cycles : Nat) : Prop :=
  e.state = 1 ∧ ∃ n, e.notice = some n ∧ n.kind ≠ 3 ∧ cycles < n.tide

section Lease
variable {s : State} {id : Nat} {t : Task} {a b : GReg} (h : s.issues (.lease a b) id t)
  (hlid : (t.ctx.src a).toNat ≤ 4095)
include h hlid

theorem execLease_badCount (hk : t.ctx.src b = 0 ∨ 255 < (t.ctx.src b).toNat) :
    execLease a b s = .next (s.takeTrap id 1 (t.ctx.src b) 0) := by
  refine run_trap h ?_
  simp only [Instr.sources, List.map_cons, List.map_nil, List.getD_cons_zero, List.getD_cons_succ, act_bind, tileArg_ok hlid,
    if_pos hk, act_trap]

variable (hk : ¬ (t.ctx.src b = 0 ∨ 255 < (t.ctx.src b).toNat)) {d : Vd} (hd : s.vd t.vd = d) {e : Entry}
  (he : d.entry (t.ctx.src a).toNat = e)
include hk hd he

/-- An entry of no role, or above half of those that the device holds, is not leased. -/
theorem execLease_refused (hr : (e.role = 0 ∨ e.state = 3) ∨ (e.lease = 0 ∧ d.heldEntries / 2 < d.leasedEntries + 1)) :
    execLease a b s = .next (s.takeTrap id 0x12 (t.ctx.src a) 0) := by
  refine run_trap h ?_
  by_cases hrole : e.role = 0 ∨ e.state = 3
  · simp only [Instr.sources, List.map_cons, List.map_nil, List.getD_cons_zero, List.getD_cons_succ, act_bind, act_get,
      tileArg_ok hlid, if_neg hk, hd, he, if_pos hrole, act_trap]
  · simp only [Instr.sources, List.map_cons, List.map_nil, List.getD_cons_zero, List.getD_cons_succ, act_bind, act_get,
      tileArg_ok hlid, if_neg hk, hd, he, if_neg hrole, if_pos (hr.resolve_left hrole), act_trap]

/-- A lease is set, and a notice that it withdraws is withdrawn. -/
theorem execLease_leased (hrole : ¬ (e.role = 0 ∨ e.state = 3))
    (hhalf : ¬ (e.lease = 0 ∧ d.heldEntries / 2 < d.leasedEntries + 1)) {s1 : State}
    (hs1 : (s.modEntry t.vd (t.ctx.src a).toNat fun e => { e with lease := (t.ctx.src b).toNat, owner := some id }) = s1) :
    (e.Withdraws s.cycles → execLease a b s =
      .next ((s1.withdraw t.vd (t.ctx.src a).toNat 1).wrote id (.lease a b) fun c => c)) ∧
    (¬ e.Withdraws s.cycles → execLease a b s = .next (s1.wrote id (.lease a b) fun c => c)) := by
  have hcycles : s1.cycles = s.cycles := by rw [← hs1]; exact State.modVd_cycles ..
  refine ⟨fun hw => run_wrote_noDests h rfl ?_, fun hw => run_wrote_noDests h rfl ?_⟩
  all_goals
    simp only [Instr.sources, List.map_cons, List.map_nil, List.getD_cons_zero, List.getD_cons_succ, act_bind, act_get,
      act_modify, tileArg_ok hlid, if_neg hk, hd, he, if_neg hrole, if_neg hhalf, hs1, hcycles]
  · obtain ⟨hst, n, hn, hkind, htide⟩ := hw
    have hgoes : e.state = 1 ∧ (n.kind ≠ 3 && s.cycles < n.tide) = true := by simp [hst, hkind, htide]
    simp only [hn, if_pos hgoes, act_bind, act_modify, act_pure]
  · cases hn : e.notice with
    | none => simp only [Bool.false_eq_true, and_false, if_false, act_pure]
    | some n =>
      have hstays : ¬ (e.state = 1 ∧ (n.kind ≠ 3 && s.cycles < n.tide) = true) := by
        simpa [Entry.Withdraws, hn] using hw
      simp only [if_neg hstays, act_pure]

end Lease

/-! ### UNLEASE, RACK, RLOOK (R391, R418, R420, R450) -/

section Others
variable {s : State} {id : Nat} {t : Task} {a b : GReg}

theorem execUnlease_next (h : s.issues (.unlease a) id t) {lid : Nat} (hx : (t.ctx.src a).toNat = lid) (hlid : lid ≤ 4095) :
    execUnlease a s = .next ((if (s.entry t.vd lid).lease = 0 then s
      else s.modEntry t.vd lid fun e => { e with lease := 0, owner := none }).wrote id (.unlease a) fun c => c) := by
  subst hx
  refine run_wrote_noDests h rfl ?_
  by_cases hl : (s.entry t.vd (t.ctx.src a).toNat).lease = 0 <;> simp [Instr.sources, tileArg_ok hlid, hl]

theorem execRack_acked (h : s.issues (.rack a) id t) {lid : Nat} (hx : (t.ctx.src a).toNat = lid) (hlid : lid ≤ 4095)
    {n : Notice} (hn : (s.entry t.vd lid).notice = some n) (hst : (s.entry t.vd lid).state = 1) :
    execRack a s = .next ((s.modEntry t.vd lid fun e =>
      { e with notice := some { n with acked := true, tide := min n.tide (tideAfter s.cycles) } }).wrote id (.rack a)
        fun c => c) := by
  subst hx
  exact run_wrote_noDests h rfl (by simp [Instr.sources, tileArg_ok hlid, hn, hst])

/-- Where no notice is pending RACK does nothing. -/
theorem execRack_none (h : s.issues (.rack a) id t) {lid : Nat} (hx : (t.ctx.src a).toNat = lid) (hlid : lid ≤ 4095)
    (hn : (s.entry t.vd lid).notice = none ∨ (s.entry t.vd lid).state ≠ 1) :
    execRack a s = .next (s.wrote id (.rack a) fun c => c) := by
  subst hx
  refine run_wrote_noDests h rfl ?_
  cases he : (s.entry t.vd (t.ctx.src a).toNat).notice with
  | none => simp [Instr.sources, tileArg_ok hlid, he]
  | some n => simp [Instr.sources, tileArg_ok hlid, he, hn.resolve_left (by simp [he])]

theorem execRlook_next (h : s.issues (.rlook b a) id t) (hb : b.isPort = false) {lid : Nat} (hx : (t.ctx.src a).toNat = lid)
    (hlid : lid ≤ 4095) :
    execRlook b a s = .next (s.wrote id (.rlook b a) fun c => c.setG b (s.entry t.vd lid).word) := by
  subst hx
  exact run_wrote (v := [(s.entry t.vd (t.ctx.src a).toNat).word]) h (by simp [Instr.sources, tileArg_ok hlid])
    (by simpa [Instr.dests] using hb)

end Others

theorem lease_count_ok {k : Word} (h1 : 1 ≤ k.toNat) (h2 : k.toNat ≤ 255) : ¬ (k = 0 ∨ 255 < k.toNat) := by
  rintro (rfl | h)
  · exact absurd h1 (by decide)
  · omega

/-- Settles O43, instruction by instruction. -/
theorem roleResults : Obligations.RoleResults := by
  intro s id t a b x lid k v e
  refine ⟨fun i => exec_roleTrap, fun hlid => ⟨fun h => execLease_badCount h hlid,
    fun h h1 h2 hrole hst hhalf => ?_, fun h h1 h2 hr => ?_, fun h => execUnlease_next h rfl hlid,
    fun h => ⟨fun n => execRack_acked h rfl hlid, execRack_none h rfl hlid⟩, fun h hb => execRlook_next h hb rfl hlid⟩⟩
  · obtain ⟨hgoes, hstays⟩ := execLease_leased (d := v) (e := e) h hlid (lease_count_ok h1 h2) rfl rfl
      (not_or.2 ⟨hrole, hst⟩) (by omega) rfl
    refine ⟨fun hn => hstays ?_, fun hst hn => hgoes ⟨hst, hn⟩⟩
    rintro ⟨h1, n, hn1, hkind, htide⟩
    rcases hn with hn | hn | ⟨m, hm, hn⟩
    · exact hn h1
    · simp [hn] at hn1
    · obtain rfl : n = m := by simpa [hn1] using hm
      omega
  · exact execLease_refused h hlid (lease_count_ok h1 h2) rfl rfl (or_assoc.2 hr)

end Sys2Proof.Machine
end

section
/-! What reaches its home: barriers, events, exchanges, enqueues, what an old home sends on, held pushes, deferred fault records
(R162, R183, R184, R234, R259, R308, R329, R332, R365, R407, R411). -/

namespace Sys2Proof.Machine

theorem execBarrierFire_fired {s : State} {vd gr : Nat} (h : s.canFire vd gr = true) :
    execBarrierFire vd gr s = .next (s.fire vd gr) := by
  rw [execBarrierFire, if_pos h, event_some]

/-! ### Wake writes of an ACTIVE device (R305, R308) -/

/-- The idle count of a device begins anew. -/
def State.restartIdle (s : State) (vd : Nat) : State := s.modVd vd fun v => { v with idleSince := none }

theorem State.wakeEvent_active {s : State} {vd : Nat} (h : (s.vd vd).pwr = 0) : s.wakeEvent vd = s.restartIdle vd := by
  rw [State.wakeEvent, if_pos h, State.restartIdle]

theorem State.holdFor_active {s : State} {vd : Nat} (h : (s.vd vd).pwr = 0) (x : HeldItem) :
    s.holdFor vd x = .inr (s.restartIdle vd) := by
  rw [State.holdFor, if_pos h, State.wakeEvent_active h]

/-! ### Packets at their destination stops -/

/-- The k-th packet is taken from the network. -/
def State.without (s : State) (k : Nat) : State := { s with packets := s.packets.eraseIdx k }

section Packets
variable {s : State} {k : Nat} {p : Pkt}

theorem State.arrived_of_mayReceive (h : s.mayReceive k p = true) : p.loc = .arrived := by
  simp only [State.mayReceive, Bool.and_eq_true, beq_iff_eq] at h
  exact h.1.1

/-- A packet that has come to its stop is destined to it, whatever else has changed. -/
theorem State.dstOf_arrived (h : p.loc = .arrived) (u : State) : u.dstOf p = p.hdr.dst := by
  rw [State.dstOf, h, if_neg (by decide)]

theorem State.messageHere_event {vd id : Nat} {mask : Word32} (hl : p.loc = .arrived) (hb : p.body = .event vd id mask)
    (hw : (s.vd vd).pwr = 0) : s.messageHere p =
      (if mask.getLsbD 31 then s else s.restartIdle vd).eventHere vd p.hdr.dst mask := by
  simp only [State.messageHere, hb, State.dstOf_arrived hl, State.holdFor_active hw]
  split <;> rfl

theorem State.messageHere_enqueue {vd f id n : Nat} {mo : BitVec 16} {h : Word32} {x : Word}
    (hb : p.body = .enqueue vd f id mo h x n) (hw : (s.vd vd).pwr = 0) :
    s.messageHere p = (s.restartIdle vd).enqueue vd h x f := by
  simp only [State.messageHere, hb, State.holdFor_active hw]

/-- An enqueue to this module reaches its queue, of a device that is ACTIVE. -/
theorem State.takeEnqueue_here {vd f id n : Nat} {mo : BitVec 16} {h : Word32} {x : Word}
    (hb : p.body = .enqueue vd f id mo h x n) (hm : mo = s.moduleId) (hw : (s.vd vd).pwr = 0) (d : Bool) :
    s.takeEnqueue k p d = some (((s.without k).restartIdle vd).enqueue vd h x f) := by
  rw [← State.messageHere_enqueue (s := s.without k) hb hw]
  simp only [State.takeEnqueue, hb, if_pos hm, State.without]

theorem State.takeEnqueue_away {vd f id n : Nat} {mo : BitVec 16} {h : Word32} {x : Word}
    (hb : p.body = .enqueue vd f id mo h x n) (hm : mo ≠ s.moduleId) (d : Bool) :
    s.takeEnqueue k p d = some ((s.without k).answerEnqueue p.hdr.dst vd f h !d) := by
  simp only [State.takeEnqueue, hb, if_neg hm, State.without]

variable (hp : s.packets[k]? = some p) (hr : s.mayReceive k p = true)
include hp hr

/-- EVENT_ARRIVAL of an event before which none of its task goes to the same unit. -/
theorem execEventArrival_next {vd id : Nat} {mask : Word32} (hb : p.body = .event vd id mask) (hw : (s.vd vd).pwr = 0)
    (hfirst : ∀ y ∈ s.packets.take k, ∀ m, y.body = .event vd id m → clusterOf (s.dstOf y) ≠ clusterOf p.hdr.dst) :
    execEventArrival k s =
      .next ((if mask.getLsbD 31 then s.without k else (s.without k).restartIdle vd).eventHere vd p.hdr.dst mask) := by
  rw [← State.messageHere_event (s := s.without k) (State.arrived_of_mayReceive hr) hb hw]
  simp only [execEventArrival, hp, hb, hr, Bool.not_true, Bool.false_eq_true, or_false]
  rw [if_neg, event_some, State.without]
  intro hany
  obtain ⟨y, hy, hm⟩ := List.any_eq_true.1 hany
  split at hm
  · next v u m hyb =>
    simp only [Bool.and_eq_true, decide_eq_true_eq] at hm
    obtain ⟨⟨rfl, rfl⟩, hc⟩ := hm
    exact hfirst y hy m hyb hc
  · cases hm

section Home
variable (ha : s.astray p = false)
include ha

theorem execXputLanding_next {n vd id lid off : Nat} {x : Word} (hb : p.body = .xput n vd id lid off x)
    (hf : p.forwards = false)
    (hfirst : (s.packets.zipIdx.any fun q => (decide (q.2 < k) || q.1.forwards) && q.1.sameIssuer p) = false) :
    execXputLanding k s = .next (((s.without k).land vd id lid off x).answer p 0x03 0) := by
  simp only [execXputLanding, hp, hb, hfirst, hf, ha, hr, Bool.not_true, Bool.false_eq_true, or_self, if_false, event_some,
    State.without]

theorem execEnqueueReply_next {vd f id n : Nat} {mo : BitVec 16} {h : Word32} {x : Word}
    (hb : p.body = .enqueue vd f id mo h x n) (hf : p.forwards = false) (hfirst : s.enqueueBefore k vd id mo h = false)
    (d : Bool) : execEnqueueReply k d s = event s (s.takeEnqueue k p d) := by
  simp only [execEnqueueReply, hp, hb, hfirst, hf, ha, hr, Bool.not_true, Bool.false_eq_true, or_self, if_false]

/-! ### What an old home has sent on (R162) -/

section Forward
variable (hf : p.forwards = true)
  (hfirst : ((s.packets.take k).any fun q => q.forwards && q.homed == p.homed) = false)
include hf hfirst

/-- FORWARD of a packet that writes applies it. -/
theorem execForward_writes (hb : p.writes = true) :
    execForward k s = .next (((s.without k).deliver p).answer p 0x03 0) := by
  simp only [execForward, hp, hf, ha, hr, hfirst, Bool.not_true, Bool.or_self, Bool.false_eq_true, if_false]
  unfold Pkt.writes at hb
  split at hb
  · next hbody => simp only [hbody, event_some, State.without]
  · next hbody => simp only [hbody, event_some, State.without]
  · next hbody => simp only [hbody, event_some, State.without]
  · cases hb

theorem execForward_request {kind len : Nat} {y : Word} {l : List Word} (hb : p.body = .request kind len y l) :
    execForward k s = .next ((s.without k).answer p kind len y) := by
  simp only [execForward, hp, hf, ha, hr, hfirst, Bool.not_true, Bool.or_self, Bool.false_eq_true, if_false, hb, event_some,
    State.without]

theorem execForward_enqueue {vd f id n : Nat} {mo : BitVec 16} {h : Word32} {x : Word}
    (hb : p.body = .enqueue vd f id mo h x n) : execForward k s = event s (s.takeEnqueue k p true) := by
  simp only [execForward, hp, hf, ha, hr, hfirst, Bool.not_true, Bool.or_self, Bool.false_eq_true, if_false, hb]

end Forward

end Home

omit hr in
/-- What stands at an old home that its logical tile has left is neither landed nor applied there. -/
theorem exec_astray (ha : s.astray p = true) : execXputLanding k s = .next s ∧ execForward k s = .next s := by
  refine ⟨?_, by simp only [execForward, hp, ha, Bool.or_true, Bool.true_or, if_true, event_none]⟩
  simp only [execXputLanding, hp, ha, true_or, or_true, if_true]
  split <;> rfl

end Packets

/-! ### Held pushes (R329, R407) -/

section Held
variable {s : State} {vd lid slot : Nat} {q : Queue} {x : Word} {who : Pusher} {rest : List (Word × Pusher)} {h : Word32}
  (hq : look (s.vd vd).queues (lid, slot) = some q) (hheld : q.held = (x, who) :: rest) (hw : (s.vd vd).pwr = 0)
  (hd : (s.vd vd).destroying = false)
  (hh : BitVec.ofNat 32 (lid * 2 ^ 20 + slot * 2 ^ 12 + ((s.vd vd).slotGen lid slot).toNat) = h)
include hq hheld hw hd hh

theorem execHeldPushAccept_entered (hp : s.firstPopper q = none) (hr : s.hasRoom vd h q = true) :
    execHeldPushAccept vd lid slot s = .next (((s.restartIdle vd).setQueue vd h
      { q with held := rest, entries := q.entries ++ [x] }).acceptedFor vd h who) := by
  simp [-Nat.reducePow, execHeldPushAccept, hq, hheld, hw, hd, hh, hp, hr, State.wakeEvent_active hw]

theorem execHeldPushAccept_handed {u : Nat} (hp : s.firstPopper q = some u) :
    execHeldPushAccept vd lid slot s = .next ((((s.restartIdle vd).setQueue vd h
      { q with held := rest, poppers := q.poppers.filter (· ≠ u) }).hand u x).acceptedFor vd h who) := by
  simp [-Nat.reducePow, execHeldPushAccept, hq, hheld, hw, hd, hh, hp, State.wakeEvent_active hw]

theorem execHeldPushAccept_full (hp : s.firstPopper q = none) (hr : s.hasRoom vd h q = false) :
    execHeldPushAccept vd lid slot s = .next s := by
  simp [-Nat.reducePow, execHeldPushAccept, hq, hheld, hw, hd, hh, hp, hr]

end Held

/-- To a device that is being destroyed no push is made. -/
theorem execHeldPushAccept_destroying {s : State} {vd : Nat} (lid slot : Nat) (hd : (s.vd vd).destroying = true) :
    execHeldPushAccept vd lid slot s = .next s := by
  simp only [execHeldPushAccept, hd, or_true, if_true]
  split
  · rfl
  · split <;> rfl

/-! ### Enqueues of peers (R332) -/

section Remote
variable {s : State} {src : BitVec 16} {vd : Nat} {h : Word32} {x : Word} (hv : (look s.vds vd).isSome = true)
  (hd : (s.vd vd).destroying = false) (hw : (s.vd vd).pwr = 0) (hh : s.queueHeld vd h = false)
include hv hd hw hh

theorem execRemoteEnqueueArrival_refused (hq : (s.restartIdle vd).queue? vd h = none) :
    execRemoteEnqueueArrival src vd h x s = .next { s.restartIdle vd with response := [1] } := by
  simp [execRemoteEnqueueArrival, ← Option.not_isSome, hv, hd, hw, hh, State.holdFor_active hw, hq]

theorem execRemoteEnqueueArrival_pushed {q : Queue} (hq : (s.restartIdle vd).queue? vd h = some q) :
    execRemoteEnqueueArrival src vd h x s = .next { ((s.restartIdle vd).push vd h q x (.peer src)).1 with
      response := if ((s.restartIdle vd).push vd h q x (.peer src)).2 then [] else [0] } := by
  simp [execRemoteEnqueueArrival, ← Option.not_isSome, hv, hd, hw, hh, State.holdFor_active hw, hq]

end Remote

/-! ### Deferred fault records (R259) -/

section Deferred
variable {s : State} {id access cause va level pte : Nat} {t : Task} (ht : s.task? id = some t)
  (hst : t.status = .blocked (.ring (access, cause, va, level, pte)))
include ht hst

theorem execFaultRecordDeferred_full (hr : s.faultRecord t access cause va level pte = none) :
    execFaultRecordDeferred id s = .next s := by
  simp [execFaultRecordDeferred, ht, hst, hr]

variable {n rec0 : Nat} {u : State} (hr : s.faultRecord t access cause va level pte = some (n, rec0, u))
include hr

/-- A push traps, once its record is written. -/
theorem execFaultRecordDeferred_push (ha : access = 3) : execFaultRecordDeferred id s =
    .next ((u.modTask id fun y => { y with woke := some (.trap cause (BitVec.ofNat 64 va)) }).makeReady id none) := by
  subst ha
  simp [execFaultRecordDeferred, ht, hst, hr]

/-- Any other access waits on its entry and its record, unless the entry has been mended. -/
theorem execFaultRecordDeferred_access (ha : access ≠ 3) {u1 : State} (h1 : (u.modTask id fun y =>
      { y with fault := some { n := n, record := rec0, va := va }, status := .blocked (.fault (pte / 256) (rec0 / 256)) }) =
      u1) :
    (∀ x, u1.walk (u1.vd t.vd).root va = .ok x → execFaultRecordDeferred id s = .next (u1.makeReady id none)) ∧
    (∀ e, u1.walk (u1.vd t.vd).root va = .error e → execFaultRecordDeferred id s = .next u1) := by
  refine ⟨fun x hx => ?_, fun e he => ?_⟩
  · simp only [execFaultRecordDeferred, ht, hst, hr, Option.map_some, if_neg ha, h1, hx, event_some]
  · simp only [execFaultRecordDeferred, ht, hst, hr, Option.map_some, if_neg ha, h1, he, event_some]

end Deferred

/-- Settles O54, event by event: each is enabled by its hypotheses, and answers the state that its lemma gives. -/
theorem arrivalEvents : Obligations.ArrivalEvents := by
  intro s k vd id lid off n gr f slot x mask h mo src st q who rest t p s1 active
  refine ⟨execBarrierFire_fired, fun hp hr => ⟨fun hb hw hfirst => execEventArrival_next hp hr hb hw hfirst,
    fun ha => ⟨fun hb hf hfirst => execXputLanding_next hp hr ha hb hf hfirst, fun hb hf hfirst => ?_, fun hf hfirst => ?_⟩,
    exec_astray hp⟩, ⟨rfl, rfl⟩, fun hq hheld hw hd => ?_, fun _ hd => execHeldPushAccept_destroying lid slot hd,
    fun hv hd hw hh => ⟨execRemoteEnqueueArrival_refused hv hd hw hh, execRemoteEnqueueArrival_pushed hv hd hw hh⟩,
    fun access cause va level pte ht hst => ⟨execFaultRecordDeferred_full ht hst, fun rec0 u hrec => ?_⟩⟩
  · have hreply := execEnqueueReply_next hp hr ha hb hf hfirst
    exact ⟨fun hm hw => (hreply true).trans (by rw [State.takeEnqueue_here hb hm hw]; rfl),
      fun hm d => (hreply d).trans (by rw [State.takeEnqueue_away hb hm]; rfl)⟩
  · have hwrites := execForward_writes hp hr ha hf hfirst
    refine ⟨fun hb => ?_, fun hb => ?_, fun c t hb hg => ?_, fun kind len y l => execForward_request hp hr ha hf hfirst,
      fun hb hm hw => (execForward_enqueue hp hr ha hf hfirst hb).trans (by rw [State.takeEnqueue_here hb hm hw]; rfl)⟩
    · exact (hwrites (by rw [Pkt.writes, hb])).trans (by rw [State.deliver, hb]; rfl)
    · exact (hwrites (by rw [Pkt.writes, hb])).trans (by rw [State.deliver, hb]; rfl)
    · exact (hwrites (by rw [Pkt.writes, hb])).trans (by rw [State.deliver, hb, hg]; rfl)
  · exact ⟨execHeldPushAccept_entered hq hheld hw hd rfl, fun u => execHeldPushAccept_handed hq hheld hw hd rfl,
      execHeldPushAccept_full hq hheld hw hd rfl⟩
  · refine ⟨execFaultRecordDeferred_push ht hst hrec, fun hacc => ?_⟩
    intro u1
    obtain ⟨hok, herr⟩ := execFaultRecordDeferred_access ht hst hrec hacc rfl
    cases hx : u1.walk (u1.vd t.vd).root va with
    | ok y => exact hok y hx
    | error e => exact herr e hx

end Sys2Proof.Machine
end

section
/-! The samples of the census (R150). -/

namespace Sys2Proof.Machine

/-! ### Lists by number -/

theorem mem_of_look {α : Type} {l : List (Nat × α)} {q : Nat} {x : α} (h : look l q = some x) : (q, x) ∈ l := by
  induction l with
  | nil => cases h
  | cons p r ih =>
    obtain ⟨k, y⟩ := p
    by_cases hk : k = q
    · obtain rfl : y = x := by simpa [look, hk] using h
      exact hk ▸ List.mem_cons_self
    · exact List.mem_cons_of_mem _ (ih (by simpa [look, hk] using h))

theorem look_isSome_of_mem {α : Type} {l : List (Nat × α)} {q : Nat} (h : q ∈ l.map Prod.fst) : (look l q).isSome = true := by
  induction l with
  | nil => cases h
  | cons p r ih =>
    by_cases hk : p.1 = q
    · simp [look, hk]
    · simpa [look, hk] using ih (by simpa [Ne.symm hk] using h)

theorem look_map {α β : Type} (l : List (Nat × α)) (f : α → β) (q : Nat) :
    look (l.map fun p => (p.1, f p.2)) q = (look l q).map f := by
  induction l with
  | nil => rfl
  | cons p r ih => by_cases hk : p.1 = q <;> simp [look, hk, ih]

/-! ### What a sample reads -/

/-- The role map of each device. -/
def State.rolemaps (s : State) : List (Nat × List (Nat × Entry)) := s.vds.map fun v => (v.1, v.2.rolemap)

theorem State.entry_rolemaps (s : State) (vd lid : Nat) :
    s.entry vd lid = (look ((look s.rolemaps vd).getD []) lid).getD {} := by
  rw [State.rolemaps, look_map, State.entry, State.vd, Vd.entry]
  cases look s.vds vd <;> rfl

/-- Two states that agree on everything but what the records of the devices hold beside their role maps. -/
structure State.SameMaps (s t : State) : Prop where
  rest : t = { s with vds := t.vds }
  maps : t.rolemaps = s.rolemaps

theorem State.SameMaps.refl (s : State) : s.SameMaps s := ⟨rfl, rfl⟩
theorem State.SameMaps.trans {s t u : State} (h : s.SameMaps t) (k : t.SameMaps u) : s.SameMaps u :=
  ⟨by rw [k.rest, h.rest], k.maps.trans h.maps⟩

section Same
variable {s t : State} (h : s.SameMaps t)
include h

theorem State.SameMaps.tiles : t.tiles = s.tiles := by rw [h.rest]
theorem State.SameMaps.tasks : t.tasks = s.tasks := by rw [h.rest]
theorem State.SameMaps.mem : t.mem = s.mem := by rw [h.rest]
theorem State.SameMaps.clock : t.clock = s.clock := by rw [h.rest]
theorem State.SameMaps.packets : t.packets = s.packets := by rw [h.rest]

theorem State.SameMaps.keys : t.vds.map Prod.fst = s.vds.map Prod.fst := by
  have := congrArg (List.map Prod.fst) h.maps
  simpa [State.rolemaps, Function.comp_def] using this

theorem State.SameMaps.tile : t.tile = s.tile := by
  funext n
  simp [State.tile, h.tiles]

theorem State.SameMaps.entry : t.entry = s.entry := by
  funext vd lid
  rw [State.entry_rolemaps, State.entry_rolemaps, h.maps]

/-- Which tiles have the slots of a routing tile is a matter of the role maps. -/
theorem State.SameMaps.routing : t.routing = s.routing := by
  funext stop
  have hany (p : List (Nat × Entry) → Bool) : (t.vds.any fun v => p v.2.rolemap) = s.vds.any fun v => p v.2.rolemap := by
    have := congrArg (List.any · fun v => p v.2) h.maps
    simpa [State.rolemaps, List.any_map, Function.comp_def] using this
  simp only [State.routing, h.tile, h.entry]
  cases (s.tile stop).owner with
  | some o => rfl
  | none => exact hany fun l => l.any _

theorem State.SameMaps.dataTaken : t.dataTaken = s.dataTaken := by
  funext stop
  simp [State.dataTaken, State.taken, h.packets]

theorem State.SameMaps.dataSlots : t.dataSlots = s.dataSlots := by
  funext stop
  simp [State.dataSlots, State.slots, h.routing]

end Same

/-- The entries of a device that hold a tile. -/
def State.heldEntries (s : State) (vd : Nat) (v : Vd) : List (Nat × Entry) :=
  v.rolemap.filter fun x => x.2.role ≠ 0 && x.2.state ≠ 3 && !x.2.backed && (s.tile x.2.phys).owner == some (vd, x.1)

/-- The READY tasks of a device. -/
def State.readyTasks (s : State) (vd : Nat) : Nat := (s.tasks.filter fun x => x.2.vd = vd && x.2.status = .ready).length

/-- A device once it has been sampled. -/
def State.sampled (s : State) (vd : Nat) (v : Vd) : Vd :=
  let held := s.heldEntries vd v
  let q := v.pressure
  { v with pressure := { q with
      samples := q.samples + 1, readySum := q.readySum + s.readyTasks vd, anyReady := q.anyReady || s.readyTasks vd ≠ 0,
      computeSum := q.computeSum + (held.filter fun x => x.2.role = 1).length,
      storageSum := q.storageSum + (held.filter fun x => x.2.role = 2).length,
      liveSum := q.liveSum + ((held.filter fun x => x.2.role = 2).map fun x => (s.tile x.2.phys).live.length).sum,
      occupied := q.occupied + (held.map fun x => s.dataTaken x.2.phys).sum,
      slots := q.slots + (held.map fun x => s.dataSlots x.2.phys).sum } }

theorem State.SameMaps.sampled {s t : State} (h : s.SameMaps t) : t.sampled = s.sampled := by
  funext vd v
  simp only [State.sampled, State.heldEntries, State.readyTasks, h.tile, h.tasks, h.dataTaken, h.dataSlots]
  rfl

theorem State.sample_eq {s : State} {vd : Nat} {v : Vd} (h : look s.vds vd = some v) :
    s.sample vd = s.setVd vd (s.sampled vd v) := by
  simp only [State.sample, State.modVd, State.vd, h, Option.getD_some]
  rfl

/-- A sample leaves the role maps. -/
theorem State.sample_sameMaps {s : State} {vd : Nat} {v : Vd} (h : look s.vds vd = some v) : s.SameMaps (s.sample vd) := by
  rw [State.sample_eq h]
  exact ⟨rfl, map_put h rfl⟩

/-! ### CENSUS_SAMPLE -/

/-- The census samples a device that is not collapsed. -/
def State.sampleOf (s : State) (v : Nat × Vd) : State := if v.2.pwr ≠ 2 then s.sample v.1 else s

/-- What the samples of a list of devices, none of them twice, leave: each that is not collapsed is sampled, as it would have
been before the others were. -/
theorem State.foldl_sampleOf {s : State} (l : List (Nat × Vd)) {t : State} (ht : s.SameMaps t) (hl : (l.map Prod.fst).Nodup)
    (hk : ∀ x ∈ l, look t.vds x.1 = some x.2) :
    s.SameMaps (l.foldl State.sampleOf t) ∧
    (∀ n, n ∉ l.map Prod.fst → look (l.foldl State.sampleOf t).vds n = look t.vds n) ∧
    ∀ x ∈ l, look (l.foldl State.sampleOf t).vds x.1 = some (if x.2.pwr ≠ 2 then s.sampled x.1 x.2 else x.2) := by
  induction l generalizing t with
  | nil => exact ⟨ht, fun _ _ => rfl, nofun⟩
  | cons x l ih =>
    rw [List.map_cons, List.nodup_cons] at hl
    have hx := hk x (List.mem_cons_self ..)
    have hsame : s.SameMaps (t.sampleOf x) := by
      unfold State.sampleOf
      split
      · exact ht.trans (State.sample_sameMaps hx)
      · exact ht
    have hnew : look (t.sampleOf x).vds x.1 = some (if x.2.pwr ≠ 2 then s.sampled x.1 x.2 else x.2) := by
      unfold State.sampleOf
      split
      · rw [State.sample_eq hx, ht.sampled]
        exact look_put_same ..
      · exact hx
    have hold (n : Nat) (hn : n ≠ x.1) : look (t.sampleOf x).vds n = look t.vds n := by
      unfold State.sampleOf
      split
      · rw [State.sample_eq hx]
        exact look_put_ne _ _ hn
      · rfl
    obtain ⟨hmaps, hout, hin⟩ := ih hsame hl.2 fun y hy => by
      rw [hold y.1 fun e => hl.1 (e ▸ List.mem_map_of_mem hy)]
      exact hk y (List.mem_cons_of_mem x hy)
    refine ⟨hmaps, fun n hn => ?_, fun y hy => ?_⟩
    · rw [List.map_cons, List.mem_cons, not_or] at hn
      exact (hout n hn.2).trans (hold n hn.1)
    · obtain rfl | hy := List.mem_cons.1 hy
      · exact (hout _ hl.1).trans hnew
      · exact hin y hy

theorem execCensusSample_next {s : State} (h : s.clock.sample < s.cycles / 4096) : execCensusSample s =
    .next (s.vds.foldl State.sampleOf { s with clock := { s.clock with sample := s.clock.sample + 1 } }) := by
  rw [execCensusSample, if_neg (Nat.not_le.2 h)]
  rfl

/-- So a sample that is due changes the pressures of the devices alone. -/
theorem censusSampled {s : State} (h : s.clock.sample < s.cycles / 4096) (hv : (s.vds.map Prod.fst).Nodup) :
    ∃ t, execCensusSample s = .next t ∧ ({ s with clock := { s.clock with sample := s.clock.sample + 1 } } : State).SameMaps t ∧
      (∀ n, look s.vds n = none → t.vd n = s.vd n) ∧
      ∀ n v, look s.vds n = some v → t.vd n = if v.pwr ≠ 2 then s.sampled n v else v := by
  obtain ⟨hmaps, hout, hin⟩ := State.foldl_sampleOf s.vds
    (.refl { s with clock := { s.clock with sample := s.clock.sample + 1 } }) hv fun x hx => look_of_mem hv hx
  refine ⟨_, execCensusSample_next h, hmaps, fun n hn => ?_, fun n v hn => ?_⟩
  · have hkey : n ∉ s.vds.map Prod.fst := fun hk => by simpa [hn] using look_isSome_of_mem hk
    rw [State.vd, hout n hkey]
    rfl
  · rw [State.vd, hin (n, v) (mem_of_look hn)]
    rfl

end Sys2Proof.Machine
end

section
/-! The pressures and the epochs of the census (R149 to R151, R165). -/

namespace Sys2Proof.Machine

/-! ### Pressures (R150) -/

theorem ratio_high {n d : Nat} (h : d ≠ 0) : (ratio n d).high = true ↔ d ≤ n := by
  simp [ratio, h, Ratio.high]

/-- A pressure below one k-th of its threshold. -/
theorem ratio_lt {n d : Nat} (k : Nat) (h : d ≠ 0) : Ratio.lt (ratio n d) ⟨1, k⟩ = true ↔ n * k < d := by
  simp [ratio, h, Ratio.lt]

/-- What the gauge of a role shows. -/
theorem State.mem_gauges {s : State} {vd : Nat} {g : Gauge} (h : g ∈ s.gauges vd) :
    let q := (s.vd vd).pressure
    let c := ratio q.readySum (4 * q.computeSum)
    let t := ratio (4 * (q.liveSum + q.misses * q.samples)) (3 * 40960 * q.storageSum)
    let r := ratio (5 * q.occupied) (3 * q.slots)
    (g.role = 1 ∧ (g.tiles = 0 → g.high = q.anyReady ∧ g.low = !q.anyReady) ∧
      (g.tiles ≠ 0 → g.high = c.high ∧ g.low = Ratio.lt c ⟨1, 8⟩)) ∨
    (g.role = 2 ∧ (g.tiles ≠ 0 → g.high = t.high ∧ g.low = Ratio.lt t ⟨1, 3⟩)) ∨
    (g.role = 3 ∧ g.high = r.high ∧ g.low = Ratio.lt r ⟨1, 3⟩) := by
  intro q c t r
  simp only [State.gauges, List.mem_cons, List.not_mem_nil, or_false] at h
  rcases h with rfl | rfl | rfl
  · refine .inl ?_
    split
    · exact ⟨rfl, fun _ => ⟨rfl, rfl⟩, fun h => absurd rfl h⟩
    · next hn => exact ⟨rfl, fun h => absurd h hn, fun _ => ⟨rfl, rfl⟩⟩
  · refine .inr (.inl ?_)
    split
    · exact ⟨rfl, fun h => absurd rfl h⟩
    · exact ⟨rfl, fun _ => ⟨rfl, rfl⟩⟩
  · exact .inr (.inr ⟨rfl, rfl, rfl⟩)

/-- The thresholds of R150. -/
theorem State.gauge_thresholds {s : State} {vd : Nat} {g : Gauge} (h : g ∈ s.gauges vd) {q : Pressure}
    (hq : (s.vd vd).pressure = q) :
    (g.role = 1 → g.tiles ≠ 0 → q.computeSum ≠ 0 →
      (g.high = true ↔ 4 * q.computeSum ≤ q.readySum) ∧ (g.low = true ↔ 2 * q.readySum < q.computeSum)) ∧
    (g.role = 1 → g.tiles = 0 → g.high = q.anyReady ∧ g.low = !q.anyReady) ∧
    (g.role = 2 → g.tiles ≠ 0 → q.storageSum ≠ 0 →
      (g.high = true ↔ 3 * 40960 * q.storageSum ≤ 4 * (q.liveSum + q.misses * q.samples)) ∧
      (g.low = true ↔ 4 * (q.liveSum + q.misses * q.samples) < 40960 * q.storageSum)) ∧
    (g.role = 3 → q.slots ≠ 0 →
      (g.high = true ↔ 3 * q.slots ≤ 5 * q.occupied) ∧ (g.low = true ↔ 5 * q.occupied < q.slots)) := by
  have hgauge := State.mem_gauges h
  rw [hq] at hgauge
  rcases hgauge with ⟨hr, hzero, hsome⟩ | ⟨hr, hsome⟩ | ⟨hr, hhigh, hlow⟩
  · refine ⟨fun _ ht hc => ?_, fun _ => hzero, fun h => by omega, fun h => by omega⟩
    obtain ⟨hhigh, hlow⟩ := hsome ht
    rw [hhigh, hlow, ratio_high (by omega), ratio_lt 8 (by omega)]
    omega
  · refine ⟨fun h => by omega, fun h => by omega, fun _ ht hc => ?_, fun h => by omega⟩
    obtain ⟨hhigh, hlow⟩ := hsome ht
    rw [hhigh, hlow, ratio_high (by omega), ratio_lt 3 (by omega)]
    omega
  · refine ⟨fun h => by omega, fun h => by omega, fun h => by omega, fun _ hc => ?_⟩
    rw [hhigh, hlow, ratio_high (by omega), ratio_lt 3 (by omega)]
    omega

/-! ### Leases and retirements at an epoch boundary (R149, R165) -/

/-- A lease falls by one, and with it goes its owner where it lapses. -/
theorem Entry.lapse_eq (e : Entry) :
    e.lapse = { e with lease := e.lease - 1, owner := if e.lease = 1 then none else e.owner } := by
  unfold Entry.lapse
  split
  · next h => rw [if_neg (by omega), show e.lease - 1 = e.lease by omega]
  · split
    · next h => rw [h]
    · rfl

/-- The module with one device. -/
def State.single (s : State) (vd : Nat) (v : Vd) : State := { s with vds := [(vd, v)] }

@[simp] theorem State.vd_single (s : State) (vd : Nat) (v : Vd) : (s.single vd v).vd vd = v := by
  simp [State.single, State.vd, look]

theorem State.modVd_single (s : State) (vd : Nat) (v : Vd) (f : Vd → Vd) :
    (s.single vd v).modVd vd f = s.single vd (f v) := by
  simp [State.single, State.modVd, State.setVd, look, put]

/-- The role map of a device after an epoch boundary. -/
def Vd.lapse (v : Vd) : Vd := { v with rolemap := v.rolemap.map fun x => (x.1, x.2.lapse) }

theorem Vd.entry_lapse (v : Vd) (lid : Nat) : v.lapse.entry lid = (v.entry lid).lapse := by
  rw [Vd.entry, Vd.lapse, look_map, Vd.entry]
  cases look v.rolemap lid <;> rfl

@[simp] theorem Entry.lapse_role (e : Entry) : e.lapse.role = e.role := by rw [Entry.lapse_eq]
@[simp] theorem Entry.lapse_state (e : Entry) : e.lapse.state = e.state := by rw [Entry.lapse_eq]
@[simp] theorem Entry.lapse_backed (e : Entry) : e.lapse.backed = e.backed := by rw [Entry.lapse_eq]
@[simp] theorem Entry.lapse_phys (e : Entry) : e.lapse.phys = e.phys := by rw [Entry.lapse_eq]
@[simp] theorem Entry.lapse_notice (e : Entry) : e.lapse.notice = e.notice := by rw [Entry.lapse_eq]

/-- The logical tiles of a device whose failing tiles an epoch boundary brings to retirement. -/
def State.failingLids (s : State) (v : Vd) : List Nat :=
  (v.rolemap.filter fun x => x.2.role ≠ 0 && !x.2.backed && (x.2.state = 0 || x.2.state = 1) &&
    (s.tile x.2.phys).failing && !(x.2.notice.any fun n => n.kind = 3)).map fun x => x.1

/-- Leases are no matter for retirements. -/
theorem State.retirements_lapse (s : State) (vd : Nat) (v : Vd) : (s.single vd v.lapse).retirements vd = s.failingLids v := by
  simp only [State.retirements, State.vd_single, Vd.lapse, List.filter_map, List.map_map]
  simp only [Function.comp_def, Entry.lapse_role, Entry.lapse_state, Entry.lapse_backed, Entry.lapse_phys, Entry.lapse_notice]
  rfl

/-- The retirements of a list of logical tiles are decided, after what has been decided. -/
theorem State.foldl_retire (s : State) (vd : Nat) (l : List Nat) (v : Vd) :
    l.foldl (fun s l => s.decide vd ⟨l, (s.entry vd l).role, none, 3⟩) (s.single vd v) =
      s.single vd { v with decisions := v.decisions ++ l.map fun l => ⟨l, (v.entry l).role, none, 3⟩ } := by
  induction l generalizing v with
  | nil => simp
  | cons a l ih =>
    rw [List.foldl_cons, State.decide, State.modVd_single, ih, State.entry, State.vd_single]
    simp [Vd.entry]

/-! ### CENSUS_EPOCH (R151) -/

/-- The clock of the epochs moves on. -/
def State.nextEpoch (s : State) : State := { s with clock := { s.clock with epoch := s.clock.epoch + 1 } }

/-- Does a move that runs cast a tile? -/
def State.casts (s : State) (n : Nat) : Bool := s.vds.any fun v => v.2.rolemap.any fun e => e.2.target == some n && e.2.state == 2

/-- With no failing tile in the pool none is retired. -/
theorem foldl_retirePool {s : State} {l : List (Nat × Tile)} (c : Nat → Bool)
    (h : ∀ x ∈ l, x.2.failing = true → x.2.owner.isSome = true) :
    l.foldl (fun (s : State) x =>
      if x.2.failing && x.2.owner.isNone && !x.2.retired && !c x.1 then s.retirePool x.1 else s) s = s := by
  refine List.foldlRecOn (motive := fun t => t = s) l _ rfl fun t ht x hx => ?_
  have hno : (x.2.failing && x.2.owner.isNone) = false := by
    cases hf : x.2.failing with
    | false => rfl
    | true => simp [← Option.not_isSome, h x hx hf]
  rw [hno]
  exact ht

/-- What was decided in the epoch before is forgotten. -/
def State.undecided (s : State) : State := { s with vds := s.vds.map fun v => (v.1, { v.2 with decisions := [] }) }

/-- An epoch boundary of an ACTIVE device. -/
def State.decideFor (s : State) (vd : Nat) : State :=
  let s := s.modVd vd Vd.lapse
  ((s.retirements vd).foldl (fun s l => s.decide vd ⟨l, (s.entry vd l).role, none, 3⟩) s).decisionsOf vd

/-- An epoch boundary of a device: what was measured begins anew. -/
def State.epochOf (s : State) (v : Nat × Vd) : State :=
  (if v.2.pwr ≠ 0 then s else s.decideFor v.1).modVd v.1 fun v => { v with pressure := {} }

/-- A boundary with no failing tile in the pool is one of each device in turn. -/
theorem execCensusEpoch_next {s : State} (h : s.clock.epoch < s.cycles / 2 ^ 20)
    (ht : ∀ x ∈ s.tiles, x.2.failing = true → x.2.owner.isSome = true) :
    execCensusEpoch s = .next (s.nextEpoch.undecided.vds.foldl State.epochOf s.nextEpoch.undecided) := by
  have hdue : ¬ s.cycles / Config.epoch ≤ s.clock.epoch := Nat.not_le.2 h
  rw [execCensusEpoch, if_neg hdue]
  exact congrArg (fun t : State => (.next (t.vds.foldl State.epochOf t) : Result))
    (foldl_retirePool (s := s.nextEpoch.undecided) s.nextEpoch.undecided.casts ht)

theorem State.decideFor_single (s : State) (vd : Nat) (v : Vd) : (s.single vd { v with decisions := [] }).decideFor vd =
    (s.single vd { v.lapse with decisions := (s.failingLids v).map fun l => ⟨l, (v.entry l).role, none, 3⟩ }).decisionsOf vd := by
  have hrole : (fun l => (⟨l, (v.lapse.entry l).role, none, 3⟩ : Decision)) = fun l => ⟨l, (v.entry l).role, none, 3⟩ := by
    funext l
    rw [Vd.entry_lapse, Entry.lapse_role]
  rw [← hrole, State.decideFor, State.modVd_single, State.retirements_lapse, State.foldl_retire]
  rfl

theorem execCensusEpoch_empty {s : State} (h : s.clock.epoch < s.cycles / 2 ^ 20) (hv : s.vds = []) (ht : s.tiles = []) :
    execCensusEpoch s = .next s.nextEpoch := by
  have hnone : s.nextEpoch.undecided = s.nextEpoch := by simp [State.undecided, State.nextEpoch, hv]
  rw [execCensusEpoch_next h (by simp [ht]), hnone]
  simp [State.nextEpoch, hv]

/-- A boundary of a module with one device. -/
theorem execCensusEpoch_single {s : State} {vd : Nat} {v : Vd} (h : s.clock.epoch < s.cycles / 2 ^ 20)
    (hv : s.vds = [(vd, v)]) (ht : ∀ x ∈ s.tiles, x.2.failing = true → x.2.owner.isSome = true) :
    execCensusEpoch s = .next ((s.nextEpoch.single vd { v with decisions := [] }).epochOf (vd, { v with decisions := [] })) := by
  have hone : s.nextEpoch.undecided = s.nextEpoch.single vd { v with decisions := [] } := by
    simp [State.undecided, State.nextEpoch, State.single, hv]
  rw [execCensusEpoch_next h ht, hone]
  rfl

/-- With no pressure high and no tile above the share there is nothing to decide. -/
theorem State.decisionsOf_calm {s : State} {vd : Nat} (hg : ∀ g ∈ s.gauges vd, g.high = false)
    (ht : s.tilesOf vd ≤ s.tileShare vd) : s.decisionsOf vd = s := by
  have hnone : (s.gauges vd).filter (fun g => g.high) = [] := by
    rw [List.filter_eq_nil_iff]
    intro g hm
    simp [hg g hm]
  have hgive : s.giveBack vd (s.gauges vd) 8 = s := by
    rw [State.giveBack]
    exact if_pos (.inl (Nat.le_add_right_of_le ht))
  simp only [State.decisionsOf, hnone]
  exact hgive

/-! ### Notices (R153 to R156, R165, R244) -/

section Notice
variable {s : State} {vd : Nat}

theorem execNotice_drain (h : s.draining = true) : execNotice vd s = .next s := by
  rw [execNotice, if_pos h, event_none]

variable {c : Decision} {r : List Decision} (hd : s.draining = false) (hc : (s.vd vd).decisions = c :: r) {t : State}
  (ht : (s.modVd vd fun v => { v with decisions := r }) = t)
include hd hc ht

theorem execNotice_change (hk : c.kind ≠ 3) :
    execNotice vd s = .next (if s.stands vd c = true then t.issue vd c else t) := by
  simp only [execNotice, hd, Bool.false_eq_true, if_false, hc, if_neg hk, ht]
  split <;> rfl

theorem execNotice_retirement (hk : c.kind = 3) :
    execNotice vd s = .next (if s.stillFails vd c.lid = true ∧ (s.vd vd).pwr = 0 then t.issueRetirement vd c.lid else t) := by
  simp only [execNotice, hd, Bool.false_eq_true, if_false, hc, if_pos hk, ht]
  split <;> rfl

end Notice

/-- A tile that is to be retired is still held by its entry. -/
theorem State.stillFails_iff {s : State} {vd lid : Nat} {e : Entry} (he : s.entry vd lid = e) :
    s.stillFails vd lid = true ↔ e.role ≠ 0 ∧ e.state ≤ 1 ∧ e.backed = false ∧ (s.tile e.phys).failing = true ∧
      (s.tile e.phys).owner = some (vd, lid) := by
  simp [State.stillFails, he, and_assoc]

theorem execNoticeRecordDeferred_next {s : State} {vd : Nat} {x : Word × Word × Word × Word}
    {l : List (Word × Word × Word × Word)} (hx : (s.vd vd).deferred = x :: l) (hd : s.draining = false)
    (hr : s.noticeUsed (s.vd vd) + (s.vd vd).noticeReserved < 256) {t : State}
    (ht : (s.modVd vd fun v => { v with deferred := l }).noticePut vd x = t) :
    execNoticeRecordDeferred vd s = .next (if bvBits x.1 19 16 = 3 then t.roleLine vd else t) := by
  simp [execNoticeRecordDeferred, hx, hd, Nat.not_le.2 hr, ht]

/-! ### Failing tiles (R165) -/

section Failing
variable {s : State} {n : Nat} (hn : n < 1024) (hr : (s.tile n).retired = false)
include hn hr

theorem execTileFailingMark_next :
    execTileFailingMark n s = .next (s.modTile n fun t => { t with failing := true }) := by
  simp [execTileFailingMark, Nat.not_le.2 hn, hr]

/-- A tile of the pool that fails is retired. -/
theorem execTileFailure_pool (ho : (s.tile n).owner = none) : execTileFailure n s = .next (s.retirePool n) := by
  simp [execTileFailure, Nat.not_le.2 hn, hr, ho]

end Failing

/-! ### Starvation (R237) -/

/-- Has an entry of a stop into a direction been refused for 1,024 master cycles of its die, from the first refusal on? -/
def State.Refused (s : State) (n d : Nat) (p : Pkt) : Prop :=
  p.starved = false ∧ p.stop = n ∧ nextMove n (s.dstOf p) = .ring d ∧ ∃ c, p.since = some c ∧ c + 1024 ≤ s.masterAt n

/-- INJECTION_STARVATION looks for the first. -/
theorem execInjectionStarvation_eq (s : State) (n d : Nat) : ∃ f : Pkt → Bool, (∀ p, f p = true ↔ s.Refused n d p) ∧
    execInjectionStarvation n d s = event s ((s.packets.findIdx? f).map fun k =>
      { s with packets := s.packets.modify k fun p => { p with starved := true } }) :=
  ⟨_, fun p => by simp [State.Refused, and_assoc, Option.any_eq_true], rfl⟩

theorem execInjectionStarvation_next {s : State} {n d k : Nat} {p : Pkt} (hp : s.packets[k]? = some p) (h : s.Refused n d p)
    (hfirst : ∀ j q, j < k → s.packets[j]? = some q → ¬ s.Refused n d q) : execInjectionStarvation n d s =
      .next { s with packets := s.packets.modify k fun p => { p with starved := true } } := by
  obtain ⟨f, hf, e⟩ := execInjectionStarvation_eq s n d
  obtain ⟨hk, rfl⟩ := List.getElem?_eq_some_iff.1 hp
  have hfind : s.packets.findIdx? f = some k := by
    rw [List.findIdx?_eq_some_iff_getElem]
    refine ⟨hk, (hf _).2 h, fun j hj hfj => ?_⟩
    exact hfirst j _ hj (List.getElem?_eq_getElem (hj.trans hk)) ((hf _).1 hfj)
  rw [e, hfind, Option.map_some, event_some]

theorem execInjectionStarvation_none {s : State} {n d : Nat} (h : ∀ p ∈ s.packets, ¬ s.Refused n d p) :
    execInjectionStarvation n d s = .next s := by
  obtain ⟨f, hf, e⟩ := execInjectionStarvation_eq s n d
  have hfind : s.packets.findIdx? f = none := by
    rw [List.findIdx?_eq_none_iff]
    exact fun p hp => Bool.eq_false_iff.2 fun hfp => h p hp ((hf p).1 hfp)
  rw [e, hfind, Option.map_none, event_none]

/-! ### The statement -/

/-- Settles O55: a sample by `censusSampled`, the thresholds by what the gauges show, an epoch by what it decides for one
device, the other events by their own lemmas. -/
theorem censusEvents : Obligations.CensusEvents := by
  intro s vd n d c r x l
  refine ⟨fun h hv => ?_, fun g hg => State.gauge_thresholds hg rfl, fun h => ⟨execCensusEpoch_empty h, fun v hv ht => ?_⟩,
    fun hc => ?_, fun hx hd hr => execNoticeRecordDeferred_next hx hd hr rfl,
    fun hn hr => ⟨execTileFailingMark_next hn hr, execTileFailure_pool hn hr⟩,
    fun k p hp h hfirst => execInjectionStarvation_next hp h hfirst, execInjectionStarvation_none⟩
  · obtain ⟨t, ht, hsame, hout, hin⟩ := censusSampled h hv
    refine ⟨t, ht, hsame.clock, hsame.mem, hsame.tasks, hsame.tiles, hsame.keys, hout vd, fun v hv => ?_⟩
    rw [hin vd v hv]
    exact ⟨fun hp => if_neg (not_not.2 hp), fun hp => if_pos hp⟩
  · have hepoch := execCensusEpoch_single h hv ht
    refine ⟨fun hp => hepoch.trans ?_, fun hp => ⟨hepoch.trans ?_, State.decisionsOf_calm⟩⟩
    · rw [State.epochOf, if_pos hp, State.modVd_single]
      rfl
    · have hlapse : Entry.lapse = fun e => { e with lease := e.lease - 1, owner := if e.lease = 1 then none else e.owner } :=
        funext Entry.lapse_eq
      rw [State.epochOf, if_neg (not_not.2 hp), State.decideFor_single, Vd.lapse, hlapse]
      rfl
  · refine ⟨execNotice_drain,
        fun hd hk hs => (execNotice_change hd hc rfl hk).trans (by rw [if_pos hs]),
        fun hd hk hs => (execNotice_change hd hc rfl hk).trans (by rw [if_neg (by simp [hs])]), fun hd hk => ?_⟩
    intro e fails
    have hfails : s.stillFails vd c.lid = true ↔ fails := State.stillFails_iff rfl
    have hretire := execNotice_retirement hd hc rfl hk
    exact ⟨fun hf hp => hretire.trans (by rw [if_pos ⟨hfails.2 hf, hp⟩]),
      fun hn => hretire.trans (by rw [if_neg fun h => hn (hfails.1 h.1)])⟩

end Sys2Proof.Machine
end

section
/-! The tide drain, its shifts, and the moves of the role map (R158 to R162, R242, R243). -/

namespace Sys2Proof.Machine

/-! ### A drain (R242) -/

/-- Whether a die's message slots are empty is a matter of the packets alone. -/
theorem State.ringEmpty_congr {s t : State} (h : t.packets = s.packets) : t.ringEmpty = s.ringEmpty := by
  funext die
  rw [State.ringEmpty, h]
  rfl

theorem State.die_endDrains (s : State) (i : Fin 4) :
    s.endDrains.dies[i] = { s.dies[i] with draining := s.dies[i].draining && !s.ringEmpty i } := by
  simp [State.endDrains]

theorem State.ringEmpty_endDrains (s : State) : s.endDrains.ringEmpty = s.ringEmpty := State.ringEmpty_congr rfl

/-- A drain begins in every die, and what it counts begins anew. -/
def State.beginDrain (s : State) : State := { s with
  draining := true
  dies := s.dies.map fun d => { d with draining := true, shifts := 0, sidePeak := 0, vertPeak := 0 }
  stops := s.stops.map fun x => (x.1, { x.2 with peak := 0 }) }

theorem State.die_beginDrain (s : State) (i : Fin 4) :
    s.beginDrain.dies[i] = { s.dies[i] with draining := true, shifts := 0, sidePeak := 0, vertPeak := 0 } := by
  simp [State.beginDrain]

theorem execTideDrain_next {s : State} (hd : s.draining = false) (h : s.clock.tide < s.cycles / 65536) :
    execTideDrain s = .next s.beginDrain.endDrains := by
  have hdue : ¬ (s.draining = true ∨ s.cycles / Config.tide ≤ s.clock.tide) := by
    rw [hd, Config.tide]
    simpa using h
  rw [execTideDrain, if_neg hdue]
  rfl

theorem execTideDrainEnd_held {s : State} {i : Fin 4} (h : s.dies[i].draining = true) : execTideDrainEnd s = .next s := by
  have hmem : s.dies[i] ∈ s.dies.toList := by simp
  have hall : s.drained = false := by
    rw [State.drained, List.all_eq_false]
    exact ⟨_, hmem, by rw [h]; decide⟩
  simp [execTideDrainEnd, hall]

theorem execTideDrainEnd_next {s s1 : State} (hd : s.draining = true) (h : ∀ i : Fin 4, s.dies[i].draining = false)
    (h1 : { s with draining := false, clock := { s.clock with tide := s.clock.tide + 1 } } = s1) :
    execTideDrainEnd s = .next ((s1.dueMoves (s1.clock.tide * 65536)).foldl
      (fun s x => s.beginMove x.1 x.2 (s1.clock.tide * 65536)) s1) := by
  have hall : s.drained = true := by
    rw [State.drained, List.all_eq_true]
    intro d hm
    obtain ⟨i, hi, rfl⟩ := List.mem_iff_getElem.1 hm
    simpa using h ⟨i, by simpa using hi⟩
  subst h1
  simp [execTideDrainEnd, hd, hall, Config.tide]

/-! ### A shift (R242) -/

/-- What a shift counts at stops changes no die. -/
theorem State.foldl_modStop_dies {f : State → Nat → NetStop → NetStop} (l : List Nat) (s : State) :
    (l.foldl (fun s n => s.modStop n (f s n)) s).dies = s.dies := by
  induction l generalizing s with
  | nil => rfl
  | cons n l ih => exact ih (s.modStop n (f s n))

theorem State.dieDrains_eq (s : State) (i : Fin 4) : s.dieDrains (256 * i) = s.dies[i].draining := by
  have hi : dieOf (256 * i) = i := Nat.mul_div_cancel_left _ (by decide)
  simp [State.dieDrains, hi]

/-- A shift of a die that drains is one more, and ends its drain where it leaves the message slots empty. -/
theorem State.shift_die {s : State} {i : Fin 4} (hd : s.dies[i].draining = true) (he : s.ringEmpty i = false) :
    (s.shift i).dies[i].shifts = s.dies[i].shifts + 1 ∧ (s.shift i).dies[i].draining = !(s.shift i).ringEmpty i := by
  have hgo : ¬ ((!s.dieDrains (256 * i)) || s.ringEmpty i) = true := by
    rw [State.dieDrains_eq, hd, he]; decide
  rw [State.shift, if_neg hgo]
  extract_lets walk s1 s2
  have hdie : s2.dies[i].shifts = s.dies[i].shifts + 1 ∧ s2.dies[i].draining = s.dies[i].draining := by
    simp [s2, s1]
  rw [State.die_endDrains, State.ringEmpty_endDrains,
    State.foldl_modStop_dies (f := fun s n x => { x with peak := max x.peak (s.drainedAt n) })]
  exact ⟨hdie.1, by simp only [hdie.2, hd, Bool.true_and]⟩

/-! ### Preset cycles (R243) -/

theorem neighbour_of_die (stop dir : Nat) : neighbour stop dir = 256 * dieOf stop + neighbour (stop % 256) dir := by
  have hr : rowOf (stop % 256) = rowOf stop := by simp only [rowOf]; omega
  have hc : colOf (stop % 256) = colOf stop := by simp only [colOf]; omega
  have hd : dieOf (stop % 256) = 0 := by simp only [dieOf]; omega
  simp [neighbour, hr, hc, hd]

theorem neighbour_lt {stop : Nat} (h : stop < 256) (dir : Nat) : neighbour stop dir < 256 := by
  simp only [neighbour, dieOf, rowOf, colOf]
  split <;> omega

theorem rotateLeft_eq_rotate {α : Type} {l : List α} (h : 1 < l.length) (n : Nat) : l.rotateLeft n = l.rotate n := by
  rw [List.rotate_eq_drop_append_take_mod, List.rotateLeft, if_neg (Nat.not_le.2 h)]

/-- Distinct numbers below their count are all of them. -/
theorem mem_of_nodup_of_lt {l : List Nat} (hn : l.Nodup) (hl : ∀ k ∈ l, k < l.length) {k : Nat} (hk : k < l.length) :
    k ∈ l := by
  have hsub : l.toFinset ⊆ Finset.range l.length := fun x hx => Finset.mem_range.2 (hl x (List.mem_toFinset.1 hx))
  have hall : l.toFinset = Finset.range l.length :=
    Finset.eq_of_subset_of_card_le hsub (by rw [Finset.card_range, List.toFinset_card_of_nodup hn])
  rw [← List.mem_toFinset, hall]
  exact Finset.mem_range.2 hk

/-- In a preset cycle each link is there, and the link after it starts where it ends. -/
theorem presetOk_next {walk : List Nat} (h : presetOk walk = true) {k : Nat} (hk : k < 1024) :
    ∃ i, walk.idxOf? k = some i ∧ ∃ x, walk[(i + 1) % walk.length]? = some x ∧ neighbour (k / 4) (k % 4) = x / 4 := by
  simp only [presetOk, Bool.and_eq_true, beq_iff_eq, List.all_eq_true, decide_eq_true_eq] at h
  obtain ⟨⟨⟨⟨hlen, hlt⟩, hnodup⟩, hnext⟩, -⟩ := h
  have hmem : k ∈ walk := mem_of_nodup_of_lt hnodup (hlen ▸ hlt) (hlen ▸ hk)
  obtain ⟨i, hi⟩ := Option.isSome_iff_exists.1 (List.isSome_idxOf?.2 hmem)
  obtain ⟨hlti, hki, -⟩ := List.idxOf?_eq_some_iff.1 hi
  have hafter : (i + 1) % walk.length < walk.length := Nat.mod_lt _ (by omega)
  refine ⟨i, hi, _, List.getElem?_eq_getElem hafter, ?_⟩
  have hpair : (walk[i], walk[(i + 1) % walk.length]) ∈ walk.zip (walk.rotateLeft 1) := by
    rw [rotateLeft_eq_rotate (by omega), List.mem_iff_getElem]
    exact ⟨i, by simpa using hlti, by simp [List.getElem_rotate]⟩
  simpa [hki] using hnext _ hpair

theorem nextLink_preset {walk : List Nat} (h : presetOk walk = true) {stop dir : Nat} (hd : dir < 4) :
    ∃ d < 4, nextLink walk stop dir = some (neighbour stop dir, d) := by
  have hk : 4 * (stop % 256) + dir < 1024 := by omega
  have hstop : (4 * (stop % 256) + dir) / 4 = stop % 256 := by omega
  have hdir : (4 * (stop % 256) + dir) % 4 = dir := by omega
  obtain ⟨i, hi, x, hx, hnext⟩ := presetOk_next h hk
  rw [hstop, hdir] at hnext
  refine ⟨x % 4, Nat.mod_lt _ (by decide), ?_⟩
  rw [nextLink, hi, Option.bind_some, hx, Option.map_some, ← hnext, Nat.mod_eq_of_lt (neighbour_lt (by omega) dir),
    ← neighbour_of_die]

/-! ### A move completes (R158 to R161) -/

section Complete
variable {s : State} {vd lid : Nat} {e : Entry} (he : s.entry vd lid = e) (hst : e.state = 2)
include he hst

theorem execRoleMoveComplete_compute (hr : e.role = 1) (hq : s.quiet e.phys = true) (hs : s.settledOff vd e.phys = true)
    (ht : e.target = none) : execRoleMoveComplete vd lid s = .next ((s.saveOff vd e.phys).completeInPlace vd lid) := by
  simp [execRoleMoveComplete, he, hst, hr, hq, hs, ht]

theorem execRoleMoveComplete_routing (hr : e.role = 3) (hq : s.routed e.phys = true) (ht : e.target = none) :
    execRoleMoveComplete vd lid s = .next (s.completeInPlace vd lid) := by
  simp [execRoleMoveComplete, he, hst, hr, hq, ht]

theorem execRoleMoveComplete_storage (hr : e.role = 2) (hb : e.backed = false) (ho : (s.tile e.phys).owner = some (vd, lid))
    (ht : s.targetBusy e = false) : execRoleMoveComplete vd lid s = .next ((e.target.elim s fun n =>
      if (s.tile n).role = 1 then s.saveOff vd n else s).completeStorage vd lid) := by
  cases htarget : e.target <;> simp [execRoleMoveComplete, he, hst, hr, hb, ho, ht, htarget]

theorem execRoleMoveComplete_cast (hr : e.role = 0) {n : Nat} (ht : e.target = some n) :
    execRoleMoveComplete vd lid s = .next (s.completeCast vd lid n) := by
  simp [execRoleMoveComplete, he, hst, hr, ht]

end Complete

/-- Settles O56: drains and shifts by what `endDrains` leaves of each die, moves by their own lemmas, preset cycles by
`nextLink_preset`. -/
theorem moveEvents : Obligations.MoveEvents := by
  intro s vd lid n e
  refine ⟨fun hd h => ⟨_, execTideDrain_next hd h, rfl, rfl, rfl, rfl, rfl, rfl, rfl, ?_, fun i => ?_⟩,
    fun i => State.shift_die, fun _ ⟨i, hi⟩ => execTideDrainEnd_held hi, fun hd h => execTideDrainEnd_next hd h rfl,
    execRoleMoveComplete_compute rfl, execRoleMoveComplete_routing rfl, fun hst hr hb ho ht => ?_,
    fun hst hr => execRoleMoveComplete_cast rfl hst hr, fun walk stop dir h _ hd => nextLink_preset h hd⟩
  · intro x hx
    obtain ⟨y, -, rfl⟩ := List.mem_map.1 hx
    rfl
  · rw [State.die_endDrains, State.die_beginDrain]
    exact ⟨Bool.true_and _, rfl, rfl, rfl⟩
  · refine (execRoleMoveComplete_storage rfl hst hr hb ho ht).trans ?_
    cases e.target <;> rfl

end Sys2Proof.Machine
end

section
/-! Snapshot regions: opened, committed and rolled back (R192, R195, R427, R428). -/

namespace Sys2Proof.Machine

/-! ### A region and its descriptor -/

theorem regionArg_ok {x : Word} (h : x.toNat ≤ 7) (s : State) : regionArg x s = .ok (x.toNat, s) := by
  simp [regionArg, Nat.not_lt.2 h]

theorem regionArg_trap {x : Word} (h : 7 < x.toNat) (s : State) : regionArg x s = .error (.trap 1 x 0) := by
  simp [regionArg, h]

/-- The region that a descriptor gives, with the translations of its undo area (R192). -/
def describedRegion (l : List Byte) (pins : List TlbEntry) : Region :=
  { base := dwordIn l 0, size := dwordIn l 8, undo := dwordIn l 16, undosize := dwordIn l 24, pins := pins }

/-- What R192 asks of a descriptor. -/
structure Region.Sound (r : Region) : Prop where
  base : r.base % 65536 = 0
  size : r.size % 65536 = 0
  pos : r.size ≠ 0
  below : r.base + r.size ≤ Config.windowBase
  undo : r.undo % 64 = 0
  room : 336 ≤ r.undosize
  undoBelow : r.undo + r.undosize ≤ Config.windowBase
  apart : r.base + r.size ≤ r.undo ∨ r.undo + r.undosize ≤ r.base

/-- The check of SNAPOPEN passes a sound descriptor. -/
theorem Region.Sound.notBroken {r : Region} (h : r.Sound) :
    ¬ (r.base % 65536 ≠ 0 ∨ r.size % 65536 ≠ 0 ∨ r.size = 0 ∨ Config.windowBase < r.base + r.size ∨ r.undo % 64 ≠ 0 ∨
      r.undosize < 336 ∨ Config.windowBase < r.undo + r.undosize ∨
      (r.undo < r.base + r.size ∧ r.base < r.undo + r.undosize)) := by
  obtain ⟨hbase, hsize, hpos, hbelow, hundo, hroom, hundoBelow, hapart⟩ := h
  omega

/-- A region that overlaps no open one passes the check of SNAPOPEN. -/
theorem overlaps_eq_false {l : List (Nat × Region)} {base size : Nat}
    (h : ∀ x ∈ l, x.2.base + x.2.size ≤ base ∨ base + size ≤ x.2.base) :
    (l.any fun x => decide (base < x.2.base + x.2.size) && decide (x.2.base < base + size)) = false := by
  simp only [List.any_eq_false, Bool.and_eq_true, decide_eq_true_eq]
  intro x hx
  have := h x hx
  omega

/-- A region opened: its header written, with no line journalled, and the region listed (R195). -/
def State.openRegion (s : State) (vd n : Nat) (r : Region) : State :=
  (s.undoWrite r 0 (cellsAt 0 ([0, 1, r.capacity, 0, 0, 0, 0, 0].flatMap (toBytes 8)))).modVd vd fun v =>
    { v with regions := put v.regions n r }

/-! ### SNAPOPEN, SNAPCOMMIT, SNAPROLL -/

section Snapshots
variable {s s1 s2 : State} {id : Nat} {t : Task} {a b : GReg} {r : Region}

/-- A region number above 7 traps. -/
theorem exec_regionTrap {i : Instr} (hi : i = .snapopen a ∨ i = .snapcommit a ∨ i = .snaproll a b)
    (h : s.issues i id t) (hn : 7 < (t.ctx.src a).toNat) : exec i s = .next (s.takeTrap id 1 (t.ctx.src a) 0) := by
  rcases hi with rfl | rfl | rfl
  all_goals exact run_trap h (by simp [Instr.sources, regionArg_trap hn])

section Named
variable (hn : (t.ctx.src a).toNat ≤ 7)
include hn

theorem execSnapopen_trap (h : s.issues (.snapopen a) id t)
    (hopen : (look (s.vd t.vd).regions (t.ctx.src a).toNat).isSome = true) :
    execSnapopen a s = .next (s.takeTrap id 1 (t.ctx.src a) 0) :=
  run_trap h (by simp [Instr.sources, regionArg_ok hn, hopen])

/-- SNAPOPEN of a closed region whose descriptor is sound, and whose undo area is translated. -/
theorem execSnapopen_opened {l : List Byte} {pins : List TlbEntry} (h : s.issues (.snapopen a) id t)
    (hclosed : look (s.vd t.vd).regions (t.ctx.src a).toNat = none)
    (hread : readRegion id t ((s.vd t.vd).regionTable + 32 * (t.ctx.src a).toNat) s = .ok (l, s1))
    (hr : describedRegion l pins = r) (hsound : r.Sound)
    (hover : ∀ x ∈ (s.vd t.vd).regions, x.2.base + x.2.size ≤ r.base ∨ r.base + r.size ≤ x.2.base)
    (hpin : pinUndo t.vd (t.ctx.src a).toNat (r.undo + r.undosize) (r.undosize / 65536 + 2) r.undo s1 = .ok (pins, s2)) :
    execSnapopen a s = .next (((s2.release id .module).openRegion t.vd (t.ctx.src a).toNat r).wrote id (.snapopen a)
      fun c => c) := by
  subst hr
  have hbroken := hsound.notBroken
  simp only [describedRegion] at hbroken hover hpin
  refine run_wrote_noDests h rfl ?_
  simp only [Instr.sources, List.map_cons, List.getD_cons_zero, act_bind, regionArg_ok hn, act_get, hclosed,
    Option.isSome_none, hread, if_neg hbroken, overlaps_eq_false hover, hpin, act_modify, act_pure, Bool.false_eq_true, if_false]
  rfl

theorem execSnapcommit_closed (h : s.issues (.snapcommit a) id t)
    (hclosed : look (s.vd t.vd).regions (t.ctx.src a).toNat = none) :
    execSnapcommit a s = .next (s.wrote id (.snapcommit a) fun c => c) :=
  run_wrote_noDests h rfl (by simp [Instr.sources, regionArg_ok hn, hclosed])

theorem execSnapcommit_open (h : s.issues (.snapcommit a) id t)
    (hopen : look (s.vd t.vd).regions (t.ctx.src a).toNat = some r) :
    execSnapcommit a s = .next (((s.release id .module).closeRegion t.vd (t.ctx.src a).toNat r).wrote id (.snapcommit a)
      fun c => c) :=
  run_wrote_noDests h rfl (by simp [Instr.sources, regionArg_ok hn, hopen])

theorem execSnaproll_closed (h : s.issues (.snaproll a b) id t)
    (hclosed : look (s.vd t.vd).regions (t.ctx.src a).toNat = none) :
    execSnaproll a b s = .next (s.wrote id (.snaproll a b) fun c => c) :=
  run_wrote_noDests h rfl (by simp [Instr.sources, regionArg_ok hn, hclosed])

/-- SNAPROLL of an open region closes it once the lines that its header counts are restored. -/
theorem execSnaproll_open (h : s.issues (.snaproll a b) id t)
    (hopen : look (s.vd t.vd).regions (t.ctx.src a).toNat = some r)
    (hrestore : restoreLines t.vd r (t.ctx.src b) (min ((s.release id .module).undoDword r 0) r.capacity)
      (s.release id .module) = .ok ((), s1)) :
    execSnaproll a b s = .next (((s1.closeRegion t.vd (t.ctx.src a).toNat r).acquire id .module).wrote id (.snaproll a b)
      fun c => c) :=
  run_wrote_noDests h rfl (by simp [Instr.sources, regionArg_ok hn, hopen, hrestore])

end Named

end Snapshots

/-- Settles O44: each instruction by what it does to a closed region and to an open one. -/
theorem snapshotResults : Obligations.SnapshotResults := by
  intro s s1 s2 id t a b l pins n g
  refine ⟨fun i => exec_regionTrap, fun hn => ⟨?_, execSnapopen_trap hn,
    fun h => ⟨execSnapcommit_closed hn h, fun r => execSnapcommit_open hn h⟩,
    fun h => ⟨execSnaproll_closed hn h, fun r => execSnaproll_open hn h⟩⟩⟩
  intro h hclosed hread base size undo undosize hbase hsize hpos hbelow hundo hroom hundoBelow hapart hover hpin
  exact execSnapopen_opened hn h hclosed hread rfl ⟨hbase, hsize, hpos, hbelow, hundo, hroom, hundoBelow, hapart⟩ hover hpin

end Sys2Proof.Machine
end

section
/-! TUNSUB: the subscription that runs with its ring, and its end (R190, R445). -/

namespace Sys2Proof.Machine

/-! ### The subscription of a ring -/

/-- A core serves a subscription of the task with this ring. -/
def Core.serves (x : Core) (id off : Nat) : Prop := ∃ u, x.sub = some u ∧ u.cmd.task = id ∧ u.ring = off

/-- The same as TUNSUB tests it. -/
def Core.isServing (x : Core) (id off : Nat) : Bool :=
  match x.sub with
  | some u => u.cmd.task == id && u.ring == off
  | none => false

theorem Core.isServing_iff {x : Core} {id off : Nat} : x.isServing id off = true ↔ x.serves id off := by
  cases h : x.sub <;> simp [Core.isServing, Core.serves, h]

/-- The core of a tile that TUNSUB finds. -/
def State.server (s : State) (tile id off : Nat) : Option Nat :=
  (List.range 4).find? fun k => (s.core tile k).isServing id off

section Server
variable {s : State} {tile id off : Nat}

theorem State.server_none (h : ∀ k < 4, ¬ (s.core tile k).serves id off) : s.server tile id off = none := by
  simpa only [State.server, List.find?_eq_none, List.mem_range, Core.isServing_iff] using h

theorem State.server_some {k : Nat} (hk : k < 4) (h : (s.core tile k).serves id off)
    (hfirst : ∀ j < k, ¬ (s.core tile j).serves id off) : s.server tile id off = some k := by
  simpa only [State.server, List.find?_range_eq_some, Bool.not_eq_true', ← Bool.not_eq_true, Core.isServing_iff, List.mem_range]
    using ⟨h, hk, hfirst⟩

end Server

/-! ### The end of the subscription -/

/-- A subscription whose end has begun, and for which `f` waits. -/
def Sub.endFor (u : Sub) (f : Option Nat) : Sub := { u with ending := true, waiters := u.waiters ++ f.toList }

/-- TUNSUB with future `f`, of the subscription that a core serves, or of none. -/
def State.unsubscribe (s : State) (t : Task) (f : Option Nat) : Option Nat → State
  | some k => s.modCore t.last.tile k fun x => { x with sub := x.sub.map fun u => u.endFor f }
  | none => match f with
    | some n => (s.complete t.vd n 5 0 0 0).closeFut t.vd n
    | none => s

theorem execTunsub_next {s s1 : State} {id off : Nat} {t : Task} {hd : CmdHead} {c : Opnd} {f : Option Nat}
    (h : s.issues (.tunsub hd c) id t) {ring : Nat × Nat}
    (hv : ringOf (viewOf (.tunsub hd c) ((Instr.tunsub hd c).sources.map t.ctx.src)).c = ring)
    (hring : t.ringAt ring.1 ring.2 = some off)
    (hrec : hd.fut.isSome = true → (s.vd t.vd).live < (s.vd t.vd).futQuota)
    (hfut : cmdFuture id t.vd hd (s.release id .tile) = .ok (f, s1)) :
    execTunsub hd c s = .next ((s1.unsubscribe t f (s1.server t.last.tile id off)).wrote id (.tunsub hd c) fun c => c) := by
  have hroom : ¬ (hd.fut.isSome = true ∧ (s.vd t.vd).futQuota ≤ (s.vd t.vd).live) :=
    fun ⟨hf, hle⟩ => Nat.not_le.2 (hrec hf) hle
  refine run_wrote_noDests h rfl ?_
  simp only [hv, hring, act_bind, act_get, if_neg hroom, act_modify, hfut]
  generalize hfound : List.find? _ (List.range 4) = o
  rw [show s1.server t.last.tile id off = o from hfound]
  cases o with
  | some k => rfl
  | none => cases f <;> rfl

/-- Settles O48: the subscription that runs is the one that TUNSUB finds. -/
theorem tunsubResults : Obligations.TunsubResults := by
  intro s s1 id off t hd c f i ring runs h hring hrec hfut
  have hnext := execTunsub_next h rfl hring hrec hfut
  refine ⟨fun hno => ?_, fun k hk hrun hfirst => ?_⟩
  · rw [State.server_none hno] at hnext
    exact hnext
  · rw [State.server_some hk hrun hfirst] at hnext
    exact hnext

end Sys2Proof.Machine
end

section
/-! What a thread has in its store buffer drained, released and acquired, its stores, and the start of an atomic: all of it
leaves the registers of every task alone (R201, R205, R434). -/

namespace Sys2Proof.Machine

/-- Where the registers, the device and the place of every task are left alone, the registers are. -/
theorem State.sameRegs_of_frame {s s' : State} (h : s'.frame = s.frame) : s.sameRegs s' := by
  intro u x hx
  obtain ⟨y, hy, hctx, -, -⟩ := State.task_of_frame ((congrFun h u).trans (State.frame_of_task hx))
  exact ⟨y, hy, hctx⟩

/-! ### Draining, releases, acquires (R173, R200, R201) -/

@[simp] theorem State.frame_send (s : State) (kind len src unit vd : Nat) (a x : Word) (g : Goal) (b : Packet) (o : OpField) :
    (s.send kind len src unit vd a x g b o).frame = s.frame := rfl

@[simp] theorem State.frame_drainFirst (s : State) (id : Nat) : (s.drainFirst id).frame = s.frame := by
  unfold State.drainFirst
  split
  · rfl
  · next t ht =>
    split
    · rfl
    · next st r _ =>
      have hleft : (s.setTask id { t with sbuf := r }).frame = s.frame := State.frame_setTask ht rfl
      dsimp only
      split <;> simp only [State.frame_flush, State.frame_send, State.frame_modTile, hleft]

@[simp] theorem State.frame_drainOne (s : State) (id : Nat) : (s.drainOne id).frame = s.frame := by
  unfold State.drainOne
  dsimp only
  split <;> simp only [State.frame_drainFirst]

@[simp] theorem State.frame_drainN (s : State) (id n : Nat) : (s.drainN id n).frame = s.frame := by
  induction n generalizing s with
  | zero => rfl
  | succ n ih => rw [State.drainN, ih, State.frame_drainOne]

@[simp] theorem State.frame_drain (s : State) (id : Nat) : (s.drain id).frame = s.frame := by
  unfold State.drain
  split
  · rfl
  · split
    · rfl
    · exact s.frame_drainN ..

@[simp] theorem State.frame_release (s : State) (id : Nat) (c : Scope) : (s.release id c).frame = s.frame := by
  cases c <;> simp only [State.release, State.releaseStores, State.ackAll, State.landAll, State.frame_flush, State.frame_drain]

@[simp] theorem State.frame_settleReleases (s : State) (id : Nat) : (s.settleReleases id).frame = s.frame := by
  unfold State.settleReleases
  split
  · rfl
  · dsimp only
    split
    · rfl
    · exact s.frame_drainN ..

@[simp] theorem State.frame_acquire (s : State) (id : Nat) (c : Scope) : (s.acquire id c).frame = s.frame := by
  unfold State.acquire
  split
  · rfl
  · dsimp only
    split
    · exact s.frame_settleReleases id
    · split <;> simp only [State.frame_modTile, State.frame_settleReleases]

/-! ### Stores and atomics -/

@[simp] theorem State.frame_dropCopy (s : State) (tile line : Nat) : (s.dropCopy tile line).frame = s.frame := by
  unfold State.dropCopy
  split <;> simp

@[simp] theorem State.frame_perform (s : State) (vd task : Nat) (st : Store) : (s.perform vd task st).frame = s.frame :=
  s.frame_performAt ..

theorem keepsFrame_reserve (vd va : Nat) (s : State) : KeepsFrame (reserve vd va) s := by
  simp only [reserve]
  refine keepsFrame_get_bind ?_
  split
  · exact keepsFrame_pure _
  · split
    · exact keepsFrame_pure _
    · split
      · exact keepsFrame_set (s.frame_modVd ..)
      · exact keepsFrame_trap ..

theorem keepsFrame_storePiece (id va : Nat) (b : List (Nat × Byte)) (h : Hint) (rel j : Bool) (s : State) :
    KeepsFrame (storePiece id va b h rel j) s := by
  simp only [storePiece]
  refine keepsFrame_get_bind ?_
  split
  · exact keepsFrame_pure _
  · next t _ =>
    refine keepsFrame_bind (keepsFrame_resolve ..) fun x s1 _ => ?_
    split
    · exact keepsFrame_error_bind rfl _
    · split
      · exact keepsFrame_bind (keepsFrame_keyOf ..) fun _ _ _ => keepsFrame_bind (keepsFrame_modify (by simp)) fun _ _ _ =>
          keepsFrame_bind (keepsFrame_keyOf ..) fun _ _ _ => keepsFrame_modify (by simp)
      · exact keepsFrame_bind (keepsFrame_reserve ..) fun _ _ _ => keepsFrame_bind (keepsFrame_budget ..) fun _ u _ =>
          keepsFrame_modify (State.frame_modTask _ _ fun _ => rfl)

theorem keepsFrame_storeFrom (id va : Nat) (b : List (Nat × Byte)) (h : Hint) (rel j : Bool) (s : State) :
    KeepsFrame (storeFrom id va b h rel j) s := by
  unfold storeFrom
  split
  · exact keepsFrame_pure _
  · exact keepsFrame_storePiece ..

theorem keepsFrame_storeBytes (id va : Nat) (b : List (Nat × Byte)) (h : Hint) (rel : Bool) (s : State) :
    KeepsFrame (storeBytes id va b h rel) s :=
  keepsFrame_bind (keepsFrame_storeFrom ..) fun _ _ _ => keepsFrame_storeFrom ..

theorem keepsFrame_atomicAt (id : Nat) (t : Task) (va n : Nat) (s : State) : KeepsFrame (atomicAt id t va n) s := by
  simp only [atomicAt]
  refine keepsFrame_bind (keepsFrame_resolve ..) fun x s1 _ => keepsFrame_bind (keepsFrame_keyOf ..) fun _ s2 _ =>
    keepsFrame_bind (keepsFrame_budget ..) fun _ s3 _ => keepsFrame_bind (keepsFrame_modify (by simp)) fun _ s4 _ =>
    keepsFrame_bind (keepsFrame_keyOf ..) fun k s5 _ => ?_
  have dropped (u : State) : KeepsFrame (do
      modify fun s => s.dropCopy t.last.tile (k / 64)
      pure (x.1, k)) u := keepsFrame_bind (keepsFrame_modify (u.frame_dropCopy ..)) fun _ _ _ => keepsFrame_pure _
  split
  · exact keepsFrame_bind (keepsFrame_modify (s5.frame_l2Drop _)) fun _ u _ => dropped u
  · split
    · exact keepsFrame_bind (keepsFrame_modify (s5.frame_l2Demand ..)) fun _ u _ => dropped u
    · exact dropped s5

/-- Settles O21: each access keeps the frames of all tasks. -/
theorem accessFrame : Obligations.AccessFrame := by
  intro s s1 id va n t c a h f b l g p k _
  have kept {α : Type} {m : Act α} {x : α} (hm : KeepsFrame m s) (h : m s = .ok (x, s1)) : s.sameRegs s1 :=
    State.sameRegs_of_frame (hm.frame x s1 h)
  exact ⟨State.sameRegs_of_frame (s.frame_release id c), State.sameRegs_of_frame (s.frame_acquire id c),
    kept (keepsFrame_resolve ..), kept (keepsFrame_loadBytes ..), kept (keepsFrame_storeBytes ..),
    kept (keepsFrame_atomicAt ..)⟩

end Sys2Proof.Machine
end

section
/-! Where a store goes (R201, R206, R434): the store buffer, the tile window, the memory at its home. -/

namespace Sys2Proof.Machine

/-! ### What of memory a write at a home changes: its bytes (R206) -/

section Writes
variable (s : State)

/-- What each step of a fold keeps of memory, the fold keeps. -/
theorem State.mem_foldl {α : Type} {f : State → α → State} (h : ∀ s a, (f s a).mem = s.mem) (l : List α) :
    (l.foldl f s).mem = s.mem :=
  List.foldlRecOn l f (motive := fun u => u.mem = s.mem) rfl fun u hu a _ => (h u a).trans hu

@[simp] theorem State.readyRecord_mem (t : Task) (st : Nat) : (s.readyRecord t st).mem = s.mem := by
  unfold State.readyRecord
  split
  · exact s.modVd_mem ..
  · rfl

@[simp] theorem State.readyTask_mem (id : Nat) (w : Option Woke) : (s.readyTask id w).mem = s.mem := by
  unfold State.readyTask
  split
  · rfl
  · split
    · rfl
    · simp

/-- Records are no part of memory, however far the wakes of one reach. -/
@[simp] theorem State.noteFut_mem (vd i n : Nat) : (s.noteFut vd i n).mem = s.mem := by
  induction n generalizing s vd i with
  | zero => rfl
  | succ n ih =>
    refine State.mem_foldl s (fun u x => ?_) _
    dsimp only
    split <;> simp only [ih, State.readyTask_mem]

@[simp] theorem State.makeReady_mem (id : Nat) (w : Option Woke) : (s.makeReady id w).mem = s.mem := by
  unfold State.makeReady
  split
  · rfl
  · split
    · rfl
    · dsimp only
      split <;> simp only [State.noteFut_mem, State.readyTask_mem]

@[simp] theorem State.wakeWhere_mem (p : Task → Wait → Bool) (w : Option Woke) : (s.wakeWhere p w).mem = s.mem := by
  refine State.mem_foldl s (fun u x => ?_) _
  split
  · split
    · exact u.makeReady_mem ..
    · rfl
  · rfl

@[simp] theorem State.touch_mem (k : Nat) : (s.touch k).mem = s.mem := by
  simp only [State.touch]
  split
  · split <;> rfl
  · split
    · split
      · exact s.modVd_mem ..
      · rfl
    · rfl

theorem State.write_mem (l : List (Nat × Byte)) : (s.write l).mem = s.mem.setAll l := by
  refine (State.mem_foldl _ (fun u b => ?_) _).trans rfl
  rw [State.wakeWhere_mem]
  split <;> simp only [State.touch_mem]

/-- A device's own writes change memory as they do of themselves. -/
theorem State.ownWrites_mem (vd : Nat) (l : List (Nat × Byte)) :
    (s.ownWrites vd fun s => s.write l).mem = s.mem.setAll l := by
  unfold State.ownWrites
  split <;> simp only [State.modVd_mem, State.write_mem]

theorem State.l2Store_mem (vd : Nat) (st : Store) : (s.l2Store vd st).mem = s.mem := by
  unfold State.l2Store
  split
  · exact (s.l2Demand_mem ..).1
  · exact (s.l2Demand_mem ..).1
  · exact (s.l2Drop_same _).mem
  · rfl

/-- With no region open no line is journalled (R193). -/
theorem State.journal_closed {vd : Nat} (h : (s.vd vd).regions = []) (va k : Nat) (pin : Bool) : s.journal vd va k pin = s := by
  simp [State.journal, Vd.regionOf, h]

end Writes

theorem map_cellsAt (k j : Nat) (l : List Byte) : (cellsAt j l).map (fun c => (k + c.1, c.2)) = cellsAt (k + j) l := by
  induction l generalizing j with
  | nil => rfl
  | cons b l ih => rw [cellsAt, List.map_cons, ih, ← Nat.add_assoc, cellsAt]

section Home
variable {s : State} {vd id : Nat} {st : Store}

theorem State.perform_refused (h : s.storeKey vd id st = none) : s.perform vd id st = s := by
  simp only [State.perform, State.performAt, h]

variable {k : Nat} {l : List Byte}

/-- Performed at its home, outside every region, a store writes its bytes. -/
theorem State.perform_mem (h : s.storeKey vd id st = some k) (hb : st.bytes = cellsAt 0 l) (hr : (s.vd vd).regions = []) :
    (s.perform vd id st).mem = s.mem.setAll (cellsAt k l) := by
  simp only [State.perform, State.performAt, h, State.journal_closed s hr, hb, map_cellsAt, Nat.add_zero]
  rw [State.ownWrites_mem, State.l2Store_mem]
  split <;> rfl

end Home

/-! ### A store that is taken, or traps -/

section Piece
variable {s s1 : State} {id va : Nat} {t : Task} {p : Phys} {b : List (Nat × Byte)}

theorem keyOf_windowKey_none {lid off : Nat} {own : Bool} (hheld : own = true ∨ s.held t.vd lid t.last.tile = false)
    (hkey : s.windowKey t.vd (if own then some t else none) lid off = none) :
    keyOf t va (.window lid off own) s = .error (.trap 6 (BitVec.ofNat 64 va) 0) := by
  have hgo : (!own && s.held t.vd lid t.last.tile) = false := by
    rcases hheld with h | h <;> simp [h]
  simp only [keyOf, act_bind, act_get, hgo, hkey, act_trap, Bool.false_eq_true, if_false]

variable (ht : s.task? id = some t)
include ht

section Ordinary
variable {a : Nat} {m : Bool} (hres : resolve id t va .store s = .ok ((.phys a m, p), s1))
include hres

theorem storePiece_buffered (h : Hint) (rel j : Bool) (hreg : (s1.vd t.vd).regions = [])
    (htab : ∀ c ∈ b, s.inTable (p.pa + c.1) = none)
    (hgrant : (s1.cluster (clusterOf t.last.tile)).grants s1.cycles b.length = true) :
    storePiece id va b h rel j s = .ok ((), (s1.grant t.last.tile b.length).modTask id fun u =>
      { u with sbuf := u.sbuf ++ [⟨va, .phys a m, b, rel, Hint.effective h p.ret, p.tier, p.level, j⟩] }) := by
  have hfind : b.find? (fun c => (s.inTable (p.pa + c.1)).isSome) = none :=
    List.find?_eq_none.2 fun c hc => by simp [htab c hc]
  have hreserve : reserve t.vd va s1 = .ok ((), s1) := by simp [reserve, Vd.regionOf, hreg]
  have hbudget : budget t (.phys a m) b.length s1 = .ok ((), s1.grant t.last.tile b.length) := by simp [budget, hgrant]
  simp only [storePiece, act_bind, act_get, ht, hres, hfind, hreserve, hbudget, act_modify]

theorem storePiece_inTable (h : Hint) (rel j : Bool) {c : Nat × Byte}
    (hfind : b.find? (fun c => (s.inTable (p.pa + c.1)).isSome) = some c) :
    storePiece id va b h rel j s = .error (.trap 6 (BitVec.ofNat 64 (va + c.1)) 0) := by
  simp only [storePiece, act_bind, act_get, ht, hres, hfind, act_trap]

end Ordinary

section Window
variable {lid off : Nat} {own : Bool} (hres : resolve id t va .store s = .ok ((.window lid off own, p), s))
include hres

/-- A store that the entry takes is performed once the buffer and the path before it are empty (R241). -/
theorem storePiece_window {d : State} {k0 k : Nat} (h : Hint) (rel j : Bool)
    (hd : d = (s.drain id).settlePath t.last.tile id (.place t.vd id (.window lid off own)) (.window lid off own) b.length)
    (hkey0 : keyOf t va (.window lid off own) s = .ok (k0, s)) (hkey : keyOf t va (.window lid off own) d = .ok (k, d)) :
    let st : Store := ⟨va, .window lid off own, b, rel, Hint.effective h p.ret, p.tier, p.level, j⟩
    storePiece id va b h rel j s = .ok ((), (d.perform t.vd id st).traffic 0x02 (flits b.length) 0 t.vd id t.last va 0
      (.window lid off own) st.op) := by
  subst hd
  simp only [storePiece, act_bind, act_get, ht, hres, hkey0, act_modify, hkey]

theorem storePiece_refused (h : Hint) (rel j : Bool) (hheld : own = true ∨ s.held t.vd lid t.last.tile = false)
    (hkey : s.windowKey t.vd (if own then some t else none) lid off = none) :
    storePiece id va b h rel j s = .error (.trap 6 (BitVec.ofNat 64 va) 0) := by
  simp only [storePiece, act_bind, act_get, ht, hres, keyOf_windowKey_none hheld hkey]

end Window

end Piece

/-- Settles O25: the ways of a store of one page by its target, and the bytes that it changes at its home. -/
theorem storesTake : Obligations.StoresTake := by
  intro s s1 id va a lid off k k0 t m own rel j p b l h st ht
  refine ⟨fun hres => storePiece_buffered ht hres h rel j, fun c hres => storePiece_inTable ht hres h rel j,
    fun hres => storePiece_window ht hres h rel j rfl, fun hres => storePiece_refused ht hres h rel j, ?_,
    State.perform_refused⟩
  intro hkey hbytes hreg hwf
  rw [State.perform_mem hkey hbytes hreg]
  refine ⟨Memory.byte_setAll_cellsAt hwf k l, fun q hq => Memory.byte_setAll_ne _ _ fun c hc => ?_⟩
  have := mem_cellsAt hc
  omega

end Sys2Proof.Machine
end

section
/-! MWAIT: the location read at its home, and what follows from the value found there (R212, R241, R401). -/

namespace Sys2Proof.Machine

theorem atomicRead_ok {s : State} {k : Nat} (h : ¬ k / 256 ∈ s.errored) (va n : Nat) :
    atomicRead va k n s = .ok (ofBytes (s.readKey k n), s) := by
  simp [atomicRead, h]

/-- What reading a location of `n` bytes does to the L2: the line of an ordinary page is demanded, that of a memory-side one
dropped (R174, R179). -/
def State.l2Read (s : State) (vd : Nat) (g : Target) (p : Phys) (n : Nat) : State :=
  match g with
  | .phys q m => if m then s.l2Drop (q / 256) else s.l2Demand vd p.tier q n p.ret false
  | _ => s

/-- The access of an MWAIT that found `x`: its effect on the L2, and its packets. -/
def State.mwaitSent (s : State) (id : Nat) (t : Task) (va n : Nat) (g : Target) (p : Phys) (y : Word) (c : Scope) (x : Nat) :
    State :=
  (s.l2Read t.vd g p n).traffic 4 0 0 t.vd id t.last va y g { size := n, scope := c.code.toNat } (BitVec.ofNat 64 x)

/-- What MWAIT answers of a location that it reads in the state `u`: after what waits in the buffer and on the path (R241). It
parks on the location's block where it finds the compared value, else returns what it finds, with an acquire. -/
theorem execMwait_reads {s s1 s2 u : State} {id k k0 x : Nat} {t : Task} {d a b : GReg} {w : Bool} {c : Scope} {g : Target}
    {p : Phys} (hwoke : t.woke = none) (hva : (t.ctx.src a).toNat % width w = 0)
    (hres : resolve id t (t.ctx.src a).toNat .load s = .ok ((g, p), s1)) (hhost : ∀ y, g ≠ .host y)
    (hpeer : ∀ i y, g ≠ .peer i y) (hkey0 : keyOf t (t.ctx.src a).toNat g s1 = .ok (k0, s1))
    (hbudget : budget t g 8 s1 = .ok ((), s2))
    (hu : (s2.drain id).settlePath t.last.tile id (.place t.vd id g) g (width w) = u)
    (hkey : keyOf t (t.ctx.src a).toNat g u = .ok (k, u)) (herr : ¬ k / 256 ∈ u.errored)
    (hx : ofBytes (u.readKey k (width w)) = x) :
    ∃ body, execMwait d a b w c s = run (.mwait d a b w c) body s ∧
      body id t ((Instr.mwait d a b w c).sources.map t.ctx.src) s =
        let sent := u.mwaitSent id t (t.ctx.src a).toNat (width w) g p (t.ctx.src b) c x
        if x = (t.ctx.src b).toNat % 2 ^ (8 * width w) then .error (.park (.monitor (k / 256)) sent)
        else .ok ({ vals := [BitVec.ofNat 64 x] }, sent.acquire id c) := by
  refine ⟨_, rfl, ?_⟩
  have hread : atomicRead (t.ctx.src a).toNat k (width w) u = .ok (x, u) := hx ▸ atomicRead_ok herr ..
  have hunwoken : t.woke ≠ some .done := by simp [hwoke]
  cases g
  case host y => exact absurd rfl (hhost y)
  case peer i y => exact absurd rfl (hpeer i y)
  all_goals
    simp only [Instr.sources, List.map_cons, List.getD_cons_zero, List.getD_cons_succ, hva, act_bind, hres, hkey0, hbudget,
      act_modify, hu, hkey, hread, hunwoken, ne_eq, not_true_eq_false, not_false_eq_true, true_and, if_false]
    split <;> rfl

/-- Settles O29: by what MWAIT answers of the location that it reads. -/
theorem mwaitResults : Obligations.MwaitResults := by
  intro s s1 s2 id t d a b w c g p k k0 h hd hdel hwoke n va hva hres hhost hpeer hkey0 hbudget drained hkey herr x met sent
  obtain ⟨body, hexec, hbody⟩ := execMwait_reads (d := d) (b := b) (c := c) hwoke hva hres hhost hpeer hkey0 hbudget
    (u := drained) rfl hkey herr (x := x) rfl
  have hsent : drained.mwaitSent id t va n g p (t.ctx.src b) c x = sent := by
    cases g with
    | phys q m => cases m <;> rfl
    | host | peer | window => rfl
  replace hbody := hsent ▸ hbody
  refine ⟨fun hne => ?_, fun heq ⟨u, hu, hstop⟩ => ?_⟩
  · exact hexec.trans (run_wrote h (hbody.trans (if_neg hne)) (by simpa [Instr.dests] using hd))
  · exact hexec.trans (run_park h (hbody.trans (if_pos heq)) hu hstop)

end Sys2Proof.Machine
end

section
/-! Semaphores, commands, the host region, accesses of hosts and peers, links, channels and apertures (R216, R324, R326 to
R332). -/

namespace Sys2Proof.Machine

variable {s : State} {port : Nat}

/-! ### Semaphores (R326) -/

section Semaphores
variable {sem : Nat} (hp : port < 2) (hs : sem < 32)

include hp hs in
theorem execSemClaim_free (h : (s.sems.toList.getD sem 0).toNat = 0) :
    execSemClaim port sem s = .next { s with sems := s.sems.setIfInBounds sem (BitVec.ofNat 2 (port + 1)) } := by
  have hcode : (port + 1) % 4 = port + 1 := Nat.mod_eq_of_lt (by omega)
  simp only [execSemClaim, State.semWrite, hp, hs, hcode, h, and_self, if_true]

include hp in
theorem execSemClaim_owned (h : (s.sems.toList.getD sem 0).toNat ≠ 0) : execSemClaim port sem s = .next s := by
  have hcode : (port + 1) % 4 = port + 1 := Nat.mod_eq_of_lt (by omega)
  have hzero : ¬ port + 1 = 0 := Nat.succ_ne_zero port
  simp only [execSemClaim, State.semWrite, hcode, h, hzero, and_false, false_and, if_false, ite_self]

include hp hs in
theorem execSemFree_owner (h : (s.sems.toList.getD sem 0).toNat = port + 1) :
    execSemFree port sem s = .next { s with sems := s.sems.setIfInBounds sem 0 } := by
  have hcode : ¬ 0 % 4 = port + 1 := by omega
  simp only [execSemFree, State.semWrite, hp, hs, hcode, h, Nat.zero_mod, and_self, false_and, if_true, if_false]

theorem execSemFree_other (h : (s.sems.toList.getD sem 0).toNat ≠ port + 1) : execSemFree port sem s = .next s := by
  have hcode : ¬ 0 % 4 = port + 1 := by omega
  simp only [execSemFree, State.semWrite, hcode, h, and_false, false_and, if_false, ite_self]

end Semaphores

/-! ### Commands (R327 to R329) -/

section Commands
variable {addr : Nat} {r : CmdRecord}

theorem execCreate_started (h : s.cmdstat ≠ 1) (hp : port < 2) (ho : r.op ≠ 2) :
    execCreate port addr r s = .next (s.startCreate port addr r) := by
  rw [execCreate, if_neg (not_or.2 ⟨h, not_or.2 ⟨Nat.not_le.2 hp, ho⟩⟩), event_some]

theorem execDestroy_started (h : s.cmdstat ≠ 1) (hp : port < 2) (ho : r.op = 2) :
    execDestroy port addr r s = .next (s.startDestroy port addr r) := by
  rw [execDestroy, if_neg (not_or.2 ⟨h, not_or.2 ⟨Nat.not_le.2 hp, not_not.2 ho⟩⟩), event_some]

theorem State.startCreate_created (ho : r.op = 1) (ha : addr % 128 = 0) :
    s.startCreate port addr r = (s.create port r).2.beginCommand addr (s.create port r).1 none :=
  if_neg (by simp [ho, ha])

theorem State.startCreate_outOfRange (ho : r.op ≠ 1) : s.startCreate port addr r = s.beginCommand addr 5 none :=
  if_pos (.inl ho)

/-- DESTROY of a device that is there, from the owner of its semaphore, stops its tasks. -/
theorem State.startDestroy_stops (hsem : s.holdsSem port r = true) (hr : r.reserved = false) (ha : addr % 128 = 0)
    (hn : r.vd < 64) (hv : (look s.vds r.vd).isSome = true) : s.startDestroy port addr r =
      ((s.modVd r.vd fun v => { v with destroying := true }).stopDevice r.vd).beginCommand addr 2 (some r.vd) := by
  have hrange : ¬ (r.reserved = true ∨ addr % 128 ≠ 0 ∨ 64 ≤ r.vd) := by simp [hr, ha, hn]
  simp [State.startDestroy, hsem, hrange, ← Option.not_isSome, hv]

/-- A command is ignored while another one runs. -/
theorem command_ignored (h : s.cmdstat = 1) :
    execCreate port addr r s = .next s ∧ execDestroy port addr r s = .next s := by
  simp only [execCreate, execDestroy, h, true_or, if_true, event_none, and_self]

theorem execCommandDone_finished (h : s.cmdstat = 1) (hd : s.dying = none) :
    execCommandDone s = .next { s with cmdstat := s.cmdresult } := by
  simp only [execCommandDone, h, hd, ne_eq, not_true_eq_false, if_false, event_some]

theorem execCommandDone_removed {vd : Nat} (h : s.cmdstat = 1) (hd : s.dying = some vd) (hv : s.deviceRuns vd = false) :
    execCommandDone s = .next { s.removeDevice vd with cmdstat := s.cmdresult, dying := none } := by
  simp only [execCommandDone, h, hd, hv, ne_eq, not_true_eq_false, Bool.false_eq_true, if_false, event_some]

end Commands

/-! ### The host region (R324) -/

section Region
variable {n bytes : Nat} {y : BitVec 64}

theorem execHostRegionWrite_aborted (h : s.regionWrite port n bytes y = none) :
    execHostRegionWrite port n bytes y s = .next { s with response := [2] } := by
  rw [execHostRegionWrite, h]
  rfl

theorem State.regionWrite_semaphore (ha : n % 8 = 0) (hn : n < 0x100) :
    s.regionWrite port n 8 y = some (s.semWrite port (n / 8) y.toNat) := by
  simp only [State.regionWrite, ha, hn, ne_eq, not_true_eq_false, or_self, if_true, if_false]

/-- A control block lists no register past its fifth. -/
theorem State.blockWrite_unlisted {off : Nat} (vd : Nat) (h : 0x20 < off) : s.blockWrite vd off y = none := by
  have h0 : ¬ off = 0 := by omega
  have h8 : ¬ off = 8 := by omega
  have h10 : ¬ off = 0x10 := by omega
  have h18 : ¬ off = 0x18 := by omega
  have h20 : ¬ off = 0x20 := by omega
  simp only [State.blockWrite, h0, h8, h10, h18, h20, if_false]

/-- An offset that is no register of the semaphores, the command, a control block or the window takes no write. -/
theorem State.regionWrite_unlisted (h : ¬ (n < 0x100 ∨ n = 0x1000 ∨ n = 0x1008 ∨
    (0x10000 ≤ n ∧ n < 0x50000 ∧ n % 0x1000 ≤ 0x20) ∨
    (0x1000000 ≤ n ∧ n < 0x2000000 ∧ windowReg (n - 0x1000000) ≠ none))) : s.regionWrite port n bytes y = none := by
  simp only [not_or] at h
  obtain ⟨hsem, haddr, hstat, hblock, hwindow⟩ := h
  have hblocks : ((blockAt n).bind fun b => s.blockWrite b.1 b.2 y) = none := by
    unfold blockAt
    split
    · next hn => exact State.blockWrite_unlisted _ (by simp only at hn ⊢; omega)
    · rfl
  simp only [State.regionWrite, hsem, haddr, hstat, hblocks, if_false]
  split
  · rfl
  · split
    · next hn =>
      have hreg : windowReg (n - 0x1000000) = none := by
        by_contra hreg
        exact hwindow ⟨hn.1, hn.2, hreg⟩
      rw [hreg, Option.map_none]
    · rfl

end Region

/-! ### CXL.mem and peers (R216, R330) -/

section Accesses
variable {a : MemAccess}

/-- An access that is for no device, and that no monitor watches, is performed. -/
theorem State.outside_unowned (hd : s.devicesOf a.addr a.bytes = []) (hw : s.watchers a.addr a.bytes = []) :
    s.outside a = s.access a := by
  simp [State.outside, hd, hw]

theorem execCxlMemAccess_unmapped (h : s.hdmCommitted = false ∨ a.addr < s.hdmBase) :
    execCxlMemAccess a s = .next { s with response := [1] } :=
  if_pos (by rcases h with h | h <;> simp [h])

/-- The decoder subtracts its base from the host's address. -/
theorem execCxlMemAccess_performed {b : MemAccess} (hb : b = { a with addr := a.addr - s.hdmBase })
    (hc : s.hdmCommitted = true) (ha : s.hdmBase ≤ a.addr) (hr : s.reaches b = true) (hd : s.devicesOf b.addr b.bytes = [])
    (hw : s.watchers b.addr b.bytes = []) : execCxlMemAccess a s = .next (s.access b) := by
  simp only [execCxlMemAccess, ← hb, hc, hr, Nat.not_lt.2 ha, State.outside_unowned hd hw, Bool.not_true, Bool.false_eq_true,
    or_self, if_false]

theorem execPeerAccessArrival_performed (hr : s.reaches a = true) (hd : s.devicesOf a.addr a.bytes = [])
    (hw : s.watchers a.addr a.bytes = []) : execPeerAccessArrival a s = .next (s.access a) := by
  rw [execPeerAccessArrival, if_neg (by simp [hr]), State.outside_unowned hd hw]

theorem execPeerAccessArrival_unmapped (hr : s.reaches a = false) :
    execPeerAccessArrival a s = .next { s with response := [1] } := if_pos (by simp [hr])

end Accesses

/-! ### Links, channels, apertures (R331, R332) -/

/-- A lost enqueue completes its future STALE (R332). -/
def State.loseEnqueue (s : State) (p : Pkt) : State := match p.body with
  | .enqueue v f .. => (s.complete v f 5 0 0 1).closeFut v f
  | _ => s

theorem execPeerLinkTimeout_eq (s : State) (port : Nat) : execPeerLinkTimeout port s =
    .next ((s.packets.filter (s.portCarries port)).foldl State.loseEnqueue
      { s with packets := s.packets.filter fun p => !s.portCarries port p }) := by
  rw [execPeerLinkTimeout, List.partition_eq_filter_filter]
  rfl

theorem execPeerLinkTimeout_idle (h : s.packets.all (fun p => !s.portCarries port p) = true) :
    execPeerLinkTimeout port s = .next s := by
  have hlost : s.packets.filter (s.portCarries port) = [] := by simpa using h
  have hkept : s.packets.filter (fun p => !s.portCarries port p) = s.packets :=
    List.filter_eq_self.2 fun p hp => List.all_eq_true.1 h p hp
  rw [execPeerLinkTimeout_eq, hlost, hkept, List.foldl_nil]

theorem execPseudoChannelRetirement_retired {n : Nat} (hn : n < 512) (hr : n ∉ s.retired) :
    execPseudoChannelRetirement n s = .next { s with retired := n :: s.retired } := by
  rw [execPseudoChannelRetirement, if_neg (by simp [hr, hn]), event_some]

theorem execApertureTableWrite_written {i vd : Nat} (x : BitVec 128) (hi : i < 16) (hv : (look s.vds vd).isSome = true) :
    execApertureTableWrite vd i x s = .next (s.modVd vd fun v =>
      { v with apertures := put v.apertures i (x &&& 0xFFFFFFFFFFFFFFFF00000000FFFFFC0D) }) := by
  rw [execApertureTableWrite, if_neg (by simp [← Option.not_isSome, hv, hi]), event_some]

/-- Settles O59: each event by its own equation. -/
theorem hostEvents : Obligations.HostEvents := by
  intro s port sem addr n bytes i vd r a x y own
  refine ⟨execSemClaim_free, fun hp _ => execSemClaim_owned hp, execSemFree_owner, fun _ _ => execSemFree_other, rfl, ?_, ?_,
    ?_, command_ignored, execCommandDone_finished, execCommandDone_removed, ?_, ?_, ?_, execCxlMemAccess_unmapped,
    execCxlMemAccess_performed rfl, execPeerAccessArrival_performed, execPeerAccessArrival_unmapped, rfl,
    execPeerLinkTimeout_eq s port, execPeerLinkTimeout_idle, execPseudoChannelRetirement_retired,
    execApertureTableWrite_written x⟩
  · intro h hp ho ha
    exact (execCreate_started h hp (by omega)).trans (congrArg _ (State.startCreate_created ho ha))
  · intro h hp ho hsem hr ha hn hv
    exact (execDestroy_started h hp ho).trans (congrArg _ (State.startDestroy_stops hsem hr ha hn hv))
  · intro h hp h1 h2
    exact (execCreate_started h hp h2).trans (congrArg _ (State.startCreate_outOfRange h1))
  · exact fun h => execHostRegionWrite_aborted (if_pos h)
  · intro ha hn
    show execHostRegionWrite port n 8 y s = _
    rw [execHostRegionWrite, State.regionWrite_semaphore ha hn]
    rfl
  · exact fun h => execHostRegionWrite_aborted (State.regionWrite_unlisted h)

end Sys2Proof.Machine
end

section
/-! Trap entry (R266), and why a task need not return from a trap by ERET (R268): it may have done the ERET already. -/

namespace Sys2Proof.Machine

/-! ### Trap entry (R266, R267) -/

section Entry
variable {s : State} {id : Nat} {t : Task}

/-- A TVEC that is settled is the one that a trap goes to, and no free value is drawn for it (R433). -/
theorem State.tvecOf_settled (h : s.tvecSettled t) : s.tvecOf t.vd t.last.tile = ((s.vd t.vd).tvec, s) := by
  have : ¬ (s.within (s.vd t.vd).tvecChanged t.last.tile 64 = true ∧ (s.vd t.vd).tvecOld ≠ (s.vd t.vd).tvec) := by
    rintro ⟨hw, hne⟩
    rcases h with h | h
    · simp [h] at hw
    · exact hne h
  simp only [State.tvecOf, if_neg this]

/-- A doomed task is stopped where it traps (R131). -/
theorem State.takeTrap_doomed (ht : s.task? id = some t) (hd : t.delivered = true) (cause : Nat) (tval : Word) (code : Nat) :
    s.takeTrap id cause tval code = s.setTask id { t with status := .stopping (some t.last) } := by
  simp only [State.takeTrap, ht, hd, if_true]

variable (ht : s.task? id = some t) (hd : t.delivered = false) (hr : t.waitReacher = none) (hv : s.tvecSettled t)
include ht hd hr hv

/-- A trap in supervisor mode, or with no TVEC, ends the task. -/
theorem State.takeTrap_ends (h : (s.vd t.vd).tvec = 0 ∨ t.ctx.mode = .supervisor) (cause : Nat) (tval : Word) (code : Nat) :
    s.takeTrap id cause tval code = s.endTask id (.failed cause) := by
  simp only [State.takeTrap, ht, hd, hr, State.tvecOf_settled hv, if_pos h.symm, Bool.false_eq_true, if_false]

/-- Any other trap enters the handler; TSTATUS shows the VREP that it breaks off. -/
theorem State.takeTrap_enters (hvec : (s.vd t.vd).tvec ≠ 0) (hm : t.ctx.mode = .task) (cause : Nat) (tval : Word) (code : Nat) :
    s.takeTrap id cause tval code = s.setTask id (t.trapped (s.vd t.vd).tvec cause tval code) := by
  have : ¬ (t.ctx.mode = .supervisor ∨ (s.vd t.vd).tvec = 0) := by
    rintro (h | h)
    · simp [hm] at h
    · exact hvec h
  simp only [State.takeTrap, ht, hd, hr, State.tvecOf_settled hv, if_neg this, Bool.false_eq_true, if_false, Task.trapped]
  cases t.ctx.running <;> rfl

end Entry

/-- Settles O9: what a trap does by the task that takes it, with the TVEC that is settled. -/
theorem trapEntry : Obligations.TrapEntry := fun _ _ _ cause code tval ht hr hv =>
  ⟨fun hd hvec hm => State.takeTrap_enters ht hd hr hv hvec hm cause tval code,
    fun hd h => State.takeTrap_ends ht hd hr hv h cause tval code,
    fun hd => State.takeTrap_doomed ht hd cause tval code⟩

/-! ### An ERET that has been done (R268) -/

/-- A handler of which the ERET at its pc is kept as done; TEPC is 0x1000, and TSTATUS zero. -/
def taskPastEret : Task :=
  { vd := 0, ident := .ordinary 0, status := .running ⟨0, 0, 0⟩, ctx := { mode := .supervisor, tepc := 0x1000 },
    kept := [{ pc := 0, mode := .supervisor, instr := some .eret, vals := [] }] }

/-- It is on the thread whose turn it is. -/
def statePastEret : State := { tasks := [(0, taskPastEret)], cur := ⟨0, 0, 0⟩ }

theorem exec_statePastEret_pc : pcAfter (exec .eret statePastEret) = some 4 := by decide +kernel

/-- Refutes O11: nothing in its hypotheses says that nothing is kept for the ERET (`State.issues` would), and a task that has
done its ERET only goes on to the next word: here 4, where the statement has the address in TEPC. `Instr.keeps` makes no such
record of an ERET, but the statement is about every state. -/
theorem not_eretReturns : ¬ Obligations.EretReturns := by
  intro h
  obtain ⟨-, hback⟩ := h statePastEret 0 taskPastEret ⟨rfl, rfl⟩ rfl rfl
  obtain ⟨v, hexec, -⟩ := hback rfl
  have hpc : some 4 = some (0x1000 : Word) := by
    rw [← exec_statePastEret_pc, hexec, pcAfter, State.task?_setTask]
    rfl
  exact absurd hpc (by decide)

end Sys2Proof.Machine
end

section
/-! TINV: the first turn of it, and the later ones while a command pins what it removes (R257, R442). -/

namespace Sys2Proof.Machine

/-- The commands that pin a translation which `gone` names (R256). -/
def State.holders (s : State) (gone : TlbEntry → Bool) : List Nat :=
  (s.pinners.filter fun c => c.pins.any gone).map fun c => c.id

section Invalidate
variable {s : State} {id : Nat} {t : Task} {gone : TlbEntry → Bool} {within : Nat → Bool}

/-! ### What the invalidation answers -/

theorem invalidate_done (h0 : t.tinv = none) (hn : s.holders gone = []) :
    invalidate id t gone within s = .ok ({}, (s.forget gone).performWhere t.vd within) := by
  have he : (s.holders gone).isEmpty = true := by simpa using hn
  rw [State.holders] at he
  simp only [invalidate, act_bind, act_get, h0, he, if_true, act_set, act_pure]

theorem invalidate_held (h0 : t.tinv = none) (hn : s.holders gone ≠ []) :
    invalidate id t gone within s = .error (.over
      (((s.forget gone).performWhere t.vd within).modTask id fun u => { u with tinv := some (s.holders gone) })) := by
  have he : (s.holders gone).isEmpty = false := by simpa using hn
  rw [State.holders] at he
  simp only [invalidate, act_bind, act_get, h0, he, Bool.false_eq_true, if_false, act_throw, State.holders]

variable {l : List Nat} (hl : t.tinv = some l)
include hl

theorem invalidate_waits (hp : s.pinners.any (fun c => c.id ∈ l) = true) :
    invalidate id t gone within s = .error (.over s) := by
  simp only [invalidate, act_bind, act_get, hl, hp, if_true, act_throw]

theorem invalidate_free (hp : s.pinners.any (fun c => c.id ∈ l) = false) :
    invalidate id t gone within s = .ok ({}, s.modTask id fun u => { u with tinv := none }) := by
  simp only [invalidate, act_bind, act_get, hl, hp, Bool.false_eq_true, if_false, act_pure, act_set]

end Invalidate

/-! ### An instruction that invalidates -/

section Tinv
variable {s : State} {i : Instr} {id : Nat} {t : Task} {body : Nat → Task → List Word → Act Done}
  {gone : TlbEntry → Bool} {within : Nat → Bool} (h : s.issues i id t) (hd : i.dests = [])
  (hb : body id t (i.sources.map t.ctx.src) s = invalidate id t gone within s)
include h hd hb

/-- The first turn removes the translations and performs the stores; with none of them pinned it is the only one. -/
theorem run_invalidate_first (h0 : t.tinv = none) :
    let s1 := (s.forget gone).performWhere t.vd within
    (s.holders gone = [] → run i body s = .next (s1.wrote id i fun c => c)) ∧
    (s.holders gone ≠ [] → run i body s = .next (s1.modTask id fun u => { u with tinv := some (s.holders gone) })) := by
  refine ⟨fun hn => ?_, fun hn => run_over h (hb.trans (invalidate_held h0 hn))⟩
  rw [run_wrote h (hb.trans (invalidate_done h0 hn)) (by simp [hd]), hd]
  rfl

/-- A later turn waits for the commands that the first one found, and removes nothing more. -/
theorem run_invalidate_again {l : List Nat} (hl : t.tinv = some l) :
    (s.pinners.any (fun c => c.id ∈ l) = true → run i body s = .next s) ∧
    (s.pinners.any (fun c => c.id ∈ l) = false → run i body s =
      .next ((s.modTask id fun u => { u with tinv := none }).wrote id i fun c => c)) := by
  refine ⟨fun hp => run_over h (hb.trans (invalidate_waits hl hp)), fun hp => ?_⟩
  rw [run_wrote h (hb.trans (invalidate_free hl hp)) (by simp [hd]), hd]
  rfl

end Tinv

/-! ### The two forms -/

/-- TINV names the translations and the stores of the page around its address, at the size of the largest copy of it. -/
theorem exec_tinv (a : GReg) : ∃ body, exec (.tinv a) = run (.tinv a) body ∧
    ∀ (s : State) (id : Nat) (t : Task), let va := (t.ctx.src a).toNat
      let z := pageSize (s.pageAround t.vd va)
      body id t ((Instr.tinv a).sources.map t.ctx.src) s =
        invalidate id t (fun x => x.vd = t.vd && (x.vpn * pageSize x.level) / z == va / z) (fun w => w / z == va / z) s :=
  ⟨_, rfl, fun s id t => by simp only [Instr.sources, List.map_cons, List.map_nil, List.getD_cons_zero, act_bind, act_get]⟩

/-- TINV of all names every translation and store of the device. -/
theorem exec_tinvAll : ∃ body, exec .tinvAll = run .tinvAll body ∧
    ∀ (s : State) (id : Nat) (t : Task), body id t (Instr.tinvAll.sources.map t.ctx.src) s =
      invalidate id t (fun x => x.vd = t.vd) (fun _ => true) s :=
  ⟨_, rfl, fun _ _ _ => rfl⟩

/-- Settles O46: both forms invalidate, by what they name; a turn is the first or a later one. -/
theorem tinvResults : Obligations.TinvResults := by
  intro s id t a
  obtain ⟨body, hexec, hbody⟩ := exec_tinv a
  obtain ⟨bodyAll, hexecAll, hbodyAll⟩ := exec_tinvAll
  refine ⟨fun h h0 => ?_, fun h h0 => ?_, fun i l hi h hl => ?_⟩
  · rw [hexec]
    exact run_invalidate_first h rfl (hbody s id t) h0
  · rw [hexecAll]
    exact run_invalidate_first h rfl (hbodyAll s id t) h0
  · rcases hi with rfl | rfl
    · rw [hexec]
      exact run_invalidate_again h rfl (hbody s id t) hl
    · rw [hexecAll]
      exact run_invalidate_again h rfl (hbodyAll s id t) hl

end Sys2Proof.Machine
end

section
/-! Elementwise vector instructions: what the lanes of a written register hold, and how an instruction that raises flags ends
(R41, R110, R280 to R283, R452, R453). -/

namespace Sys2Proof.Machine

/-! ### The lanes of a register (R41) -/

/-- A list with the number of each element, where the list gives each number its value. -/
theorem zipIdx_map_range {α : Type} (f : Nat → α) (n : Nat) :
    ((List.range n).map f).zipIdx = (List.range n).map fun i => (f i, i) :=
  List.ext_getElem (by simp) (by simp)

/-- A field of `b` bits inside the low `m` bits of a number. -/
theorem field_mod_two_pow {a b m : Nat} (h : a + b ≤ m) (n : Nat) : n % 2 ^ m / 2 ^ a % 2 ^ b = n / 2 ^ a % 2 ^ b := by
  obtain ⟨c, rfl⟩ := Nat.exists_eq_add_of_le h
  rw [Nat.add_assoc, Nat.pow_add, Nat.mod_mul_right_div_self]
  exact Nat.mod_mod_of_dvd _ (Nat.pow_dvd_pow 2 (Nat.le_add_right b c))

theorem packLanes_field (w : Nat) (l : List Nat) (i : Nat) :
    packLanes w l / 2 ^ (w * i) % 2 ^ w = l.getD i 0 % 2 ^ w := by
  induction l generalizing i with
  | nil => simp [packLanes]
  | cons x l ih =>
    cases i with
    | zero => simp [packLanes]
    | succ i =>
      have hrest : (x % 2 ^ w + 2 ^ w * packLanes w l) / 2 ^ w = packLanes w l := by
        rw [Nat.add_mul_div_left _ _ (Nat.two_pow_pos w), Nat.div_eq_of_lt (Nat.mod_lt _ (Nat.two_pow_pos w)), Nat.zero_add]
      rw [packLanes, Nat.mul_succ, Nat.add_comm (w * i), Nat.pow_add, ← Nat.div_div_eq_div_mul, hrest, ih,
        List.getD_cons_succ]

/-- Every lane lies inside the register. -/
theorem VTy.lane_inside {t : VTy} {i : Nat} (h : i < t.lanes) : t.width * i + t.width ≤ 256 :=
  calc t.width * (i + 1) ≤ t.width * t.lanes := Nat.mul_le_mul_left _ h
    _ ≤ 256 := Nat.mul_div_le 256 t.width

/-- A lane of a register that was put together from a list. -/
theorem lane_ofLanes {t : VTy} {i : Nat} (h : i < t.lanes) (l : List Nat) :
    lane t (ofLanes t.width l) i = l.getD i 0 % 2 ^ t.width := by
  rw [lane, ofLanes, BitVec.toNat_ofNat, field_mod_two_pow (VTy.lane_inside h), packLanes_field]

theorem lanesOf_eq_map (t : VTy) (v : VWord) : lanesOf t.width v = (List.range t.lanes).map (lane t v) := rfl

/-! ### Results by lane -/

/-- A lane of a result with its flags: `v` where the lane is active, else what it held. -/
def laneResult (t : VTy) (m : Word32) (old : VWord) (v : Nat → Nat × Nat) (l : Nat) : Nat × Nat :=
  if active t m l then v l else (lane t old l, 0)

/-- The lanes of a result. -/
def blend (t : VTy) (m : Word32) (old : VWord) (v : Nat → Nat × Nat) : List Nat :=
  (List.range t.lanes).map fun l => (laneResult t m old v l).1

theorem lane_blend {t : VTy} {l : Nat} (h : l < t.lanes) (m : Word32) (old : VWord) (v : Nat → Nat × Nat) :
    lane t (ofLanes t.width (blend t m old v)) l = (if active t m l then (v l).1 else lane t old l) % 2 ^ t.width := by
  rw [lane_ofLanes h, blend, List.getD_eq_getElem _ _ (by simpa using h), List.getElem_map, List.getElem_range, laneResult,
    apply_ite Prod.fst]

/-- A lane that is not active raises no flag. -/
theorem flagsOf_eq_foldl (t : VTy) (m : Word32) (old : VWord) (v : Nat → Nat × Nat) :
    flagsOf t m v = (List.range t.lanes).foldl (fun n l => n ||| (laneResult t m old v l).2) 0 := by
  unfold flagsOf laneResult
  congr 1
  funext n l
  cases active t m l <;> simp

/-- What `lanewise` writes, and the flags it raises, depend on the lanes of the register only. -/
theorem lanewise_eq_finish {t : VTy} {f v : Nat → Nat × Nat} (h : ∀ l < t.lanes, f l = v l) (d : VReg) (k : MReg) (id : Nat)
    (tk : Task) : lanewise t d k id tk f = finish id (flagsOf t (tk.ctx.getM k) v)
      fun c => c.setV d (ofLanes t.width (blend t (tk.ctx.getM k) (tk.ctx.getV d) v)) := by
  have hres : (((lanesOf t.width (tk.ctx.getV d)).zipIdx).map fun x =>
        if active t (tk.ctx.getM k) x.2 then f x.2 else (x.1, 0)) =
      (List.range t.lanes).map (laneResult t (tk.ctx.getM k) (tk.ctx.getV d) v) := by
    rw [lanesOf_eq_map, zipIdx_map_range, List.map_map]
    exact List.map_congr_left fun l hl => by simp only [Function.comp_apply, h l (List.mem_range.1 hl), laneResult]
  simp only [lanewise, hres, List.foldl_map, List.map_map, Function.comp_def, flagsOf_eq_foldl _ _ (tk.ctx.getV d), blend]

/-! ### The vector queue (R110) and the end of an instruction (R283) -/

theorem enterQueue_ok {s : State} {t : Task} (h : s.vroom t) (i : Instr) (id : Nat) :
    enterQueue i id t s = .ok ((), s.queued id t i) := by
  simp only [enterQueue, act_bind, act_get, if_neg (Nat.not_le.2 h), act_set, State.queued]

section Finish
variable {s : State} {id : Nat} {t : Task} {fl : Nat} (ht : s.task? id = some t)
include ht

/-- With no raised flag enabled, the flags are set and the results written. -/
theorem finish_ok (h : fctlEnables t.ctx.fctl &&& fl = 0) (f : Ctx → Ctx) : finish id fl f s =
    .ok ({}, s.modTask id fun u => { u with ctx := f { u.ctx with fstat := u.ctx.fstat ||| BitVec.ofNat 64 fl } }) := by
  simp only [finish, act_bind, act_get, ht, h, ne_eq, not_true_eq_false, if_false, act_set, act_pure, State.modTask_of ht]

/-- An enabled flag traps, with the flags set and nothing written. -/
theorem finish_traps (h : fctlEnables t.ctx.fctl &&& fl ≠ 0) (f : Ctx → Ctx) : finish id fl f s =
    .error (.over ((s.modTask id fun u =>
      { u with ctx := { u.ctx with fstat := u.ctx.fstat ||| BitVec.ofNat 64 fl } }).takeTrap id 0x11 0 (0xF00 + fl % 32))) := by
  simp only [finish, act_bind, act_get, ht, if_pos h, act_throw, State.modTask_of ht]

end Finish

/-! ### An elementwise instruction -/

section Elementwise
variable {s : State} {id : Nat} {t : Task} {i : Instr} {d a b : VReg} {k : MReg} {ty : VTy}
  {f : Rm → Bool → Nat → Nat → Nat → Nat × Nat} {v : Nat → Nat × Nat}

/-- Its body enters the queue and ends with a result for each lane. -/
theorem elementwise_eq_finish (hroom : s.vroom t)
    (hv : ∀ l < ty.lanes, f (fctlRm t.ctx.fctl).arith (fctlFtz t.ctx.fctl) (lane ty (t.ctx.getV a) l)
      (lane ty (t.ctx.getV b) l) (lane ty (t.ctx.getV d) l) = v l) (vals : List Word) :
    elementwise i d a b k ty f id t vals s = finish id (flagsOf ty (t.ctx.getM k) v)
      (fun c => c.setV d (ofLanes ty.width (blend ty (t.ctx.getM k) (t.ctx.getV d) v))) (s.queued id t i) := by
  simp only [elementwise, act_bind, enterQueue_ok hroom, lanewise_eq_finish hv]

/-- A body that ends by writing a vector register, of an instruction that names no general register. -/
theorem run_finish_setV {body : VBody} {fl : Nat} {r : VWord} (h : s.issues i id t) (hs : i.sources = [])
    (hd : i.dests = []) (hb : body id t [] s = finish id fl (fun c => c.setV d r) (s.queued id t i)) :
    (fctlEnables t.ctx.fctl &&& fl = 0 → run i body s = .next ((s.queued id t i).wrote id i fun c =>
      { c.setV d r with fstat := c.fstat ||| BitVec.ofNat 64 fl })) ∧
    (fctlEnables t.ctx.fctl &&& fl ≠ 0 → run i body s = .next (((s.queued id t i).modTask id fun u =>
        { u with ctx := { u.ctx with fstat := u.ctx.fstat ||| BitVec.ofNat 64 fl } }).takeTrap id 0x11 0
          (0xF00 + fl % 32))) := by
  have ht : (s.queued id t i).task? id = some t := h.1.2
  have hbody : body id t (i.sources.map t.ctx.src) s = finish id fl (fun c => c.setV d r) (s.queued id t i) := by
    rw [hs]
    exact hb
  refine ⟨fun h0 => ?_, fun h0 => run_over h (hbody.trans (finish_traps ht h0 _))⟩
  rw [run_wrote h (hbody.trans (finish_ok ht h0 _)) (by simp [hd])]
  simp only [State.wrote, State.modTask_modTask, hs, hd]
  rfl

end Elementwise

/-! ### The functions of the instructions (R453) -/

/-- Floating lanes of an arithmetic instruction. -/
theorem arith_of_floats {t : VTy} {g : Int → Int → Int → Int} {h : Rm → Num → Num → Num → Num × Bool} {rm : Rm} {ftz : Bool}
    {x y z : Nat} {p : Nat × Nat}
    (hp : (fmtOf t).map (fun f => f.finish rm ftz (h rm (f.read ftz x) (f.read ftz y) (f.read ftz z))) = some p) :
    arith t g h rm ftz x y z = p := by
  obtain ⟨f, hf, rfl⟩ := Option.map_eq_some_iff.1 hp
  simp only [arith, hf]

/-- Floating lanes of one of the four functions. -/
theorem functionBody_eq_elementwise (i : Instr) (d a : VReg) (k : MReg) (t : VTy) (h : Fmt → Rm → Bool → Num → Nat × Nat) :
    functionBody i d a k t h = elementwise i d a a k t fun rm ftz x _ _ =>
      ((fmtOf t).map fun f => h f rm ftz (f.read ftz x)).getD (x, 0) := by
  unfold functionBody
  cases fmtOf t <;> rfl

section Form
variable {i : Instr} {d a b : VReg} {k : MReg} {ty : VTy} (h : lanewiseForm i = some (d, a, b, k, ty))
include h

theorem lanewiseForm_regs : i.sources = [] ∧ i.dests = [] := by
  unfold lanewiseForm at h
  split at h <;> cases h <;> exact ⟨rfl, rfl⟩

/-- Each is elementwise by a function that gives the values stated for it. -/
theorem exec_flagged : ∃ f, exec i = run i (elementwise i d a b k ty f) ∧ ∀ (c : Ctx) (x y z : Nat) (p : Nat × Nat),
    flaggedValue i c x y z = some p → f (fctlRm c.fctl).arith (fctlFtz c.fctl) x y z = p := by
  cases i with
  | vadd | vsub | vmul | vfma | vmin | vmax | vabs | vneg =>
    cases h
    exact ⟨_, rfl, fun _ _ _ _ _ hp => arith_of_floats hp⟩
  | vrcp | vrsq | vexp2 | vlog2 =>
    cases h
    refine ⟨_, congrArg (run _) (functionBody_eq_elementwise ..), fun _ _ _ _ _ hp => ?_⟩
    rw [flaggedValue] at hp
    simp only [hp, Option.getD_some]
  | vaddSat | vsubSat =>
    cases h
    exact ⟨_, rfl, fun _ _ _ _ _ => Option.some.inj⟩
  | vand | vor | vxor | vshl | vshr | vsra =>
    cases h
    exact ⟨_, rfl, fun _ _ _ _ _ hp => nomatch hp⟩
  | _ => nomatch h

end Form

/-- Settles O31: the instruction is elementwise (`exec_flagged`), and ends by the flags of its active lanes. -/
theorem vectorFlaggedLanes : Obligations.VectorFlaggedLanes := by
  intro s id t i d a b k ty v hform hissues hroom hvals fl
  obtain ⟨f, hexec, hf⟩ := exec_flagged hform
  obtain ⟨hs, hd⟩ := lanewiseForm_regs hform
  have hend := run_finish_setV hissues hs hd
    (elementwise_eq_finish (k := k) hroom (fun l hl => hf _ _ _ _ _ (hvals l hl)) [])
  rw [hexec]
  exact ⟨fun h0 => ⟨_, hend.1 h0, fun l hl => lane_blend hl ..⟩, hend.2⟩

end Sys2Proof.Machine
end

section
/-! MMA and MMAS: the elements of their range, and their completion (R284, R292 to R294, R296, R398, R399). -/

namespace Sys2Proof.Machine

/-! ### The elements of a range (R292) -/

theorem mem_accCells {sh : Shape} {x : Nat × Nat} : x ∈ accCells sh ↔ x.1 < sh.rows ∧ x.2 < sh.cols := by
  obtain ⟨i, j⟩ := x
  simp [accCells]

/-- No two elements of a range stand at one index. -/
theorem accIndex_injOn {sh : Shape} {x y : Nat × Nat} (hx : x ∈ accCells sh) (hy : y ∈ accCells sh)
    (h : accIndex sh x.1 x.2 = accIndex sh y.1 y.2) : x = y := by
  obtain ⟨i, j⟩ := x
  obtain ⟨i', j'⟩ := y
  have hj : j / 16 < sh.n.toNat + 1 := Nat.div_lt_of_lt_mul (mem_accCells.1 hx).2
  have hj' : j' / 16 < sh.n.toNat + 1 := Nat.div_lt_of_lt_mul (mem_accCells.1 hy).2
  have hcols : sh.cols / 16 = sh.n.toNat + 1 := Nat.mul_div_cancel_left _ (by decide)
  simp only [accIndex, hcols] at h
  have hblock : (sh.n.toNat + 1) * (i / 16) + j / 16 = (sh.n.toNat + 1) * (i' / 16) + j' / 16 := by
    rw [Nat.mul_comm _ (i / 16), Nat.mul_comm _ (i' / 16)]
    omega
  have hrow : i / 16 = i' / 16 := by
    have := congrArg (· / (sh.n.toNat + 1)) hblock
    simpa only [Nat.mul_add_div (Nat.succ_pos _), Nat.div_eq_of_lt hj, Nat.div_eq_of_lt hj', Nat.add_zero] using this
  rw [hrow] at h
  exact Prod.ext (by simp only; omega) (by simp only; omega)

/-- What a list of distinct keys that come from `l` gives for the key of an element. -/
theorem look_map_of_injOn {α κ β : Type} [DecidableEq κ] {l : List α} {key : α → κ}
    (hkey : ∀ x ∈ l, ∀ y ∈ l, key x = key y → x = y) (f : α → β) {a : α} (ha : a ∈ l) :
    look (l.map fun x => (key x, f x)) (key a) = some (f a) := by
  induction l with
  | nil => simp at ha
  | cons x l ih =>
    simp only [List.map_cons, look]
    by_cases hx : key x = key a
    · rw [if_pos hx, hkey x (List.mem_cons_self ..) a ha hx]
    · have ha' : a ∈ l := (List.mem_cons.1 ha).resolve_left fun e => hx (e ▸ rfl)
      rw [if_neg hx]
      exact ih (fun y hy z hz => hkey y (List.mem_cons_of_mem _ hy) z (List.mem_cons_of_mem _ hz)) ha'

/-- A write of every element of a range. -/
def cellWrites (sh : Shape) (f : Nat → Nat → Word32) : List (Nat × Word32) :=
  (accCells sh).map fun x => (accIndex sh x.1 x.2, f x.1 x.2)

theorem look_cellWrites {sh : Shape} {i j : Nat} (hi : i < sh.rows) (hj : j < sh.cols) (f : Nat → Nat → Word32) :
    look (cellWrites sh f) (accIndex sh i j) = some (f i j) :=
  look_map_of_injOn (l := accCells sh) (key := fun x => accIndex sh x.1 x.2) (fun _ hx _ hy => accIndex_injOn hx hy)
    (fun x => f x.1 x.2) (a := (i, j)) (mem_accCells.2 ⟨hi, hj⟩)

theorem exists_of_mem_cellWrites {sh : Shape} {f : Nat → Nat → Word32} {x : Nat × Word32} (h : x ∈ cellWrites sh f) :
    ∃ i j, i < sh.rows ∧ j < sh.cols ∧ x.1 = accIndex sh i j := by
  obtain ⟨⟨i, j⟩, hc, rfl⟩ := List.mem_map.1 h
  obtain ⟨hi, hj⟩ := mem_accCells.1 hc
  exact ⟨i, j, hi, hj, rfl⟩

/-! ### Rows that read without error -/

theorem detailOf_reads {α : Type} (n : Nat) (r : Nat → α) :
    detailOf ((List.range n).map fun i => (.ok (r i) : Except Nat α)) = 0 := by
  rw [detailOf, List.foldl_map]
  exact List.foldl_fixed ..

theorem map_range_congr {α : Type} {n : Nat} {f g : Nat → α} (h : ∀ i < n, f i = g i) :
    (List.range n).map f = (List.range n).map g :=
  List.map_congr_left fun i hi => h i (List.mem_range.1 hi)

section Product
variable {s : State} {n k : Nat} {c : Cmd} {hd : CmdHead} {sh : Shape} {oa ob : Opnd} {sc : ScaleMode} {a b : Arg}
  {ra rb : Nat → MRow} {sparse : Bool}

/-- What a product writes, of the rows of A and B. -/
def productWrites (s : State) (n k : Nat) (c : Cmd) (sh : Shape) (ra rb : Nat → MRow) : List (Nat × Word32) :=
  cellWrites sh fun i j => BitVec.ofNat 32 (pipeline c.fctl (accGet (s.core n k).acc (accIndex sh i j)).toNat (ra i) (rb j))

theorem accWrites_product (hc : c.instr = if sparse then .mmas hd sh oa ob sc else .mma hd sh oa ob sc)
    (ha : c.view.a = some a) (hb : c.view.b = some b)
    (hra : ∀ i < sh.rows, (if sparse
        then s.sparseRow c a sc (c.view.rest.getD 0 0).toNat ((s.core n k).slots.toList.getD 0 none) i
        else s.denseRow c a sc (c.view.rest.getD 0 0).toNat ((s.core n k).slots.toList.getD 0 none) i) = .ok (ra i))
    (hrb : ∀ j < sh.cols, s.denseRow c b sc (c.view.rest.getD 1 0).toNat ((s.core n k).slots.toList.getD 1 none) j =
      .ok (rb j)) (d : Nat) :
    s.accWrites n k c d = (productWrites s n k c sh ra rb, 0) := by
  cases sparse
  all_goals
    simp only [Bool.false_eq_true, if_false, if_true] at hc hra
    simp only [State.accWrites, hc, ha, hb, map_range_congr hra, map_range_congr hrb, detailOf_reads, zipIdx_map_range,
      List.flatMap_map, List.filterMap_map, Function.comp_def, List.filterMap_eq_map', productWrites, cellWrites, accCells,
      List.map_flatMap, List.map_map]
    rfl

end Product

/-- A product that is started, and whose operands' berths are taken, ends with its writes and leaves the berths. -/
theorem execEngineCommandComplete_product {s s1 : State} {n k : Nat} {c : Cmd} {l : List Cmd} {hd : CmdHead} {sh : Shape}
    {oa ob : Opnd} {sc : ScaleMode} {sparse : Bool} (hq : (s.core n k).queue .matrix = c :: l)
    (h1 : ({ s with cur := ⟨n, k, s.cur.thread⟩ } : State).flush (Pkt.engineOf c.id) = s1) (hs : c.started = true)
    (hh : s.engineHeld n c = false) (hb : s.berthsTaken c = true) (hdet : c.detail ≠ 2)
    (hc : c.instr = if sparse then .mmas hd sh oa ob sc else .mma hd sh oa ob sc) :
    execEngineCommandComplete n k .matrix s = .next (((({ s1 with draws := s1.draws + 1 } : State).modCore n k
      fun x => x.writeAcc (s1.accWrites n k c s1.draws).1).leaveBerths n k c).finishCmd c
        (s1.accWrites n k c s1.draws).2) := by
  have hf : c.isFence = false := by
    rw [Cmd.isFence, hc]
    cases sparse <;> rfl
  cases sparse
  all_goals
    simp only [Bool.false_eq_true, if_false, if_true] at hc
    simp only [execEngineCommandComplete, State.core_cur, State.engineHeld_cur, State.berthsTaken_cur, hq, h1, hf, hs, hh, hb,
      hc, hdet, Bool.not_true, Bool.or_self, Bool.false_eq_true, if_false, event_some]

/-- Settles O53: a product completes with its writes, which are those of its range and hold what the pipeline gives. -/
theorem matrixResults : Obligations.MatrixResults := by
  intro s n k c l hd sh oa ob sc a b ra rb sparse hq hs hh hb hdet hc ha hb' s1 slot xa xb hra hrb
  have hw : s1.accWrites n k c s1.draws = (productWrites s1 n k c sh ra rb, 0) := accWrites_product hc ha hb' hra hrb _
  refine ⟨productWrites s1 n k c sh ra rb, ?_, fun i j hi hj => look_cellWrites hi hj _,
    fun x => exists_of_mem_cellWrites⟩
  exact (execEngineCommandComplete_product hq rfl hs hh hb hdet hc).trans (by rw [hw])

end Sys2Proof.Machine
end

section
/-! Idle collapse and wake, the registers of the control block, and the ends of SLEEP (R304 to R307, R310, R312, R424,
R425). -/

namespace Sys2Proof.Machine

variable {s : State} {vd : Nat}

/-! ### Collapse and its end (R305, R310, R314) -/

/-- An event whose only condition is that `c` fails. -/
theorem event_unless {c : Prop} [Decidable c] (h : ¬ c) (s t : State) : event s (if c then none else some t) = .next t := by
  rw [if_neg h, event_some]

/-- A fold whose step changes nothing for any element of the list. -/
theorem foldl_eq_self {α β : Type} {f : β → α → β} {l : List α} (h : ∀ b, ∀ a ∈ l, f b a = b) (b : β) :
    l.foldl f b = b :=
  (List.foldl_ext f (fun b _ => b) b h).trans (List.foldl_fixed l)

/-- With no notice to withdraw, IDLE_COLLAPSE only changes the power state, and the decisions of the census lapse. -/
theorem execIdleCollapse_begun {since : Nat} (hsince : (s.vd vd).idleSince = some since) (hpwr : (s.vd vd).pwr = 0)
    (hen : (s.vd vd).idleEn = true) (hd : (s.vd vd).destroying = false)
    (hdelay : since + (s.vd vd).idleDelay * 4096 ≤ s.cycles) (hidle : s.deviceIdle vd (s.vd vd) = true)
    (hnotice : ∀ e ∈ (s.vd vd).rolemap, e.2.notice = none) : execIdleCollapse vd s =
      .next (s.modVd vd fun v => { v with pwr := 1, idleSince := none, decisions := [], collapseStep := 0 }) := by
  have hready : ¬ ((s.vd vd).pwr ≠ 0 ∨ (!(s.vd vd).idleEn) = true ∨ (s.vd vd).destroying = true ∨
      s.cycles < since + (s.vd vd).idleDelay * 4096 ∨ (!s.deviceIdle vd (s.vd vd)) = true) := by
    simp [hpwr, hen, hd, hidle, Nat.not_lt.2 hdelay]
  simp only [execIdleCollapse, hsince, if_neg hready, event_some]
  refine congrArg _ (foldl_eq_self (fun t e he => ?_) _)
  rw [hnotice e he]

/-- Nothing of a device moves, and no notice of it is pending: the role map can freeze (R310). -/
theorem collapse_settled {v : Vd} (hpwr : v.pwr = 1) (h : ∀ e ∈ v.rolemap, e.2.state ≠ 2 ∧ e.2.notice = none) :
    ¬ (v.pwr ≠ 1 ∨ v.rolemap.any (fun x => x.2.state = 2 || x.2.notice.isSome) = true) := by
  have hmap : v.rolemap.any (fun x => x.2.state = 2 || x.2.notice.isSome) = false := by
    refine List.any_eq_false.2 fun e he => ?_
    obtain ⟨hstate, hnotice⟩ := h e he
    simp [hstate, hnotice]
  simp [hpwr, hmap]

/-! ### Wake writes and the registers (R306, R307) -/

/-- A write of other fields of a device leaves its power state. -/
theorem State.pwr_modVd {f : Vd → Vd} (hf : ∀ v, (f v).pwr = v.pwr) : ((s.modVd vd f).vd vd).pwr = (s.vd vd).pwr := by
  cases h : look s.vds vd with
  | none => simp only [State.modVd, h]
  | some v => rw [State.vd_modVd h, hf, State.vd, h, Option.getD_some]

theorem State.wakeWrite_active (h : (s.vd vd).pwr = 0) (x : Word) :
    s.wakeWrite vd x = (s.restartIdle vd).mailboxStore vd x := by
  rw [State.wakeWrite, State.holdFor_active h]

section Registers
variable {x : BitVec 64} (ha : s.answers vd = true)

include ha in
theorem execWake_active (h : (s.vd vd).pwr = 0) : execWake vd x s =
    .next (((s.modVd vd fun v => { v with wake := x }).restartIdle vd).mailboxStore vd x) := by
  have hp : ((s.modVd vd fun v => { v with wake := x }).vd vd).pwr = 0 := Eq.trans (State.pwr_modVd fun _ => rfl) h
  rw [execWake, if_pos ha, State.wakeWrite_active hp, event_some]

include ha in
/-- A time to come, or none, is what the register holds. -/
theorem execWaketime_set (h : x = 0 ∨ s.cycles < x.toNat) :
    execWaketime vd x s = .next (s.modVd vd fun v => { v with waketime := x }) := by
  have hlater : ¬ (x ≠ 0 ∧ x.toNat ≤ s.cycles) := fun ⟨hne, hle⟩ => h.elim hne (Nat.not_lt.2 hle)
  simp only [execWaketime, ha, Bool.not_true, Bool.false_eq_true, if_neg hlater, if_false, event_some]

include ha in
/-- A time that has passed fires at once. -/
theorem execWaketime_fires (hx : x ≠ 0) (h : x.toNat ≤ s.cycles) :
    execWaketime vd x s = .next ((s.modVd vd fun v => { v with waketime := 0 }).wakeWrite vd 0) := by
  simp only [execWaketime, ha, Bool.not_true, Bool.false_eq_true, if_pos (And.intro hx h), if_false, event_some]

include ha in
theorem execWaketimeExpiry_fires (ht : (s.vd vd).waketime ≠ 0) (h : (s.vd vd).waketime.toNat ≤ s.cycles) :
    execWaketimeExpiry vd s = .next ((s.modVd vd fun v => { v with waketime := 0 }).wakeWrite vd 0) := by
  simp only [execWaketimeExpiry, if_pos (And.intro ha (And.intro ht h)), event_some]

include ha in
theorem execIdlectl_set : execIdlectl vd x s = .next (s.modVd vd fun v => { v with
    idleEn := x.getLsbD 32, idleDelay := if bvBits x 31 0 = 0 then 1 else bvBits x 31 0 }) := by
  simp only [execIdlectl, ha, Bool.not_true, Bool.false_eq_true, if_false, event_some]

end Registers

/-! ### The end of a SLEEP (R424, R425) -/

section Sleep
variable {id till : Nat} {t : Task} (ht : s.task? id = some t) (hst : t.status = .blocked (.sleep till))

include ht hst in
theorem execSleepExpiry_early (h : s.cycles < till) : execSleepExpiry id s = .next s := by
  simp only [execSleepExpiry, ht, hst, if_pos h, event_none]

variable (h : till ≤ s.cycles)

include ht hst h in
theorem execSleepExpiry_active (hp : (s.vd t.vd).pwr = 0) : execSleepExpiry id s = .next (s.makeReady id none) := by
  simp only [execSleepExpiry, ht, hst, if_neg (Nat.not_lt.2 h), hp, event_some]

include ht hst h in
/-- The end of a SLEEP is a wake write of a device that is collapsing or collapsed. -/
theorem execSleepExpiry_wakes (hp : (s.vd t.vd).pwr = 1 ∨ (s.vd t.vd).pwr = 2) :
    execSleepExpiry id s = .next (s.wakeEvent t.vd) := by
  rcases hp with hp | hp <;> simp only [execSleepExpiry, ht, hst, if_neg (Nat.not_lt.2 h), hp, event_some]

include ht hst h in
/-- While the device wakes, the task waits until it is ACTIVE. -/
theorem execSleepExpiry_waking (hp : (s.vd t.vd).pwr = 3) : execSleepExpiry id s = .next s := by
  simp only [execSleepExpiry, ht, hst, if_neg (Nat.not_lt.2 h), hp, event_none]

end Sleep

/-- Settles O57, event by event: each is enabled by its hypotheses, and answers the state that its lemma gives. -/
theorem idleEvents : Obligations.IdleEvents := by
  intro s vd id since x t till v
  refine ⟨fun hs hp hen hd hc hi hn => execIdleCollapse_begun hs hp hen hd hc hi fun e he => (hn e he).2, ?_, ?_,
    execWake_active, execWaketime_set, execWaketime_fires, execWaketimeExpiry_fires, execIdlectl_set,
    fun ht hst h => ⟨execSleepExpiry_active ht hst h, execSleepExpiry_wakes ht hst h, execSleepExpiry_waking ht hst h⟩,
    execSleepExpiry_early⟩
  · intro hp hn failing s1 s2
    exact event_unless (collapse_settled hp hn) s _
  · intro hp
    exact event_unless (not_not.2 hp) s _

end Sys2Proof.Machine
end

section
/-! Boot, live update, freezing and attestation (R333 to R336), and the invariant right after reset. -/

namespace Sys2Proof.Machine

/-! ### Boot (R333) -/

section Boot
variable {s : State} {a b : List CfgRecord} (hb : s.boot = .inReset) (h0 : s.activeSlot = 0) {f : Nat}
  (hf : max s.rollback Config.fusedRollback = f)
include hb h0 hf

theorem execBoot_active (ha : slotPasses a f = true) :
    execBoot a b s = .next (({ s with rollback := f } : State).runSlot 0 a b) := by
  subst hf
  simp [execBoot, event, hb, h0, ha]

theorem execBoot_other (ha : slotPasses a f = false) (hp : slotPasses b f = true) :
    execBoot a b s = .next (({ s with rollback := f } : State).runSlot 1 b a) := by
  subst hf
  simp [execBoot, event, hb, h0, ha, hp]

theorem execBoot_failed (ha : slotPasses a f = false) (hp : slotPasses b f = false) :
    execBoot a b s = .next { s with rollback := f, boot := .failed, cxlStatus := Config.bootFailure } := by
  subst hf
  simp [execBoot, event, hb, h0, ha, hp]

end Boot

/-! ### Live update (R334) -/

section Update
variable {s : State} {a : List CfgRecord} {die : Nat} (hb : s.boot = .running)
  (hd : ∀ d ∈ s.dies.toList, d.updated = false)
include hd

theorem State.not_begun : (s.dies.toList.any fun d => d.updated) = false :=
  List.any_eq_false.2 fun d h => by simp [hd d h]

/-- A switch of one die leaves other dies that run the old records. -/
theorem State.not_all_updated (h : die < 4) :
    ((s.dies.set die { s.dies[die] with updated := true }).toList.all fun d => d.updated) = false := by
  obtain ⟨k, hk, hne⟩ : ∃ k, ∃ _ : k < 4, die ≠ k := ⟨(die + 1) % 4, Nat.mod_lt _ (by decide), by omega⟩
  have hold : s.dies[k].updated = false := hd _ (Vector.mem_toList_iff.2 (Vector.getElem_mem hk))
  refine List.all_eq_false.2 ⟨s.dies[k], Vector.mem_toList_iff.2 (Vector.mem_iff_getElem.2 ⟨k, hk, ?_⟩), by simp [hold]⟩
  exact Vector.getElem_set_ne _ _ hne

include hb

/-- Records that fail, and a die that serves a device: the records are written and no die is switched. -/
theorem execLiveUpdate_written (h : slotPasses a s.rollback = false ∨ s.serves die = true) :
    execLiveUpdate a die s = .next { s with inactive := a } := by
  have hw : (!slotPasses a s.rollback) = true ∨ s.serves die = true := by simpa using h
  rw [execLiveUpdate, if_neg (not_not.2 hb)]
  simp only [State.not_begun hd, Bool.false_eq_true, if_false]
  rw [if_pos (by exact hw)]
  rfl

theorem execLiveUpdate_switched (h4 : die < 4) (hp : slotPasses a s.rollback = true) (h : s.serves die = false) :
    execLiveUpdate a die s = .next { s with
      inactive := a, dies := s.dies.set die { s.dies[die] with updated := true } } := by
  have hw : ¬ ((!slotPasses a s.rollback) = true ∨ s.serves die = true) := by simp [hp, h]
  rw [execLiveUpdate, if_neg (not_not.2 hb)]
  simp only [State.not_begun hd, Bool.false_eq_true, if_false]
  rw [if_neg (by exact hw), dif_pos h4, if_neg (by simp [State.not_all_updated hd h4])]
  rfl

end Update

/-! ### The statements -/

/-- Settles O60: boot and live update by what each of their outcomes is; FREEZE, UNFREEZE and the requests of SPDM, in order and
out of it, by what they answer. -/
theorem bootEvents : Obligations.BootEvents := by
  intro s a b die f s1
  refine ⟨fun hb h0 => ⟨execBoot_active hb h0 rfl, execBoot_other hb h0 rfl, execBoot_failed hb h0 rfl⟩,
    fun hb hd => ⟨execLiveUpdate_written hb hd, execLiveUpdate_switched hb hd⟩, rfl, rfl, rfl, ?_, ?_, ?_, ?_, ?_, ?_⟩
  · exact fun h => congrArg _ (if_pos h)
  · exact fun h => congrArg _ (if_pos h)
  · intro h
    simp [exec, execGetDigests, execGetCertificate, execGetMeasurements, h]
  · exact fun h => congrArg _ (if_neg h)
  · exact fun h => congrArg _ (if_neg h)
  · intro h
    simp [exec, execGetDigests, execGetCertificate, execGetMeasurements, h, spdmError]

/-- Settles O2: no byte, task, tile or device is listed after reset. -/
theorem resetInvariant : Obligations.ResetInvariant :=
  ⟨reset_mem_wf, List.nodup_nil, List.nodup_nil, List.nodup_nil⟩

end Sys2Proof.Machine
end

section
/-! Integer instructions, divisions, fields and masks (R349, R355, R360, R362, R369, R392 to R395, R400, R402, R404, R419,
R423, R426, R467). -/

namespace Sys2Proof.Machine

/-! ### The functions as functions of bit vectors -/

section Values
variable (x y : Word)

theorem ofInt_tdiv : BitVec.ofInt 64 (x.toInt.tdiv y.toInt) = x.sdiv y := by
  apply BitVec.eq_of_toInt_eq
  rw [BitVec.toInt_ofInt, BitVec.toInt_sdiv]

theorem divs_eq_sdiv : divs x y = if y = 0 then BitVec.allOnes 64 else x.sdiv y := by
  rw [divs, ofInt_tdiv]

theorem divn_eq_div : divn x y = if y = 0 then BitVec.allOnes 64 else x / y := by
  rw [divn, ← BitVec.toNat_udiv, BitVec.ofNat_toNat, BitVec.setWidth_eq]

theorem rems_eq_srem : rems x y = if y = 0 then x else x.srem y := by
  rw [rems, divs]
  split
  · rename_i h
    simp [h]
  · have hx : x - BitVec.ofInt 64 (x.toInt.tdiv y.toInt) * y =
        BitVec.ofInt 64 (x.toInt - x.toInt.tdiv y.toInt * y.toInt) := by
      rw [Int.sub_eq_add_neg, BitVec.ofInt_add, BitVec.ofInt_neg, BitVec.ofInt_mul, BitVec.ofInt_toInt, BitVec.ofInt_toInt,
        BitVec.sub_eq_add_neg]
    rw [hx, Int.mul_comm, ← Int.tmod_def, ← BitVec.toInt_srem, BitVec.ofInt_toInt]

theorem remn_eq_mod : remn x y = x % y := by
  rw [remn, divn]
  apply BitVec.eq_of_toNat_eq
  split
  · rename_i h
    simp [h]
  · have hq := Nat.div_mul_le_self x.toNat y.toNat
    have hx := x.isLt
    have hm : x.toNat / y.toNat * y.toNat + x.toNat % y.toNat = x.toNat := Nat.div_add_mod' ..
    have hd : x.toNat / y.toNat < 2 ^ 64 := lt_of_le_of_lt (Nat.div_le_self ..) hx
    rw [BitVec.toNat_sub, BitVec.toNat_mul, BitVec.toNat_ofNat, Nat.mod_eq_of_lt hd, BitVec.toNat_umod,
      Nat.mod_eq_of_lt (lt_of_le_of_lt hq hx)]
    omega

theorem lts_eq_slt : lts x y = if x.slt y then 1 else 0 := by
  simp [lts, BitVec.slt_iff_toInt_lt]

theorem ltn_eq_ult : ltn x y = if x.ult y then 1 else 0 := by
  simp [ltn, BitVec.ult_iff_lt, BitVec.lt_def]

theorem minS_eq_slt : minS x y = if x.slt y then x else y := by
  simp only [minS, BitVec.slt_iff_toInt_lt]
  rcases lt_trichotomy x.toInt y.toInt with h | h | h
  · simp [h, not_lt.2 h.le]
  · simp [BitVec.eq_of_toInt_eq h]
  · simp [h, not_lt.2 h.le]

theorem maxS_eq_slt : maxS x y = if x.slt y then y else x := by
  simp only [maxS, BitVec.slt_iff_toInt_lt]

theorem minN_eq_ult : minN x y = if x.ult y then x else y := by
  simp only [minN, BitVec.ult_iff_lt, BitVec.lt_def]
  rcases lt_trichotomy x.toNat y.toNat with h | h | h
  · simp [h, not_lt.2 h.le]
  · simp [BitVec.eq_of_toNat_eq h]
  · simp [h, not_lt.2 h.le]

theorem maxN_eq_ult : maxN x y = if x.ult y then y else x := by
  simp only [maxN, BitVec.ult_iff_lt, BitVec.lt_def]

theorem popc64_eq_countP : popc64 x = BitVec.ofNat 64 ((List.range 64).countP fun k => x.getLsbD k) := by
  rw [popc64, ones_eq_countP]

/-- A shift by an immediate amount, of six bits, takes it whole. -/
theorem toNat_mod_64 (n : BitVec 6) : n.toNat % 64 = n.toNat := Nat.mod_eq_of_lt n.isLt

/-- The leading part of a range on which a predicate that turns false at `m` first holds. -/
theorem length_takeWhile_range {p : Nat → Bool} {m n : Nat} (hm : m ≤ n) (hlt : ∀ k < m, p k = true)
    (hat : m < n → p m = false) : ((List.range n).takeWhile p).length = m := by
  obtain ⟨r, rfl⟩ := Nat.exists_eq_add_of_le hm
  rw [List.range_add, List.takeWhile_append_of_pos fun k hk => hlt k (List.mem_range.1 hk)]
  cases r with
  | zero => simp
  | succ r => simp [List.range_succ_eq_map, hat]

/-- The leading zeros are the bits above the highest that is set. -/
theorem clz64_eq_length :
    clz64 x = BitVec.ofNat 64 ((List.range 64).takeWhile fun k => !x.getLsbD (63 - k)).length := by
  rw [clz64]
  split
  · rename_i h
    rw [length_takeWhile_range (m := 64) le_rfl (by simp [h]) (by omega)]
    rfl
  · rename_i h
    have h0 : x.toNat ≠ 0 := fun e => h (BitVec.eq_of_toNat_eq e)
    have hlog : x.toNat.log2 < 64 := (Nat.log2_lt h0).2 x.isLt
    rw [length_takeWhile_range (m := 63 - x.toNat.log2) (by omega)]
    · intro k hk
      have : x.toNat < 2 ^ (63 - k) := (Nat.log2_lt h0).1 (by omega)
      simp [BitVec.getLsbD, Nat.testBit_lt_two_pow this]
    · intro _
      rw [Nat.sub_sub_self (by omega)]
      simp [BitVec.getLsbD, Nat.testBit_log2 h0]

end Values

/-! ### An integer instruction -/

section Integer
variable {s : State} {i : Instr} {id : Nat} {t : Task} {v : Word}

/-- What an integer instruction is to the model: one destination, and a computation of its sources. -/
theorem exec_computes {c : Ctx} (h : aluValue i (c.src (i.sources.headD 0)) (c.src (i.sources.getD 1 0)) = some v) :
    i.dests = [i.dests.headD 0] ∧ Instr.outward i = false ∧ ∃ f, exec i = compute i f ∧ f (i.sources.map c.src) = v := by
  unfold aluValue at h
  split at h
  case h_39 => exact absurd h nofun
  all_goals
    rw [Option.some.injEq] at h
    subst h
    refine ⟨rfl, not_two_ports _, _, rfl, ?_⟩
    simp [Instr.sources, mulhi, mulhui, sxi, zxi, shiftL, shiftR, shiftA, toNat_mod_64, divs_eq_sdiv, divn_eq_div, rems_eq_srem,
      remn_eq_mod, lts_eq_slt, ltn_eq_ult, minS_eq_slt, maxS_eq_slt, minN_eq_ult, maxN_eq_ult, popc64_eq_countP,
      clz64_eq_length]

/-- An integer instruction writes the value of its computation to a register, or pushes it through a port. -/
theorem compute_wrote {f : List Word → Word} {d : GReg} (h : s.issues i id t) (hd : i.dests = [d])
    (hf : f (i.sources.map t.ctx.src) = v) (hp : d.isPort = false) :
    compute i f s = .next (s.wrote id i fun c => c.setG d v) :=
  (run_wrote (v := [v]) h (by rw [hf]; rfl) (by simpa [hd] using hp)).trans (by simp [hd, Ctx.writes])

theorem compute_pushed {f : List Word → Word} {d : GReg} {s' : State} (h : s.issues i id t) (hd : i.dests = [d])
    (ho : Instr.outward i = false) (hf : f (i.sources.map t.ctx.src) = v) (hr : s.portReady t d)
    (hs' : (s.wrote id i fun c => c).pushed id t d v = some s') : compute i f s = .next s' :=
  run_pushed (pc := none) h (by rw [hf]; rfl) hd ho rfl hr hs'

end Integer

/-! ### What a change of registers that are no ports leaves to the end of its instruction -/

/-- A change of registers that has nothing to do with the ports, the pc and the mode. -/
def Ctx.Aside (f : Ctx → Ctx) : Prop :=
  ∀ (c : Ctx) (q : Vector Port 8) (pc : Word) (m : Mode),
    f { c with q := q, pc := pc, mode := m } = { f c with q := q, pc := pc, mode := m }

section Aside
variable {f : Ctx → Ctx} (hf : Ctx.Aside f) (c : Ctx)
include hf

theorem Ctx.Aside.q : (f c).q = c.q := by
  have h := congrArg Ctx.q (hf c c.q c.pc c.mode)
  exact h

theorem Ctx.Aside.pc : (f c).pc = c.pc := by
  have h := congrArg Ctx.pc (hf c c.q c.pc c.mode)
  exact h

theorem Ctx.Aside.mode : (f c).mode = c.mode := by
  have h := congrArg Ctx.mode (hf c c.q c.pc c.mode)
  exact h

theorem Ctx.Aside.withPc (pc : Word) : f { c with pc := pc } = { f c with pc := pc } := by
  refine (hf c c.q pc c.mode).trans ?_
  rw [← hf.q c, ← hf.mode c]

theorem Ctx.Aside.setPort (n : Nat) (p : Port) : f (c.setPort n p) = (f c).setPort n p := by
  refine (hf c (c.q.setIfInBounds n p) c.pc c.mode).trans ?_
  rw [Ctx.setPort, ← hf.q c, ← hf.pc c, ← hf.mode c]

theorem Ctx.Aside.clearLatches (l : List GReg) : (f c).clearLatches l = f (c.clearLatches l) := by
  unfold Ctx.clearLatches
  induction l generalizing c with
  | nil => rfl
  | cons r l ih =>
    rw [List.foldl_cons, List.foldl_cons, ← ih]
    split
    · rw [hf.setPort, Ctx.port, Ctx.port, hf.q]
    · rfl

/-- So it may as well be done at the end of the instruction. -/
theorem State.wrote_modTask (s : State) (id : Nat) (i : Instr) (g : Ctx → Ctx) :
    (s.modTask id fun t => { t with ctx := f t.ctx }).wrote id i g = s.wrote id i fun c => g (f c) := by
  simp only [State.wrote, State.modTask_modTask]
  refine congrArg (s.modTask id) (funext fun t => ?_)
  rw [hf.withPc (t.ctx.clearLatches i.sources) (nextPc i t.ctx), hf.clearLatches]
  simp only [nextPc, hf.pc, Task.unkeep, hf.mode]

end Aside

theorem Ctx.setM_aside (d : MReg) (x : Word32) : Ctx.Aside fun c => c.setM d x := by
  intro c q pc m
  unfold Ctx.setM
  split <;> rfl

/-! ### EXT and the masks (R369, R393, R394) -/

section Masks
variable {s : State} {i : Instr} {id : Nat} {t : Task} {d a b : GReg} {e : MReg}

theorem execExt_trap (h : s.issues (.ext d a b) id t) (hw : 64 < bvBits (t.ctx.src b) 5 0 + (bvBits (t.ctx.src b) 11 6 + 1)) :
    execExt d a b s = .next (s.takeTrap id 1 (t.ctx.src b) 0) :=
  run_trap h (by simp [Instr.sources, hw])

theorem execExt_wrote (h : s.issues (.ext d a b) id t) (hd : d.isPort = false) {lo w : Nat}
    (hlo : bvBits (t.ctx.src b) 5 0 = lo) (hw : bvBits (t.ctx.src b) 11 6 + 1 = w) (hle : lo + w ≤ 64) :
    execExt d a b s = .next (s.wrote id (.ext d a b) fun c => c.setG d
      (let f := t.ctx.src a <<< (64 - lo - w)
       if (t.ctx.src b).getLsbD 12 then f.sshiftRight (64 - w) else f >>> (64 - w))) := by
  obtain ⟨n, rfl⟩ : ∃ n, w = n + 1 := ⟨_, hw.symm⟩
  have hf := extract_field (a := t.ctx.src a) ((t.ctx.src b).getLsbD 12) (show lo + n < 64 by omega)
  rw [show 64 - lo - (n + 1) = 63 - lo - n by omega, Nat.add_sub_add_right 63 1, ← hf]
  exact run_wrote (v := [_]) h (by simp [Instr.sources, hlo, hw, Nat.not_lt.2 hle]) (by simpa [Instr.dests] using hd)

theorem execExtImm_wrote {g : Bool} {w l : BitVec 6} (h : s.issues (.extImm d a g w l) id t) (hd : d.isPort = false)
    (hw : (Instr.extImm d a g w l).WellFormed) :
    execExtImm d a g w l s = .next (s.wrote id (.extImm d a g w l) fun c => c.setG d
      (let f := t.ctx.src a <<< (63 - l.toNat - w.toNat)
       if g then f.sshiftRight (63 - w.toNat) else f >>> (63 - w.toNat))) :=
  (compute1_wrote h rfl rfl hd).trans (by rw [extract_field g (extImm_fits hw)])

/-- An operation on masks writes its mask register. -/
theorem maskOp_wrote {f : Ctx → List Word → Word32} (h : s.issues i id t) (hd : i.dests = []) :
    maskOp i e f s = .next (s.wrote id i fun c => c.setM e (f t.ctx (i.sources.map t.ctx.src))) := by
  refine (run_wrote_noDests (s1 := s.modTask id fun u =>
    { u with ctx := u.ctx.setM e (f t.ctx (i.sources.map t.ctx.src)) }) h hd rfl).trans (congrArg _ ?_)
  exact State.wrote_modTask (Ctx.setM_aside e _) ..

/-- The lowest bit that is set: none below it is, and it is, or there is none. -/
theorem lowest_spec (n x : Nat) :
    (∀ j, j < lowest n x → x.testBit j = false) ∧ (lowest n x = n ∨ x.testBit (lowest n x) = true) := by
  unfold lowest
  cases hf : (List.range n).find? x.testBit with
  | none =>
    exact ⟨fun j hj => by simpa using List.find?_eq_none.1 hf j (List.mem_range.2 hj), .inl rfl⟩
  | some k =>
    obtain ⟨hk, hkn, hbelow⟩ := List.find?_range_eq_some.1 hf
    exact ⟨fun j hj => by simpa using hbelow j hj, .inr hk⟩

end Masks

/-! ### The statements -/

/-- Settles O16: an instruction that has a value is a computation of one destination (`exec_computes`). -/
theorem integerResults : Obligations.IntegerResults := by
  intro s id t i v h hv d
  obtain ⟨hd, ho, f, hexec, hf⟩ := exec_computes hv
  rw [hexec]
  exact ⟨compute_wrote h hd hf, fun s' => compute_pushed h hd ho hf⟩

/-- Settles O17: the functions of the four instructions are the quotient and what it leaves. -/
theorem divisionResults : Obligations.DivisionResults := by
  rintro s id t d a b _ _ hp rfl rfl
  exact ⟨fun h => compute2_wrote h rfl rfl hp, fun h => compute2_wrote h rfl rfl hp, fun h => compute2_wrote h rfl rfl hp,
    fun h => compute2_wrote h rfl rfl hp⟩

/-- Settles O18: EXT by the field that `extract` takes, the masks by `maskOp_wrote`, MFIRST by `lowest_spec`. -/
theorem fieldsAndMasks : Obligations.FieldsAndMasks := by
  intro s id t d a b e m n hd
  refine ⟨fun g w l h hw => execExtImm_wrote h hd hw, fun h => ⟨execExt_trap h, execExt_wrote h hd rfl rfl⟩,
    fun h => maskOp_wrote (f := fun _ v => (v.getD 0 0).setWidth 32) h rfl,
    fun h => maskOp_wrote (f := fun c _ => c.getM m &&& c.getM n) h rfl,
    fun h => maskOp_wrote (f := fun c _ => c.getM m ||| c.getM n) h rfl,
    fun h => maskOp_wrote (f := fun c _ => c.getM m ^^^ c.getM n) h rfl,
    fun h => maskOp_wrote (f := fun c _ => ~~~(c.getM m)) h rfl, fun h => ?_, fun h => ?_⟩
  · rw [← ones_eq_countP]
    exact run_wrote (v := [_]) h rfl (by simpa [Instr.dests] using hd)
  · obtain ⟨hbelow, hat⟩ := lowest_spec 32 (t.ctx.getM m).toNat
    exact ⟨_, run_wrote (v := [_]) h rfl (by simpa [Instr.dests] using hd), hbelow, hat⟩

end Sys2Proof.Machine
end

section
/-! Why an instruction need not pop its source ports (O14), and why TRAP need not trap (O10): the task may have done the
instruction already. -/

namespace Sys2Proof.Machine

/-! ### An ADD that has been done, with an entry in the queue of its source port -/

/-- The task that has done its ADD, with port 0 bound to the queue of handle 1. -/
def taskPastBoundAdd : Task := { taskPastAdd with ctx := { q := Vector.replicate 8 { bound := 1 } } }

/-- It is on the thread whose turn it is; slot 0 of logical tile 0, a storage tile, holds a queue of one entry. -/
def stateBeforePop : State :=
  { tasks := [(0, taskPastBoundAdd)], cur := ⟨0, 0, 0⟩,
    vds := [(0, { rolemap := [(0, { role := 2 })], queues := [((0, 0), { prio := false, entries := [5] })] })] }

/-- The same with the source ports of the ADD popped, and the task as it is then. -/
def stateAfterPop : State := (popAll stateBeforePop 0 addFromPort.sources).1
def taskAfterPop : Task := { taskPastBoundAdd with
  ctx := taskPastBoundAdd.ctx.setPort 0 { bound := 1, latch := some 5 } }

/-- The entries of the queue of handle 1 after a turn. -/
def entriesAfter : Result → Option (List Word)
  | .next s => (s.queue? 0 1).map (·.entries)
  | _ => none

theorem popAll_stateBeforePop : popAll stateBeforePop 0 addFromPort.sources = (stateAfterPop, none) := by
  have h : (popAll stateBeforePop 0 addFromPort.sources).2.isNone = true := by decide +kernel
  exact Prod.ext rfl (Option.isNone_iff_eq_none.1 h)

theorem stateAfterPop_runs : stateAfterPop.runs 0 taskAfterPop := by decide +kernel
theorem stateAfterPop_cur : stateAfterPop.cur = stateBeforePop.cur := by decide +kernel
theorem exec_stateBeforePop_entries : entriesAfter (exec addFromPort stateBeforePop) = some [5] := by decide +kernel
theorem exec_stateAfterPop_entries : entriesAfter (exec addFromPort stateAfterPop) = some [] := by decide +kernel

/-- Refutes O14: nothing in the first of its two statements says that nothing is kept for the ADD (`State.issues` does), and a
task that has done it pops no port: the entry of the queue stays, which the popped state has not. -/
theorem not_portSources : ¬ Obligations.PortSources := by
  rintro ⟨h, -⟩
  have hvrep : ∀ n a e, addFromPort = .vrep n a e → taskPastBoundAdd.ctx.running = none ∧ taskAfterPop.ctx.running = none :=
    fun _ _ _ e => nomatch e
  have hexec := h stateBeforePop stateAfterPop 0 taskPastBoundAdd taskAfterPop addFromPort hvrep ⟨rfl, rfl⟩
    (by decide +kernel) popAll_stateBeforePop stateAfterPop_runs (by decide +kernel) (by decide +kernel) stateAfterPop_cur
  have hentries := congrArg entriesAfter hexec
  rw [exec_stateBeforePop_entries, exec_stateAfterPop_entries] at hentries
  exact absurd hentries (by decide)

/-! ### A TRAP that has been done -/

/-- A task of which the TRAP at its pc is kept as done. -/
def taskPastTrap : Task :=
  { vd := 0, ident := .ordinary 0, status := .running ⟨0, 0, 0⟩,
    kept := [{ pc := 0, mode := .task, instr := some (.trap 0), vals := [] }] }

/-- It is on the thread whose turn it is; its device has a handler at 0x1000. -/
def statePastTrap : State := { tasks := [(0, taskPastTrap)], vds := [(0, { tvec := 0x1000 })], cur := ⟨0, 0, 0⟩ }

theorem exec_statePastTrap_pc : pcAfter (exec (.trap 0) statePastTrap) = some 4 := by decide +kernel

/-- Refutes O10: nothing in its hypotheses says that nothing is kept for the TRAP (`State.issues` would), and a task that has
done its TRAP only goes on to the next word: here 4, where the statement has the handler's address. `Instr.keeps` makes no
such record of a TRAP, but the statement is about every state. -/
theorem not_trapInstructions : ¬ Obligations.TrapInstructions := by
  intro h
  obtain ⟨henters, -, -⟩ := h statePastTrap 0 taskPastTrap 0 (.trap 0) 0x11 (.inl ⟨rfl, rfl⟩) ⟨rfl, rfl⟩ rfl (.inl rfl) rfl
  have hpc : some 4 = some (0x1000 : Word) := by
    rw [← exec_statePastTrap_pc, henters rfl (by decide) rfl, pcAfter, State.task?_setTask]
    rfl
  exact absurd hpc (by decide)

end Sys2Proof.Machine
end

section
/-! Misaligned accesses, and ST and STL (R351, R389, R401, R434, R435). -/

namespace Sys2Proof.Machine

variable {s : State} {i : Instr} {id : Nat} {t : Task} {z : Size} {o : BitVec 12}

/-! ### The address of an access -/

theorem addressOf_ok {x : Word} (h : (x + o.signExtend 64).toNat % Size.bytes z = 0) (s : State) :
    addressOf z o x s = .ok ((x + o.signExtend 64).toNat, s) := by
  simp only [addressOf, sxi, h, ne_eq, not_true_eq_false, if_false, act_pure]

theorem addressOf_trap {x : Word} (h : (x + o.signExtend 64).toNat % Size.bytes z ≠ 0) (s : State) :
    addressOf z o x s = .error (.trap 2 (x + o.signExtend 64) 0) := by
  rw [addressOf, sxi, if_pos h]
  rfl

/-! ### A misaligned one -/

section Misaligned
variable {a b : GReg} (h : s.issues i id t)
include h

theorem load_misaligned {g : Hint} {signed : Bool} {acq : Option Scope} (hs : i.sources = [b])
    (ha : (t.ctx.src b + o.signExtend 64).toNat % Size.bytes z ≠ 0) :
    load i z o g signed acq s = .next (s.takeTrap id 2 (t.ctx.src b + o.signExtend 64) 0) :=
  run_trap h (by simp only [hs, List.map_cons, List.getD_cons_zero, act_bind, addressOf_trap ha])

theorem store_misaligned {g : Hint} {rel : Option Scope} (hs : i.sources = [a, b])
    (ha : (t.ctx.src b + o.signExtend 64).toNat % Size.bytes z ≠ 0) :
    store i z o g rel s = .next (s.takeTrap id 2 (t.ctx.src b + o.signExtend 64) 0) :=
  run_trap h (by simp only [hs, List.map_cons, List.getD_cons_succ, List.getD_cons_zero, act_bind, addressOf_trap ha])

theorem atomic_misaligned {w : Bool} {r : Order} {c : Scope} {signed : Bool} {f : Task → Nat → Nat → Option Nat} {n : Nat}
    {data : Task → List Word} (hs : i.sources = [a, b]) (ha : (t.ctx.src a).toNat % (if w then 8 else 4) ≠ 0) :
    atomic i w r c signed f s n data = .next (s.takeTrap id 2 (t.ctx.src a) 0) :=
  run_trap h (by simp only [hs, List.map_cons, List.getD_cons_zero, act_bind, if_pos ha, act_trap])

end Misaligned

theorem execMwait_misaligned {d a b : GReg} {w : Bool} {c : Scope} (h : s.issues (.mwait d a b w c) id t)
    (ha : (t.ctx.src a).toNat % width w ≠ 0) :
    execMwait d a b w c s = .next (s.takeTrap id 2 (t.ctx.src a) 0) :=
  run_trap h (by simp only [Instr.sources, List.map_cons, List.getD_cons_zero, act_bind, if_pos ha, act_trap])

/-! ### The ten atomics -/

/-- The doublewords in the payload of an atomic's request: AMOCAS carries what it expects (R234). -/
def amoData : Instr → Task → List Word
  | .amocas d .. => fun t => [t.ctx.getG d]
  | _ => fun _ => []

theorem signedOf_eq_toInt {n x : Nat} (hn : 0 < n) (hx : x < 2 ^ (8 * n)) : signedOf n x = (BitVec.ofNat (8 * n) x).toInt := by
  have hpow : 2 ^ (8 * n) = 2 * 2 ^ (8 * n - 1) := by rw [← Nat.pow_succ', Nat.succ_eq_add_one, Nat.sub_add_cancel (by omega)]
  have hlt : x < 2 ^ (8 * n - 1) ↔ 2 * x < 2 ^ (8 * n) := by rw [hpow]; omega
  simp only [signedOf, BitVec.toInt, BitVec.toNat_ofNat, Nat.mod_eq_of_lt hx, hlt, Nat.cast_pow, Nat.cast_ofNat]

theorem width_pos (w : Bool) : 0 < width w := by cases w <;> decide

section Ten
variable {d a b : GReg} {w : Bool} {r : Order} {c : Scope}

/-- Each of the ten is `atomic` with the operation of its name, on values of its width. -/
theorem exec_atomic (hi : i = .amoAdd d a b w r c ∨ i = .amoAnd d a b w r c ∨ i = .amoOr d a b w r c ∨
      i = .amoXor d a b w r c ∨ i = .amoMin d a b w r c ∨ i = .amoMax d a b w r c ∨ i = .amoMinn d a b w r c ∨
      i = .amoMaxn d a b w r c ∨ i = .amoSwap d a b w r c ∨ i = .amocas d a b w r c) :
    i.sources = [a, b] ∧ i.dests = [d] ∧ ∃ f,
      (∀ t x y, x < 2 ^ (8 * width w) → y < 2 ^ (8 * width w) →
        f t x y = amoValue i (width w) x y ((t.ctx.getG d).toNat % 2 ^ (8 * width w))) ∧
      ∀ s, exec i s = atomic i w r c (amoSigned i) f s (amoFunction i) (amoData i) := by
  obtain rfl | rfl | rfl | rfl | rfl | rfl | rfl | rfl | rfl | rfl := hi <;> refine ⟨rfl, rfl, ?_⟩
  · exact ⟨_, fun _ _ _ _ _ => rfl, fun s => (rfl : _ = execAmoAdd d a b w r c s)⟩
  · exact ⟨_, fun _ _ _ _ _ => rfl, fun s => (rfl : _ = execAmoAnd d a b w r c s)⟩
  · exact ⟨_, fun _ _ _ _ _ => rfl, fun s => (rfl : _ = execAmoOr d a b w r c s)⟩
  · exact ⟨_, fun _ _ _ _ _ => rfl, fun s => (rfl : _ = execAmoXor d a b w r c s)⟩
  · refine ⟨_, fun t x y hx hy => ?_, fun s => (rfl : _ = execAmoMin d a b w r c s)⟩
    simp only [signedOf_eq_toInt (width_pos w), hx, hy, amoValue]
  · refine ⟨_, fun t x y hx hy => ?_, fun s => (rfl : _ = execAmoMax d a b w r c s)⟩
    simp only [signedOf_eq_toInt (width_pos w), hx, hy, amoValue]
  · exact ⟨_, fun _ _ _ _ _ => rfl, fun s => (rfl : _ = execAmoMinn d a b w r c s)⟩
  · exact ⟨_, fun _ _ _ _ _ => rfl, fun s => (rfl : _ = execAmoMaxn d a b w r c s)⟩
  · exact ⟨_, fun _ _ _ _ _ => rfl, fun s => (rfl : _ = execAmoSwap d a b w r c s)⟩
  · exact ⟨_, fun _ _ _ _ _ => rfl, fun s => (rfl : _ = execAmocas d a b w r c s)⟩

end Ten

/-- Settles O23: the address is checked before anything else, by each of the three kinds of access and by MWAIT. -/
theorem misalignedTraps : Obligations.MisalignedTraps := by
  intro s id t d a b h z c o w r i
  refine ⟨fun hi hissues ha => ?_, fun hi hissues ha => ?_⟩
  · obtain rfl | rfl | rfl | rfl | rfl := hi
    · exact (load_misaligned hissues rfl ha : execLd d b h z o s = _)
    · exact (load_misaligned hissues rfl ha : execLdn d b h z o s = _)
    · exact (load_misaligned hissues rfl ha : execLda d b c z o s = _)
    · exact (store_misaligned hissues rfl ha : execSt d b h z o s = _)
    · exact (store_misaligned hissues rfl ha : execStl d b c z o s = _)
  · by_cases hm : i = .mwait d a b w c
    · subst hm
      exact execMwait_misaligned hissues ha
    · simp only [hm, or_false] at hi
      obtain ⟨hs, _, _, _, hexec⟩ := exec_atomic hi
      rw [hexec, atomic_misaligned hissues hs ha]

/-! ### Stores (R434, R435) -/

section Store
variable {v b : GReg} {g : Hint} {s1 s2 : State} (h : s.issues i id t) (hs : i.sources = [v, b]) (hd : i.dests = [])
  (ha : (t.ctx.src b + o.signExtend 64).toNat % Size.bytes z = 0)
include h hs hd ha

theorem store_plain (hst : storeBytes id (t.ctx.src b + o.signExtend 64).toNat
    (cellsAt 0 (toBytes (Size.bytes z) (t.ctx.src v).toNat)) g false s = .ok ((), s1)) :
    store i z o g none s = .next (s1.wrote id i fun r => r) := by
  refine run_wrote_noDests h hd ?_
  simp only [hs, List.map_cons, List.getD_cons_succ, List.getD_cons_zero, act_bind, addressOf_ok ha]
  have hnear : (none == some Scope.module || none == some Scope.system) = false := rfl
  rw [hnear, lowBytes, hst]
  rfl

theorem store_release {c : Scope} {x : Target} {p : Phys}
    (hr : resolve id t (t.ctx.src b + o.signExtend 64).toNat .store s = .ok ((x, p), s1))
    (hc : storable t (t.ctx.src b + o.signExtend 64).toNat x s1 = .ok ((), s1))
    (hst : storeBytes id (t.ctx.src b + o.signExtend 64).toNat (cellsAt 0 (toBytes (Size.bytes z) (t.ctx.src v).toNat)) g
      (c != .tile) (s1.release id c) = .ok ((), s2)) :
    store i z o g (some c) s = .next (s2.wrote id i fun r => r) := by
  refine run_wrote_noDests h hd ?_
  have hfar : (some c == some Scope.module || some c == some Scope.system) = (c != .tile) := by cases c <;> rfl
  simp only [hs, List.map_cons, List.getD_cons_succ, List.getD_cons_zero, act_bind, addressOf_ok ha, hr, hc, act_modify,
    hfar, lowBytes, hst, act_pure]

end Store

/-- Settles O24: the two forms of `store`. -/
theorem storeResults : Obligations.StoreResults := by
  intro s s1 s2 id t v b h z c o g p a l ha
  exact ⟨fun hi hst => store_plain hi rfl rfl ha hst, fun hi hr hc hst => store_release hi rfl rfl ha hr hc hst⟩

end Sys2Proof.Machine
end

section
/-! The ten atomics, outside every snapshot region (R234, R350 to R353). -/

namespace Sys2Proof.Machine

variable {s s1 s2 : State} {i : Instr} {id : Nat} {t : Task}

@[simp] theorem State.length_readKey (s : State) (k n : Nat) : (s.readKey k n).length = n := by
  induction n generalizing k with
  | zero => rfl
  | succ n ih => rw [State.readKey, List.length_cons, ih]

/-! ### A write at the home, where no region of the device is open -/

theorem reserve_closed {vd : Nat} (h : (s.vd vd).regions = []) (va : Nat) : reserve vd va s = .ok ((), s) := by
  simp only [reserve, act_bind, act_get, Vd.regionOf, h, List.find?_nil]
  rfl

/-- What an atomic leaves at its home: nothing is journalled where its location is outside every region. -/
def State.amoWritten (s : State) (k n : Nat) : Option Nat → State
  | some v => s.write (cellsAt k (toBytes n v))
  | none => s

/-! ### The release before and the acquire after -/

section Order
variable {α : Type} (o : Order) (c : Scope) (s : State)

theorem releases_then (m : Act α) : (if Order.releases o = true then (do modify fun s => s.release id c; m) else m) s =
    m (if o = .rel ∨ o = .ar then s.release id c else s) := by
  cases o <;> rfl

theorem acquires_then (x : α) : (if Order.acquires o = true then (do modify fun s => s.acquire id c; pure x) else pure x : Act α) s =
    .ok (x, if o = .acq ∨ o = .ar then s.acquire id c else s) := by
  cases o <;> rfl

end Order

/-! ### The operation -/

section Operation
variable {w signed : Bool} {o : Order} {c : Scope} {f : Task → Nat → Nat → Option Nat} {m k : Nat} {data : Task → List Word}
  {d a b : GReg} {g : Target} {x : Target × Phys}

/-- An atomic that its checks let through: the release, the location read and written at its home, the packets, the acquire, and
the old value in gd. -/
theorem atomic_wrote (h : s.issues i id t) (hs : i.sources = [a, b]) (hd : i.dests = [d]) (hp : d.isPort = false)
    (ha : (t.ctx.src a).toNat % width w = 0) (hr : resolve id t (t.ctx.src a).toNat .store s = .ok (x, s1))
    (hat : atomicAt id t (t.ctx.src a).toNat (width w) (if o = .rel ∨ o = .ar then s1.release id c else s1) = .ok ((g, k), s2))
    (hreg : (∃ m q, g = .phys m q) → (s2.vd t.vd).regions = []) (herr : ¬ k / 256 ∈ s2.errored) :
    let old := ofBytes (s2.readKey k (width w))
    let s3 := s2.amoWritten k (width w) (f t old ((t.ctx.src b).toNat % 2 ^ (8 * width w)))
    let s4 := s3.atomicTraffic id t (t.ctx.src a).toNat g (data t) (t.ctx.src b) (extend signed (width w) old)
      { size := width w, scope := c.code.toNat, order := o.code.toNat, function := m }
    atomic i w o c signed f s m data = .next ((if o = .acq ∨ o = .ar then s4.acquire id c else s4).wrote id i
      fun r => r.setG d (extend signed (width w) old)) := by
  intro old s3 s4
  have hn : (if w = true then 8 else 4) = width w := rfl
  refine (run_wrote (v := [extend signed (width w) old]) h ?_ (by simpa [hd] using hp)).trans (by rw [hd]; rfl)
  simp only [hs, List.map_cons, List.getD_cons_zero, List.getD_cons_succ, hn, ha, ne_eq, not_true_eq_false, if_false,
    act_bind, hr]
  rw [releases_then, act_bind, hat]
  simp only [act_bind, atomicRead_ok herr, s4, s3, old]
  cases f t (ofBytes (s2.readKey k (width w))) ((t.ctx.src b).toNat % 2 ^ (8 * width w)) with
  | none =>
    simp only [act_bind, act_modify, acquires_then]
    rfl
  | some v =>
    cases g with
    | phys m q =>
      have hclosed := hreg ⟨m, q, rfl⟩
      simp only [act_bind, reserve_closed hclosed, atomicWrite, act_modify, State.journal_closed _ hclosed, acquires_then]
      rfl
    | _ =>
      simp only [act_bind, atomicWrite, act_modify, acquires_then]
      rfl

end Operation

/-- The old value of an atomic's location, extended as its operation says (R351). -/
theorem extend_readKey (signed w : Bool) (s : State) (k : Nat) : extend signed (width w) (ofBytes (s.readKey k (width w))) =
    if signed then (BitVec.ofNat (8 * width w) (ofBytes (s.readKey k (width w)))).signExtend 64
    else BitVec.ofNat 64 (ofBytes (s.readKey k (width w))) := by
  have hlt := ofBytes_lt_two_pow (s.length_readKey k (width w))
  have hle : 8 * width w ≤ 64 := by cases w <;> decide
  have hpos := width_pos w
  cases signed with
  | false => rfl
  | true => exact signExtend_ofNat (by omega) hle hlt

/-- Settles O27: each of the ten is `atomic` with its operation, and both values have its width. -/
theorem atomicResults : Obligations.AtomicResults := by
  intro s s1 s2 id t d a b w o c i g g' p k hform hi hp n va ha hr hat hreg herr x y e r s3 s4
  obtain ⟨hs, hd, f, hf, hexec⟩ := exec_atomic hform
  have hdata : amoData i t = match (generalizing := false) i with | .amocas .. => [t.ctx.getG d] | _ => [] := by
    obtain rfl | rfl | rfl | rfl | rfl | rfl | rfl | rfl | rfl | rfl := hform <;> rfl
  rw [hexec, atomic_wrote hi hs hd hp ha hr hat hreg herr, hdata, extend_readKey,
    hf _ _ _ (ofBytes_lt_two_pow (s2.length_readKey k (width w))) (Nat.mod_lt _ (Nat.two_pow_pos _))]
  rfl

end Sys2Proof.Machine
end

section
/-! FENCE, CINV and PF (R173, R317, R359, R373, R403). -/

namespace Sys2Proof.Machine

variable {s : State} {id : Nat} {t : Task}

/-! ### Fences and invalidations -/

theorem execFence_wrote {k : FenceKind} {c : Scope} (h : s.issues (.fence k c) id t) : execFence k c s = .next
    ((match k with
      | .acq => s.acquire id c
      | .rel => s.release id c
      | .ar => (s.release id c).acquire id c).wrote id (.fence k c) fun r => r) := by
  refine run_wrote_noDests h rfl ?_
  cases k <;> rfl

theorem execCinv_wrote {a : GReg} (h : s.issues (.cinv a) id t) : execCinv a s = .next
    ((match s.lineAt t (t.ctx.src a).toNat with
      | some n => s.modTile t.last.tile fun x => { x with l1 := l1Cut x.l1 n }
      | none => s).wrote id (.cinv a) fun r => r) := by
  refine run_wrote_noDests h rfl ?_
  simp only [Instr.sources, List.map_cons, List.getD_cons_zero, act_bind, act_get]
  cases s.lineAt t (t.ctx.src a).toNat <;> rfl

theorem execCinvAll_wrote (h : s.issues .cinvAll id t) : execCinvAll s = .next
    ((s.modTile t.last.tile fun x => { x with l1 := [] }).wrote id .cinvAll fun r => r) :=
  run_wrote_noDests h rfl rfl

/-! ### Prefetches -/

/-- The byte budget is charged where it grants the bytes (R317). -/
theorem budget_granted {a n : Nat} {m : Bool} (hg : (s.cluster (clusterOf t.last.tile)).grants s.cycles n = true) :
    budget t (.phys a m) n s = .ok ((), s.grant t.last.tile n) := by
  simp only [budget, act_bind, act_get, hg, Bool.not_true, Bool.false_eq_true, if_false]
  rfl

/-- A prefetch takes no line that holds an uncorrectable error, and none of bypass retention. -/
theorem State.prefetch_refused {p : Phys} {ret : Nat} (h : p.pa / 256 ∈ s.errored ∨ ret = 3) (va : Nat) (l1 : Bool) :
    s.prefetch id t va p ret l1 = s :=
  if_pos (by rcases h with h | h <;> simp [h])

/-- A prefetch fills caches alone where no packet is on its way; the L1 only at level .l1. -/
theorem State.prefetch_quiet (hp : s.packets = []) (va : Nat) (p : Phys) (ret : Nat) (l1 : Bool) :
    (s.prefetch id t va p ret l1).mem = s.mem ∧ (l1 = false → (s.prefetch id t va p ret l1).tiles = s.tiles) := by
  have hacc := s.l2Access_same p.pa 1 ret false
  unfold State.prefetch
  split
  · exact ⟨rfl, fun _ => rfl⟩
  · simp only [State.settlePath_nil hp]
    refine ⟨?_, fun hl => ?_⟩
    · rw [(State.traffic_same ..).mem]
      split <;> exact hacc.mem
    · rw [(State.traffic_same ..).tiles, hl, Bool.false_and]
      exact hacc.tiles

section Prefetch
variable {a : GReg} {h : Hint} {v : PfLevel} {o : BitVec 12} (hi : s.issues (.pf a h v o) id t)
include hi

theorem execPf_none (hq : s.quietly t (t.ctx.src a + o.signExtend 64).toNat true = none) :
    execPf a h v o s = .next (s.wrote id (.pf a h v o) fun r => r) := by
  refine run_wrote_noDests hi rfl ?_
  simp only [Instr.sources, List.map_cons, List.getD_cons_zero, act_bind, act_get, sxi, hq]
  rfl

theorem execPf_some {p : Phys} (hq : s.quietly t (t.ctx.src a + o.signExtend 64).toNat true = some p)
    (hg : (v == .l1 && s.prefills t p (Hint.effective h p.ret)) = true →
      (s.cluster (clusterOf t.last.tile)).grants s.cycles 64 = true) :
    execPf a h v o s = .next (((if (v == .l1 && s.prefills t p (Hint.effective h p.ret)) = true then s.grant t.last.tile 64
      else s).prefetch id t (t.ctx.src a + o.signExtend 64).toNat p (Hint.effective h p.ret) (v == .l1)).wrote id
        (.pf a h v o) fun r => r) := by
  refine run_wrote_noDests hi rfl ?_
  have hv : decide (v = .l1) = (v == .l1) := by cases v <;> rfl
  simp only [Instr.sources, List.map_cons, List.getD_cons_zero, act_bind, act_get, sxi, hq, hv]
  split
  · rename_i hf
    simp only [act_bind, budget_granted (hg hf), act_modify, act_pure]
  · rfl

end Prefetch

/-- Settles O26: the forms one by one; PF by what `quietly` answers for its address. -/
theorem fencesAndCaches : Obligations.FencesAndCaches := by
  intro s id t a k c h v o
  refine ⟨execFence_wrote, execCinv_wrote, execCinvAll_wrote, ?_⟩
  intro hi va fills s0 hg
  cases hq : s.quietly t va true with
  | none => exact ⟨s, execPf_none hi hq, fun _ => rfl, nofun⟩
  | some p =>
    refine ⟨(s0 p).prefetch id t va p (Hint.effective h p.ret) (v == .l1), execPf_some hi hq (hg p hq), nofun,
      fun p' hp' => ?_⟩
    obtain rfl : p = p' := Option.some.inj hp'
    have hs0 : (s0 p).packets = s.packets ∧ (s0 p).mem = s.mem ∧ (s0 p).tiles = s.tiles ∧ (s0 p).errored = s.errored := by
      simp only [s0]
      split <;> exact ⟨rfl, rfl, rfl, rfl⟩
    obtain ⟨hpackets, hmem, htiles, herr⟩ := hs0
    refine ⟨rfl, fun hr => State.prefetch_refused (by rwa [herr]) va _, fun hp => ?_⟩
    obtain ⟨hm, hl⟩ := State.prefetch_quiet (id := id) (t := t) (hpackets.trans hp) va p (Hint.effective h p.ret) (v == .l1)
    refine ⟨hm.trans hmem, fun hv n => ?_⟩
    rw [State.tile, (hl (by rw [hv]; rfl)).trans htiles, State.tile]

end Sys2Proof.Machine
end

section
/-! EVWAIT and EVSIG (R364 to R366). -/

namespace Sys2Proof.Machine

variable {s : State} {i : Instr} {id : Nat} {t : Task}

/-- What `run` does when its body holds the thread: nothing (R70). -/
theorem run_hold {body : Nat → Task → List Word → Act Done} (h : s.issues i id t)
    (hb : body id t (i.sources.map t.ctx.src) s = .error .hold) : run i body s = .next s := by
  rw [run_issues h]
  simp only [act_bind, hb, settleTurn, Stop.traps, settle, Bool.false_and, Bool.false_eq_true, if_false]

/-! ### EVWAIT -/

section Evwait
variable {d a : GReg} (hi : s.issues (.evwait d a) id t)
include hi

theorem execEvwait_took (hd : d.isPort = false) (hm : (t.ctx.src a).setWidth 32 ≠ (0 : Word32))
    (hp : (s.vd t.vd).pendingAt (clusterOf t.last.tile) &&& (t.ctx.src a).setWidth 32 ≠ 0) :
    execEvwait d a s = .next (((s.setPending t.vd (clusterOf t.last.tile) ((s.vd t.vd).pendingAt (clusterOf t.last.tile) &&&
      ~~~(t.ctx.src a).setWidth 32)).acquire id .module).wrote id (.evwait d a) fun r =>
        r.setG d (((s.vd t.vd).pendingAt (clusterOf t.last.tile) &&& (t.ctx.src a).setWidth 32).setWidth 64)) := by
  refine (run_wrote (v := [_]) hi ?_ (by simpa [Instr.dests] using hd)).trans rfl
  simp only [Instr.sources, List.map_cons, List.getD_cons_zero, act_bind, act_get, if_neg hm, if_neg hp]
  rfl

theorem execEvwait_parks (hdel : t.delivered = false) (hm : (t.ctx.src a).setWidth 32 ≠ (0 : Word32))
    (hp : (s.vd t.vd).pendingAt (clusterOf t.last.tile) &&& (t.ctx.src a).setWidth 32 = 0) :
    execEvwait d a s = .next (s.park id (.lines (clusterOf t.last.tile) ((t.ctx.src a).setWidth 32))) := by
  refine run_park hi ?_ hi.1.2 hdel
  simp only [Instr.sources, List.map_cons, List.getD_cons_zero, act_bind, act_get, if_neg hm, if_pos hp]
  rfl

theorem execEvwait_traps (hm : (t.ctx.src a).setWidth 32 = (0 : Word32)) : execEvwait d a s = .next (s.takeTrap id 1 0 0) :=
  run_trap hi (by simp only [Instr.sources, List.map_cons, List.getD_cons_zero, act_bind, if_pos hm, act_trap])

end Evwait

/-! ### EVSIG -/

/-- Bit 31 is no event line. -/
theorem lines_of_mask {x : Word} (h : x.getLsbD 31 = false) : x.setWidth 32 &&& (0x7FFFFFFF : Word32) = x.setWidth 32 := by
  have hbits : ∀ j : Fin 32, (0x7FFFFFFF : Word32).getLsbD j = (j.val != 31) := by decide
  refine BitVec.eq_of_getLsbD_eq fun j hj => ?_
  rw [BitVec.getLsbD_and, hbits ⟨j, hj⟩, BitVec.getLsbD_setWidth]
  by_cases h31 : j = 31
  · simp only [h31, h, Bool.and_false, Bool.false_and]
  · simp [h31]

section Evsig
variable {a b : GReg} (hi : s.issues (.evsig a b) id t)
include hi

theorem execEvsig_traps_lines (h31 : (t.ctx.src a).getLsbD 31 = true) :
    execEvsig a b s = .next (s.takeTrap id 6 (t.ctx.src a) 0) :=
  run_trap hi (by simp only [Instr.sources, List.map_cons, List.getD_cons_zero, act_bind, h31, if_true, act_trap])

variable (h31 : (t.ctx.src a).getLsbD 31 = false)
include h31

theorem execEvsig_near (hb : t.ctx.src b = 0) (hm : (t.ctx.src a).setWidth 32 ≠ (0 : Word32)) :
    execEvsig a b s = .next (((s.release id .module).send 0x23 0 t.last.tile t.last.core t.vd (t.ctx.src a)
      (((t.ctx.src a).setWidth 32 : Word32).setWidth 64) (.stop t.last.tile)
      (.event t.vd id ((t.ctx.src a).setWidth 32))).wrote id (.evsig a b) fun r => r) := by
  refine run_wrote_noDests hi rfl ?_
  simp only [Instr.sources, List.map_cons, List.getD_cons_zero, List.getD_cons_succ, act_bind, act_get, act_pure, act_modify,
    h31, hb, Bool.false_eq_true, if_false, if_true, lines_of_mask h31, ne_eq, hm, not_true_eq_false, not_false_eq_true]

section Far
variable (hb : t.ctx.src b ≠ 0)
include hb

theorem execEvsig_traps_slot (hslot : eventSlot (t.ctx.src b).toNat = none) :
    execEvsig a b s = .next (s.takeTrap id 6 (t.ctx.src b) 0) :=
  run_trap hi (by
    simp only [Instr.sources, List.map_cons, List.getD_cons_zero, List.getD_cons_succ, act_bind, act_get, h31,
      Bool.false_eq_true, if_false, hb, hslot, act_trap])

variable {l : Nat} (hslot : eventSlot (t.ctx.src b).toNat = some l) (hheld : s.held t.vd l t.last.tile = false)
include hslot hheld

theorem execEvsig_traps_role (hrole : (s.entry t.vd l).role ≠ 1 ∨ (s.entry t.vd l).state = 3) :
    execEvsig a b s = .next (s.takeTrap id 6 (t.ctx.src b) 0) := by
  have hno : ¬ ((s.entry t.vd l).role = 1 ∧ (s.entry t.vd l).state ≠ 3) := by tauto
  refine run_trap hi ?_
  simp only [Instr.sources, List.map_cons, List.getD_cons_zero, List.getD_cons_succ, act_bind, act_get, h31,
      Bool.false_eq_true, if_false, hb, hslot, hheld, if_neg hno, act_trap]

variable (hrole : (s.entry t.vd l).role = 1) (hstate : (s.entry t.vd l).state ≠ 3)
  (hm : (t.ctx.src a).setWidth 32 ≠ (0 : Word32))
include hrole hstate hm

/-- The packet of an EVSIG to a logical tile leaves its source at once, or the thread waits. -/
theorem execEvsig_far :
    let sent := (s.release id .module).send 0x23 0 t.last.tile t.last.core t.vd (t.ctx.src a)
      (((t.ctx.src a).setWidth 32 : Word32).setWidth 64) (.tile t.vd l) (.event t.vd id ((t.ctx.src a).setWidth 32))
    let left := sent.hop (sent.packets.length - 1)
    execEvsig a b s = if (left.packets.getLast?.any fun p => p.loc == .queue) then .next s
      else .next (left.wrote id (.evsig a b) fun r => r) := by
  intro sent left
  have hok : (s.entry t.vd l).role = 1 ∧ (s.entry t.vd l).state ≠ 3 := ⟨hrole, hstate⟩
  split
  · rename_i hq
    refine run_hold hi ?_
    simp only [Instr.sources, List.map_cons, List.getD_cons_zero, List.getD_cons_succ, act_bind, act_get, act_modify, h31,
      Bool.false_eq_true, if_false, hb, hslot, hheld, if_pos hok, act_pure, lines_of_mask h31, ne_eq, hm, not_false_eq_true,
      if_true]
    rw [if_pos hq]
    rfl
  · rename_i hq
    refine run_wrote_noDests hi rfl ?_
    simp only [Instr.sources, List.map_cons, List.getD_cons_zero, List.getD_cons_succ, act_bind, act_get, act_modify, h31,
      Bool.false_eq_true, if_false, hb, hslot, hheld, if_pos hok, act_pure, lines_of_mask h31, ne_eq, hm, not_false_eq_true,
      if_true]
    rw [if_neg hq]
    rfl

end Far
end Evsig

/-- Settles O28: the outcomes of EVWAIT and EVSIG one by one; of a packet to a logical tile, by whether it has left its queue. -/
theorem eventLines : Obligations.EventLines := by
  intro s id t d a b mask cl p
  refine ⟨execEvwait_took, execEvwait_parks, execEvwait_traps, ?_, ?_, execEvsig_traps_lines⟩
  · exact fun hi hb h31 hm => execEvsig_near hi h31 hb hm
  · refine fun hi hb h31 => ⟨fun l hslot hheld => ⟨fun hrole hstate hm => ?_, fun hrole => ?_⟩, fun hslot => ?_⟩
    · intro sent left
      have hfar := execEvsig_far hi h31 hb hslot hheld hrole hstate hm
      refine ⟨fun q hq hloc => ?_, fun q hq hloc => ?_⟩
      · refine Eq.trans (hfar : execEvsig a b s = _) (if_pos ?_)
        rw [hq, Option.any_some, hloc]
        rfl
      · refine Eq.trans (hfar : execEvsig a b s = _) (if_neg ?_)
        rw [hq, Option.any_some, beq_iff_eq]
        exact hloc
    · exact execEvsig_traps_role hi h31 hb hslot hheld hrole
    · exact execEvsig_traps_slot hi h31 hb hslot

end Sys2Proof.Machine
end

section
/-! FDONE, EXIT, DEPDEC, RPOINT, SLEEP and YIELD (R107, R130, R361, R368, R421, R424, R469). -/

namespace Sys2Proof.Machine

variable {s s1 : State} {i : Instr} {id : Nat} {t : Task}

/-! ### Handles that pass their checks -/

theorem checkHandle_good {vd : Nat} {h : Word} (hg : s.goodHandle vd h = true) : checkHandle vd h s = .ok ((), s) := by
  simp only [checkHandle, act_bind, act_get, hg, Bool.not_true, Bool.false_eq_true, if_false, act_pure]

theorem depdec_counts {hd x : Word} (h0 : hd ≠ 0) (hg : s.goodHandle t.vd hd = true) (hk : hKind hd = 1)
    (hdep : (s.fut t.vd (hIndex hd)).dep ≠ 0) : depdec id t hd x s =
      .ok ({}, ((s.release id .module).feedChild t.vd (hIndex hd)).futMessage 0x25 t.vd (hIndex hd)) := by
  simp only [depdec, act_bind, act_get, if_neg h0, checkHandle_good hg, hk, ne_eq, not_true_eq_false, if_false, hdep, act_pure,
    act_modify]

/-! ### RPOINT -/

/-- An RPOINT that does not stop its task only goes on: neither a source nor a destination can hold it. -/
theorem execRpoint_wrote (h : s.runs id t) (hd : t.delivered = false) : execRpoint s = .next (s.wrote id .rpoint fun c => c) := by
  obtain ⟨hr, ht⟩ := h
  have hmode : ¬ (t.ctx.mode = .task ∧ Instr.needsSupervisor .rpoint = true) :=
    fun hm => absurd (show false = true from hm.2) Bool.false_ne_true
  simp only [execRpoint, run, hr, runAs, hd, Bool.false_and, Bool.false_eq_true, if_false, hmode]
  cases hk : t.keptFor .rpoint with
  | none =>
    simp only [Option.isSome_none, Bool.false_eq_true, if_false, Instr.sources, popAll, ht]
    rfl
  | some k =>
    have hinstr : k.instr.isNone = false := by
      obtain ⟨-, hf⟩ := Option.filter_eq_some_iff.1 hk
      cases hi : k.instr with
      | none => rw [hi] at hf; exact absurd hf nofun
      | some j => rfl
    simp only [Option.isSome_some, if_true, ht, resumeKept, hinstr, Bool.false_eq_true, if_false]
    rfl

/-! ### The instructions that go on or park -/

section Issues

theorem execFdone_completes {a : GReg} {n : Nat} (h : s.issues (.fdone a) id t) (hn : t.ident = .ordinary n) : execFdone a s =
    .next ((((s.release id .module).complete t.vd n 5 (t.ctx.src a) 0 0).modTask id fun u =>
      { u with fdone := true, doomed := false, cancel := false }).wrote id (.fdone a) fun c => c) := by
  refine run_wrote_noDests h rfl ?_
  simp only [Instr.sources, List.map_cons, List.getD_cons_zero, hn]
  rfl

theorem execDepdec_counts {h : HReg} (hi : s.issues (.depdec h) id t) (h0 : t.ctx.getH h ≠ 0)
    (hg : s.goodHandle t.vd (t.ctx.getH h) = true) (hk : hKind (t.ctx.getH h) = 1)
    (hdep : (s.fut t.vd (hIndex (t.ctx.getH h))).dep ≠ 0) : execDepdec h s =
      .next ((((s.release id .module).feedChild t.vd (hIndex (t.ctx.getH h))).futMessage 0x25 t.vd
        (hIndex (t.ctx.getH h))).wrote id (.depdec h) fun c => c) :=
  run_wrote_noDests hi rfl (depdec_counts h0 hg hk hdep)

theorem execDepdecMem_counts {a : GReg} {hd : Word} (hi : s.issues (.depdecMem a) id t) (ha : (t.ctx.src a).toNat % 8 = 0)
    (hl : loadDword id t (t.ctx.src a).toNat s = .ok (hd, s1)) (h0 : hd ≠ 0) (hg : s1.goodHandle t.vd hd = true)
    (hk : hKind hd = 1) (hdep : (s1.fut t.vd (hIndex hd)).dep ≠ 0) : execDepdecMem a s =
      .next ((((s1.release id .module).feedChild t.vd (hIndex hd)).futMessage 0x25 t.vd (hIndex hd)).wrote id (.depdecMem a)
        fun c => c) := by
  refine run_wrote_noDests hi rfl ?_
  simp only [Instr.sources, List.map_cons, List.getD_cons_zero, ha, ne_eq, not_true_eq_false, if_false, act_bind, hl,
    depdec_counts h0 hg hk hdep]

variable {a : GReg} (h : s.issues (.sleep a) id t)
include h

/-- A short SLEEP holds its thread. -/
theorem execSleep_holds (hn : (t.ctx.src a).toNat < 1024) : execSleep a s =
    .next ((if t.ctx.src a = 0 then s else s.modTask id fun u =>
      { u with heldTill := s.masterAt t.last.tile + (t.ctx.src a).toNat }).wrote id (.sleep a) fun c => c) := by
  refine run_wrote_noDests h rfl ?_
  have h0 : (t.ctx.src a).toNat = 0 ↔ t.ctx.src a = 0 := ⟨fun h => BitVec.eq_of_toNat_eq h, fun h => by rw [h]; rfl⟩
  have hmod : s.modTask id (fun u => { u with heldTill := s.masterAt u.last.tile + (t.ctx.src a).toNat }) =
      s.modTask id fun u => { u with heldTill := s.masterAt t.last.tile + (t.ctx.src a).toNat } := by
    rw [State.modTask_of h.1.2, State.modTask_of h.1.2]
  simp only [Instr.sources, List.map_cons, List.getD_cons_zero, act_bind, act_get, hn, if_true, h0, hmod]
  split <;> rfl

/-- A long one parks it. -/
theorem execSleep_parks (hd : t.delivered = false) (hn : 1024 ≤ (t.ctx.src a).toNat) : execSleep a s =
    .next ((s.wrote id (.sleep a) fun c => c).park id (.sleep (s.cycles + (t.ctx.src a).toNat))) := by
  refine run_over h ?_
  have h0 : (t.ctx.src a).toNat ≠ 0 := by omega
  simp only [Instr.sources, List.map_cons, List.getD_cons_zero, act_bind, act_get, h0, if_false, hd, Bool.false_eq_true,
    Nat.not_lt.2 hn, State.modTask_cycles]
  rfl

end Issues

theorem execExit_ends {a : GReg} (h : s.issues (.exit a) id t) : execExit a s = .next (s.endTask id (.done (t.ctx.src a))) :=
  run_over h rfl

theorem execYield_parks (h : s.issues .yield id t) : execYield s =
    .next (((s.modTask id fun u => { u.unkeep with ctx := { u.ctx with pc := t.ctx.pc + 4 } }).park id .yield).makeReady id
      none) :=
  run_over h rfl

/-- Settles O40: each instruction by what its body answers; a doomed task stops at RPOINT as at every reclamation point. -/
theorem taskResults : Obligations.TaskResults := by
  intro s s1 id n t h a hd
  refine ⟨execFdone_completes, execExit_ends, ?_, ?_, fun hr => ⟨execRpoint_wrote hr, ?_⟩, execSleep_holds, execSleep_parks,
    execYield_parks⟩
  · rintro hi rfl h0 hg hk hdep
    exact execDepdec_counts hi h0 hg hk hdep
  · exact execDepdecMem_counts
  · exact fun hdel => exec_point hr hdel nofun rfl

end Sys2Proof.Machine
end

section
/-! SPAWN, GANG and FORK (R75, R77, R85, R90 to R94, R374, R380, R429, R430). -/

namespace Sys2Proof.Machine

variable {s s0 s1 s2 : State} {id n : Nat} {t : Task} {d : Desc}

/-! ### The handle that a SPAWN passes -/

/-- May a SPAWN without `feed` pass the handle on: is the register empty, or does its handle pass the check, with room for one more
reacher, and not freed? -/
def State.passable (s : State) (vd : Nat) (f : Word) : Prop :=
  f = 0 ∨ s.goodHandle vd f = true ∧ (s.fut vd (hIndex f)).reach + 1 ≤ 2 ^ 24 - 1 ∧
    ((s.fut vd (hIndex f)).doomed = true → (s.fut vd (hIndex f)).reach ≠ 0)

theorem roomFor_holds {vd k : Nat} {h : Word} (hr : (s.fut vd (hIndex h)).reach + k ≤ 2 ^ 24 - 1) :
    roomFor vd h k s = .ok ((), s) := by
  simp only [roomFor, act_bind, act_get, Nat.not_lt.2 hr, if_false, act_pure]

/-! ### SPAWN -/

section Spawn
variable {h : HReg} {b : GReg} {x : Word} {p : Option HReg}

/-- The word of a SPAWN without `feed`, and what is made of it: the child's record, its task, the handle in hd. -/
def spawnRecord (s : State) (vd : Nat) (w x arg : Word) (d : Desc) : Fut :=
  { kind := 1, state := if bvBits w 15 0 = 0 then 2 else 1, reach := 1 + (if w.getLsbD 17 then 1 else 0), dep := bvBits w 15 0,
    source := x.toNat, arg := arg, prio := d.prio, detach := w.getLsbD 17, context := s.freshContext vd,
    readytime := if bvBits w 15 0 = 0 then s.cycles else 0 }

def State.spawned (s : State) (id : Nat) (t : Task) (h : HReg) (w arg f : Word) (d : Desc) (n : Nat) : State :=
  let s3 := if f = 0 then s.release id .module else (s.release id .module).raise t.vd (hIndex f)
  let s4 := (s3.addTask t.vd (.ordinary n) d (if bvBits w 15 0 = 0 then .ready else .pending) (clusterOf t.last.tile)
    ((({} : Ctx).setG 1 arg).setH 0 f)).2
  let s5 := s4.putH id h (handleOf (s4.fut t.vd n) n)
  s5.modCore t.last.tile t.last.core fun c => { c with
    lastSpawn := c.lastSpawn.setIfInBounds t.last.thread (some (s5.masterAt t.last.tile)) }

section
variable (hd : readDesc id t x s = .ok (d, s1)) (hw : (t.ctx.getG b).toNat < 2 ^ 18) (h16 : (t.ctx.getG b).getLsbD 16 = false)
  (hn : newFut t.vd (spawnRecord s1 t.vd (t.ctx.getG b) x (t.ctx.getG (b + 1)) d) s1 = .ok (n, s2))
include hd hw h16 hn

theorem spawnBody_alone : spawnBody h b none id t [x] s =
    .ok ({}, s2.spawned id t h (t.ctx.getG b) (t.ctx.getG (b + 1)) 0 d n) := by
  rw [spawnRecord] at hn
  simp only [spawnBody, List.getD_cons_zero, act_bind, hd, Nat.not_le.2 hw, if_false, h16, Bool.false_eq_true, false_and,
    and_false, or_false, pairSecond, ne_eq, not_true_eq_false, act_get, hn, act_modify, act_pure, State.spawned, if_true]

theorem spawnBody_passes {q : HReg} {f : Word} (hf : t.ctx.getH q = f) (hpass : s1.passable t.vd f) :
    spawnBody h b (some q) id t [x] s = .ok ({}, s2.spawned id t h (t.ctx.getG b) (t.ctx.getG (b + 1)) f d n) := by
  rw [spawnRecord] at hn
  simp only [spawnBody, List.getD_cons_zero, act_bind, hd, Nat.not_le.2 hw, if_false, h16, Bool.false_eq_true, false_and,
    and_false, or_false, pairSecond, hf]
  by_cases h0 : f = 0
  · subst h0
    simp only [ne_eq, not_true_eq_false, if_false, act_bind, act_get, hn, act_modify, act_pure, State.spawned, if_true]
  · obtain ⟨hgood, hroom, hlast⟩ := hpass.resolve_left h0
    have hkept : ¬ ((s1.fut t.vd (hIndex f)).doomed = true ∧ (s1.fut t.vd (hIndex f)).reach = 0) := fun hx => hlast hx.1 hx.2
    simp only [ne_eq, h0, not_false_eq_true, if_true, act_bind, checkHandle_good hgood, act_get, if_neg hkept,
      roomFor_holds hroom, hn, act_modify, act_pure, State.spawned, if_false]

end
end Spawn

/-- Settles O36: the forms with and without a handle passed on. -/
theorem spawnResults : Obligations.SpawnResults := by
  intro s s1 s2 id t h p a b i f d n hform hi w arg dep hd hw h16 hpass rec0 hn s3 s4 s5
  rcases hform with ⟨rfl, rfl⟩ | ⟨rfl, rfl⟩
  · exact (run_wrote_noDests hi rfl (spawnBody_alone hd hw h16 hn) : execSpawn h a b s = _)
  · exact (run_wrote_noDests hi rfl (spawnBody_passes hd hw h16 hn rfl hpass) : execSpawnPass h a b p s = _)

/-! ### GANG -/

theorem execGang_waits {h : HReg} {a : GReg} {l : List Byte} (hi : s.issues (.gang h a) id t) (ha : (t.ctx.src a).toNat % 32 = 0)
    (hl : loadBytes id t (t.ctx.src a).toNat 32 .dflt false s = .ok (l, s0)) (hshape : dwordIn l 16 < 256)
    (hzero : dwordIn l 24 = 0) (hd : readDesc id t (BitVec.ofNat 64 (dwordIn l 0)) s0 = .ok (d, s1))
    (hquota : bits (dwordIn l 16) 3 0 + 1 ≤ (s1.vd t.vd).tileQuota)
    (hbank : (bits (dwordIn l 16) 7 4 + 1) * d.scratch ≤ Config.bankBytes)
    (hn : newFut t.vd { kind := 5, state := 2, reach := 1, source := (t.ctx.src a).toNat, arg := BitVec.ofNat 64 (dwordIn l 8),
                        prio := d.prio, readytime := s1.cycles } s1 = .ok (n, s2)) :
    let s3 := s2.release id .module
    execGang h a s = .next (((s3.putH id h (handleOf (s3.fut t.vd n) n)).modVd t.vd fun v =>
      { v with gangs := v.gangs ++ [⟨n, bits (dwordIn l 16) 3 0 + 1, bits (dwordIn l 16) 7 4 + 1, d.entry,
        BitVec.ofNat 64 (dwordIn l 8), d.scratch, d.prio, d.extents⟩] }).wrote id (.gang h a) fun c => c) := by
  intro s3
  have hfits : ¬ ((s1.vd t.vd).tileQuota < bits (dwordIn l 16) 3 0 + 1 ∨
      Config.bankBytes < (bits (dwordIn l 16) 7 4 + 1) * d.scratch) := by omega
  have hgood : ¬ (256 ≤ dwordIn l 16 ∨ dwordIn l 24 ≠ 0) := by omega
  refine run_wrote_noDests hi rfl ?_
  simp only [Instr.sources, List.map_cons, List.getD_cons_zero, ha, ne_eq, not_true_eq_false, if_false, act_bind, hl, if_neg hgood,
    hd, act_get, if_neg hfits, hn, act_modify, act_pure, s3]

/-! ### FORK -/

section Fork
variable {h : HReg} {a b : GReg} (hi : s.issues (.fork h a b) id t) (hd : readDesc id t (t.ctx.src a) s = .ok (d, s1))
  (hn : newFut t.vd { kind := 4, state := 3, reach := 1, source := (t.ctx.src a).toNat, prio := d.prio } s1 = .ok (n, s2))
include hi hd hn

/-- The state once the handle of a fork stands in hd. -/
def State.forked (s : State) (id : Nat) (t : Task) (h : HReg) (n : Nat) : State :=
  (s.release id .module).putH id h (handleOf ((s.release id .module).fut t.vd n) n)

theorem execFork_empty (hz : (t.ctx.getG b).toNat = 0) : execFork h a b s =
    .next ((((s2.forked id t h n).complete t.vd n 5 0 0 0).closeFut t.vd n).wrote id (.fork h a b) fun c => c) := by
  refine run_wrote_noDests hi rfl ?_
  simp only [Instr.sources, List.map_cons, List.getD_cons_zero, act_bind, hd, hn, act_modify, hz, if_true, act_pure,
    State.forked]

/-- The threads that the recruits of a fork start on: none while a pre-empted task of its level or above waits (R94). -/
def State.forkPlaces (s : State) (t : Task) (d : Desc) (chunks : Nat) : List Place :=
  if (s.overdue t.vd d.prio).isEmpty then
    ((fanOut (clusterOf t.last.tile)).flatMap fun k => s.idleThreads t.vd d k).take (min chunks 16384)
  else []

variable (hz : (t.ctx.getG b).toNat ≠ 0)
include hz

theorem execFork_started :
    let trips := (t.ctx.getG b).toNat
    let grain := max 1 (t.ctx.getG (b + 1)).toNat
    let chunks := (trips + grain - 1) / grain
    let s5 := (s2.forked id t h n).placeOverdue t.vd d.prio
    let places := s5.forkPlaces t d chunks
    (places ≠ [] → execFork h a b s = .next (((s5.modFut t.vd n fun f =>
      { f with made := places.length, left := places.length }).recruits t.vd n d (clusterOf t.last.tile) trips grain
        chunks places.length places 0).wrote id (.fork h a b) fun c => c)) ∧
    (places = [] → execFork h a b s = .next ((((s5.modFut t.vd n fun f =>
      { f with made := 1, left := 1 }).addTask t.vd (.recruit n 0) d .ready (clusterOf t.last.tile)
        (recruitCtx trips grain chunks 1 0)).2).wrote id (.fork h a b) fun c => c)) := by
  intro trips grain chunks s5 places
  refine ⟨fun hp => run_wrote_noDests hi rfl ?_, fun hp => run_wrote_noDests hi rfl ?_⟩
  · have hlen : max 1 places.length = places.length := max_eq_right (List.length_pos_iff.2 hp)
    have hne : places.isEmpty = false := by simpa using hp
    dsimp only [places, s5, chunks, grain, trips, State.forkPlaces, State.forked] at hlen hne ⊢
    simp only [Instr.sources, List.map_cons, List.getD_cons_zero, act_bind, hd, hn, act_modify, hz, if_false, act_get, act_pure,
      pairSecond, hlen, hne, Bool.false_eq_true]
  · have hlen : max 1 places.length = 1 := by rw [hp]; rfl
    have he : places.isEmpty = true := by simpa using hp
    dsimp only [places, s5, chunks, grain, trips, State.forkPlaces, State.forked] at hlen he ⊢
    simp only [Instr.sources, List.map_cons, List.getD_cons_zero, act_bind, hd, hn, act_modify, hz, if_false, act_get, act_pure,
      pairSecond, hlen, he, if_true]

end Fork

/-- Settles O37: GANG, and FORK by its trips and the threads that its recruits start on. -/
theorem gangAndFork : Obligations.GangAndFork := by
  intro s s0 s1 s2 id t h a b d l n
  refine ⟨?_, ?_⟩
  · intro hi ha hl hshape hzero hd groups threads arg hquota hbank rec0 hn s3
    exact execGang_waits hi ha hl hshape hzero hd hquota hbank hn
  · intro hi hd hn trips grain chunks s3 s4 s5 places
    exact ⟨execFork_empty hi hd hn, fun hz => (execFork_started hi hd hn hz).1, fun hz => (execFork_started hi hd hn hz).2⟩

end Sys2Proof.Machine
end

section
/-! The entry whose turn it is in a queue (R406), and the queue instructions (R405 to R417). -/

namespace Sys2Proof.Machine

/-! ### The first entry -/

/-- The index of an entry whose key no other entry undercuts, nor an earlier one equals. -/
def FirstLeast (l : List Word) (k : Nat) (x : Word) : Prop :=
  l[k]? = some x ∧ ∀ j y, l[j]? = some y → bvBits x 63 32 < bvBits y 63 32 ∨ bvBits x 63 32 = bvBits y 63 32 ∧ k ≤ j

theorem FirstLeast.unique {l : List Word} {k k' : Nat} {x x' : Word} (h : FirstLeast l k x) (h' : FirstLeast l k' x') : k = k' := by
  have := h.2 k' x' h'.1
  have := h'.2 k x h.1
  omega

/-- An entry of a smaller key before the others. -/
theorem FirstLeast.cons_head {l : List Word} {x : Word} (h : ∀ y ∈ l, bvBits x 63 32 ≤ bvBits y 63 32) : FirstLeast (x :: l) 0 x := by
  refine ⟨rfl, fun j y hy => ?_⟩
  cases j with
  | zero => obtain rfl : x = y := by simpa using hy
            exact .inr ⟨rfl, Nat.le_refl _⟩
  | succ j => have := h y (List.mem_of_getElem? hy); omega

theorem FirstLeast.cons_tail {l : List Word} {x z : Word} {k : Nat} (h : FirstLeast l k x) (hz : bvBits x 63 32 < bvBits z 63 32) :
    FirstLeast (z :: l) (k + 1) x := by
  refine ⟨h.1, fun j y hy => ?_⟩
  cases j with
  | zero => obtain rfl : z = y := by simpa using hy
            exact .inl hz
  | succ j => have := h.2 j y hy; omega

/-- `minKey` keeps the best so far, where no entry undercuts it, and else finds the first least entry. -/
theorem minKey_spec (l : List Word) (i best key : Nat) :
    (minKey l i best key = best ∧ ∀ y ∈ l, key ≤ bvBits y 63 32) ∨
      ∃ k x, minKey l i best key = i + k ∧ FirstLeast l k x ∧ bvBits x 63 32 < key := by
  induction l generalizing i best key with
  | nil => exact .inl ⟨rfl, nofun⟩
  | cons z l ih =>
    rw [minKey]
    by_cases hz : bvBits z 63 32 < key
    · rw [if_pos hz]
      rcases ih (i + 1) i (bvBits z 63 32) with ⟨hk, hle⟩ | ⟨k, x, hk, hx, hlt⟩
      · exact .inr ⟨0, z, hk, .cons_head hle, hz⟩
      · exact .inr ⟨k + 1, x, by omega, hx.cons_tail hlt, by omega⟩
    · rw [if_neg hz]
      rcases ih (i + 1) best key with ⟨hk, hle⟩ | ⟨k, x, hk, hx, hlt⟩
      · exact .inl ⟨hk, List.forall_mem_cons.2 ⟨Nat.not_lt.1 hz, hle⟩⟩
      · exact .inr ⟨k + 1, x, by omega, hx.cons_tail (by omega), hlt⟩

theorem minKey_of_firstLeast {l : List Word} {k : Nat} {x : Word} (h : FirstLeast l k x) : minKey l 0 0 (2 ^ 32) = k := by
  have hx : bvBits x 63 32 < 2 ^ 32 := Nat.mod_lt _ (Nat.two_pow_pos _)
  rcases minKey_spec l 0 0 (2 ^ 32) with ⟨-, hle⟩ | ⟨k', x', hk, hx', -⟩
  · exact absurd (hle x (List.mem_of_getElem? h.1)) (Nat.not_le.2 hx)
  · rw [hk, Nat.zero_add, h.unique hx']

theorem Queue.take_of_gives {q : Queue} {x : Word} {r : List Word} (h : q.gives x r) : q.take = some (x, { q with entries := r }) := by
  obtain ⟨k, hk, rfl, hplain, hprio⟩ := h
  have hi : (if q.prio = true then minKey q.entries 0 0 (2 ^ 32) else 0) = k := by
    cases hp : q.prio with
    | false => exact (hplain hp).symm
    | true => exact minKey_of_firstLeast ⟨hk, hprio hp⟩
  simp only [Queue.take, hi, hk]

theorem Queue.take_of_empty {q : Queue} (h : q.entries = []) : q.take = none := by
  simp [Queue.take, h]

variable {s s1 s2 : State} {i : Instr} {id : Nat} {t : Task} {q : Queue} {l : List (Word32 × Option Nat)}

/-! ### A value for one destination, a register or a port -/

/-- What is made of a value that an instruction has for its one destination: written to a register, or pushed through a port. -/
def State.receives (s : State) (id : Nat) (t : Task) (i : Instr) (d : GReg) (x : Word) (l : List (Word32 × Option Nat)) (s1 : State)
    (r : Result) : Prop :=
  (d.isPort = false → r = .next (s.wrote id i fun c => c.setG d x)) ∧
  (writeDests id [(d, x)] (s.wrote id i fun c => c) = .ok (l, s1) → r = .next (s1.afterPushes id t i [x] l))

theorem run_receives {body : Nat → Task → List Word → Act Done} {d : GReg} {x : Word} (h : s.issues i id t) (hd : i.dests = [d])
    (hb : body id t (i.sources.map t.ctx.src) s = .ok ({ vals := [x] }, s1)) : s1.receives id t i d x l s2 (run i body s) := by
  refine ⟨fun hp => ?_, fun hw => run_afterPushes h hb (by rw [hd]; exact hw)⟩
  have := run_afterPushes h hb (by rw [hd]; exact writeDests_register hp x)
  rwa [State.afterPushes_nil] at this

/-! ### The home of a queue answers -/

theorem State.deliverMine_nil (h : s.packets = []) (id tile vd : Nat) (hd : Word32) : s.deliverMine id tile vd hd = s := by
  simp [State.deliverMine, h]

section Home
variable {vd : Nat} {x : Word} (hp : s.packets = []) (hh : s.queueHeld vd (x.setWidth 32) = false)
include hp hh

theorem queueAt_known (hq : s.queue? vd (x.setWidth 32) = some q) : queueAt id vd x s = .ok ((x.setWidth 32, q), s) := by
  simp only [queueAt, act_bind, act_get, hh, Bool.false_eq_true, if_false, act_modify, State.deliverMine_nil hp, hq, act_pure]

theorem queueAt_refused (hq : s.queue? vd (x.setWidth 32) = none) :
    queueAt id vd x s = .error (.trap 9 ((x.setWidth 32 : Word32).setWidth 64) 0) := by
  simp only [queueAt, act_bind, act_get, hh, Bool.false_eq_true, if_false, act_modify, State.deliverMine_nil hp, hq, act_trap]

end Home

/-! ### QNEW -/

/-- A queue made in a free slot. -/
def State.newQueue (s : State) (vd lid slot : Nat) (prio : Bool) : State :=
  (s.modVd vd fun v => { v with queues := put v.queues (lid, slot) { prio := prio } }).slotLive vd lid slot

section Qnew
variable {a b : GReg} (hi : s.issues (.qnew b a) id t)
include hi

theorem execQnew_reserved (hx : 2 ^ 13 ≤ (t.ctx.src a).toNat) : execQnew b a s = .next (s.takeTrap id 1 (t.ctx.src a) 0) :=
  run_trap hi (by simp only [Instr.sources, List.map_cons, List.getD_cons_zero, act_bind, if_pos hx, act_trap])

variable (hx : (t.ctx.src a).toNat < 2 ^ 13) (hs2 : (s.entry t.vd ((t.ctx.src a).toNat % 4096)).state ≠ 2)
include hx hs2

theorem execQnew_elsewhere (hr : (s.entry t.vd ((t.ctx.src a).toNat % 4096)).role ≠ 2 ∨
    (s.entry t.vd ((t.ctx.src a).toNat % 4096)).state = 3) :
    execQnew b a s = .next (s.takeTrap id 6 (BitVec.ofNat 64 ((t.ctx.src a).toNat % 4096)) 0) :=
  run_trap hi (by
    simp only [Instr.sources, List.map_cons, List.getD_cons_zero, act_bind, act_get, if_neg (Nat.not_le.2 hx), if_neg hs2,
      if_pos hr, act_trap])

variable (hr : (s.entry t.vd ((t.ctx.src a).toNat % 4096)).role = 2) (hs3 : (s.entry t.vd ((t.ctx.src a).toNat % 4096)).state ≠ 3)
include hr hs3

theorem execQnew_full (hnone : ∀ j < 256, (look (s.vd t.vd).queues ((t.ctx.src a).toNat % 4096, j)).isSome = true) :
    s.receives id t (.qnew b a) b 0 l s1 (execQnew b a s) := by
  have hfind : (List.range 256).find? (fun j => (look (s.vd t.vd).queues ((t.ctx.src a).toNat % 4096, j)).isNone) = none :=
    List.find?_eq_none.2 fun j hj => by
      simpa [Option.isSome_iff_ne_none] using hnone j (List.mem_range.1 hj)
  have hok : ¬ ((s.entry t.vd ((t.ctx.src a).toNat % 4096)).role ≠ 2 ∨
    (s.entry t.vd ((t.ctx.src a).toNat % 4096)).state = 3) := not_or.2 ⟨not_not.2 hr, hs3⟩
  refine run_receives hi rfl ?_
  simp only [Instr.sources, List.map_cons, List.getD_cons_zero, act_bind, act_get, if_neg (Nat.not_le.2 hx), if_neg hs2,
    if_neg hok, hfind, act_pure]

theorem execQnew_made {j : Nat} (hj : j < 256) (hfree : look (s.vd t.vd).queues ((t.ctx.src a).toNat % 4096, j) = none)
    (hless : ∀ k < j, (look (s.vd t.vd).queues ((t.ctx.src a).toNat % 4096, k)).isSome = true) :
    (s.newQueue t.vd ((t.ctx.src a).toNat % 4096) j ((t.ctx.src a).getLsbD 12)).receives id t (.qnew b a) b
        (BitVec.ofNat 64 ((t.ctx.src a).toNat % 4096 * 2 ^ 20 + j * 2 ^ 12 +
          ((s.vd t.vd).slotGen ((t.ctx.src a).toNat % 4096) j).toNat)) l s1 (execQnew b a s) := by
  have hfind : (List.range 256).find? (fun j => (look (s.vd t.vd).queues ((t.ctx.src a).toNat % 4096, j)).isNone) = some j :=
    List.find?_range_eq_some.2 ⟨by simp [hfree], List.mem_range.2 hj, fun k hk => by
      simpa [Option.isSome_iff_ne_none] using hless k hk⟩
  have hok : ¬ ((s.entry t.vd ((t.ctx.src a).toNat % 4096)).role ≠ 2 ∨
    (s.entry t.vd ((t.ctx.src a).toNat % 4096)).state = 3) := not_or.2 ⟨not_not.2 hr, hs3⟩
  refine run_receives hi rfl ?_
  simp only [Instr.sources, List.map_cons, List.getD_cons_zero, act_bind, act_get, if_neg (Nat.not_le.2 hx), if_neg hs2,
    if_neg hok, hfind, act_set, act_pure, State.newQueue]

end Qnew

/-! ### QFREE, QBIND, QLEN and QPOP -/

section Ask
variable {a b : GReg} {p : BitVec 3} (hp : s.packets = []) (hh : s.queueHeld t.vd ((t.ctx.src a).setWidth 32) = false)
include hp hh

section Known
variable (hq : s.queue? t.vd ((t.ctx.src a).setWidth 32) = some q)
include hq

theorem execQfree_ends (hi : s.issues (.qfree a) id t) : execQfree a s =
    .next ((s.freeQueue t.vd ((t.ctx.src a).setWidth 32) q).wrote id (.qfree a) fun c => c) := by
  refine run_wrote_noDests hi rfl ?_
  simp only [Instr.sources, List.map_cons, List.getD_cons_zero, act_bind, queueAt_known hp hh hq, act_modify, act_pure]

theorem execQlen_counts (hi : s.issues (.qlen b a) id t) (hlen : q.entries.length + q.held.length < 2 ^ 32) :
    s.receives id t (.qlen b a) b (BitVec.ofNat 64 (q.entries.length + q.held.length)) l s1 (execQlen b a s) := by
  refine run_receives hi rfl ?_
  simp only [Instr.sources, List.map_cons, List.getD_cons_zero, act_bind, queueAt_known hp hh hq, Nat.mod_eq_of_lt hlen, act_pure]

theorem execQpop_takes (hi : s.issues (.qpop b a) id t) {y : Word} {r : List Word} (hg : q.gives y r) :
    ((s.setQueue t.vd ((t.ctx.src a).setWidth 32) { q with entries := r }).acquire id .module).receives id t (.qpop b a) b y l s1
      (execQpop b a s) := by
  refine run_receives hi rfl ?_
  simp only [Instr.sources, List.map_cons, List.getD_cons_zero, act_bind, queueAt_known hp hh hq, act_get, State.pop,
    Queue.take_of_gives hg, act_set, act_modify, act_pure]

theorem execQpop_parks (hi : s.issues (.qpop b a) id t) (he : q.entries = []) (hd : t.delivered = false) : execQpop b a s =
    .next ((s.setQueue t.vd ((t.ctx.src a).setWidth 32) { q with poppers := q.poppers ++ [id] }).park id
      (.pop ((t.ctx.src a).setWidth 32) none)) := by
  refine run_park (t1 := t) hi ?_ ?_ hd
  · simp only [Instr.sources, List.map_cons, List.getD_cons_zero, act_bind, queueAt_known hp hh hq, act_get, State.pop,
      Queue.take_of_empty he, act_set, act_parkOn]
  · rw [State.setQueue, State.task?_modVd]
    exact hi.1.2

end Known

section Refused
variable (hq : s.queue? t.vd ((t.ctx.src a).setWidth 32) = none)
include hq

theorem execQfree_refused (hi : s.issues (.qfree a) id t) :
    execQfree a s = .next (s.takeTrap id 9 (((t.ctx.src a).setWidth 32 : Word32).setWidth 64) 0) :=
  run_trap hi (by simp only [Instr.sources, List.map_cons, List.getD_cons_zero, act_bind, queueAt_refused hp hh hq])

theorem execQlen_refused (hi : s.issues (.qlen b a) id t) :
    execQlen b a s = .next (s.takeTrap id 9 (((t.ctx.src a).setWidth 32 : Word32).setWidth 64) 0) :=
  run_trap hi (by simp only [Instr.sources, List.map_cons, List.getD_cons_zero, act_bind, queueAt_refused hp hh hq])

theorem execQpop_refused (hi : s.issues (.qpop b a) id t) :
    execQpop b a s = .next (s.takeTrap id 9 (((t.ctx.src a).setWidth 32 : Word32).setWidth 64) 0) :=
  run_trap hi (by simp only [Instr.sources, List.map_cons, List.getD_cons_zero, act_bind, queueAt_refused hp hh hq])

end Refused

theorem execQbind_refused (hq : s.queue? t.vd ((t.ctx.src a).setWidth 32) = none) (hi : s.issues (.qbind p a) id t)
    (h0 : (t.ctx.src a).setWidth 32 ≠ (0 : Word32)) : execQbind p a s =
      .next ((s.rebound id p (t.ctx.port p.toNat).bound).takeTrap id 9 (((t.ctx.src a).setWidth 32 : Word32).setWidth 64) 0) := by
  have hpackets : (s.rebound id p (t.ctx.port p.toNat).bound).packets = [] := (State.modTask_packets ..).trans hp
  have hidle : (s.rebound id p (t.ctx.port p.toNat).bound).trapWaits id = false := by
    simp only [State.trapWaits, State.heldStores_idle id hpackets, Bool.false_and]
    cases State.task? _ id <;> rfl
  refine run_over hi ?_
  simp only [Instr.sources, List.map_cons, List.getD_cons_zero, act_bind, act_get, hh, Bool.false_eq_true, if_false, act_modify,
    State.deliverMine_nil hp, hq, Option.isNone_none, if_true, ne_eq, h0, not_false_eq_true, hidle, act_throw]

end Ask

/-- A QBIND asks the home for a handle that is not 0. -/
theorem execQbind_binds {a : GReg} {p : BitVec 3} (hi : s.issues (.qbind p a) id t)
    (hnear : (s.packets = [] ∧ s.queueHeld t.vd ((t.ctx.src a).setWidth 32) = false ∧
      s.queue? t.vd ((t.ctx.src a).setWidth 32) = some q) ∨ (t.ctx.src a).setWidth 32 = (0 : Word32)) :
    execQbind p a s = .next ((s.rebound id p ((t.ctx.src a).setWidth 32)).wrote id (.qbind p a) fun c => c) := by
  refine run_wrote_noDests hi rfl ?_
  by_cases h0 : (t.ctx.src a).setWidth 32 = (0 : Word32)
  · simp only [Instr.sources, List.map_cons, List.getD_cons_zero, h0, ne_eq, not_true_eq_false, if_false, act_bind, act_modify,
      act_pure]
  · obtain ⟨hp, hh, hq⟩ := hnear.resolve_right h0
    simp only [Instr.sources, List.map_cons, List.getD_cons_zero, ne_eq, h0, not_false_eq_true, if_true, act_bind, act_get, hh,
      Bool.false_eq_true, if_false, act_modify, State.deliverMine_nil hp, hq, Option.isNone_some, act_pure]

/-! ### QPUSH -/

section Qpush
variable {a b : GReg} (hi : s.issues (.qpush a b) id t) (hh : s.queueHeld t.vd ((t.ctx.src a).setWidth 32) = false)
  (hp : (s.release id .module).packets = [])
include hi hh hp

theorem execQpush_refused (hq : (s.release id .module).queue? t.vd ((t.ctx.src a).setWidth 32) = none) : execQpush a b s =
    .next ((s.release id .module).takeTrap id 9 (((t.ctx.src a).setWidth 32 : Word32).setWidth 64) 0) := by
  refine run_over hi ?_
  simp only [Instr.sources, List.map_cons, List.getD_cons_zero, act_bind, act_get, hh, Bool.false_eq_true, if_false, act_modify,
    State.deliverMine_nil hp, hq, act_throw]

/-- A push at its home, by the task: its packet, and what the queue does with it. -/
def State.taskPush (s : State) (id : Nat) (t : Task) (h : Word32) (q : Queue) (x : Word) : State × Bool :=
  (s.message 0x20 t.last.tile t.vd x (.tile t.vd (qLid h)) h.toNat).push t.vd h q x (.task id)

variable (hq : (s.release id .module).queue? t.vd ((t.ctx.src a).setWidth 32) = some q)
include hq

theorem execQpush_pushes :
    let r := (s.release id .module).taskPush id t ((t.ctx.src a).setWidth 32) q (t.ctx.src b)
    (r.2 = false → execQpush a b s = .next (r.1.wrote id (.qpush a b) fun c => c)) ∧
    (r.2 = true → execQpush a b s = .next ((r.1.modTask id fun u =>
      { u.unkeep with ctx := { u.ctx.clearLatches [a, b] with pc := u.ctx.pc + 4 } }).park id
        (.push [((t.ctx.src a).setWidth 32, none)] none t.ctx))) := by
  intro r
  refine ⟨fun hheld => run_wrote_noDests hi rfl ?_, fun hheld => run_over hi ?_⟩
  · simp only [Instr.sources, List.map_cons, List.getD_cons_zero, List.getD_cons_succ, act_bind, act_get, hh, Bool.false_eq_true,
      if_false, act_modify, State.deliverMine_nil hp, hq, act_set]
    rw [show (State.push _ t.vd _ q (t.ctx.src b) (.task id)).2 = false from hheld]
    rfl
  · simp only [Instr.sources, List.map_cons, List.getD_cons_zero, List.getD_cons_succ, act_bind, act_get, hh, Bool.false_eq_true,
      if_false, act_modify, State.deliverMine_nil hp, hq, act_set]
    rw [show (State.push _ t.vd _ q (t.ctx.src b) (.task id)).2 = true from hheld]
    simp only [Done.next, clearLatches_pc]
    rfl

end Qpush

/-! ### QENQ -/

section Qenq
variable {h : HReg} {a b : GReg} {n : Nat} (hi : s.issues (.qenq h a b) id t)
  (hn : newFut t.vd { kind := 3, state := 3, reach := 1 } s = .ok (n, s1))
include hi hn

/-- The module that a QENQ names. -/
def namedModule (x : Word) : BitVec 16 := x.extractLsb' 32 16

/-- The state once the handle of an enqueue stands in hd. -/
def State.enqueued (s : State) (id : Nat) (t : Task) (h : HReg) (n : Nat) (c : Scope) : State :=
  (s.release id c).putH id h (handleOf ((s.release id c).fut t.vd n) n)

theorem execQenq_home (hm : namedModule (t.ctx.src a) = s1.moduleId) :
    let s3 := s1.enqueued id t h n .module
    execQenq h a b s = .next ((s3.send 0x21 0 t.last.tile t.last.core t.vd (t.ctx.src a) (t.ctx.src b)
      (.tile t.vd (qLid ((t.ctx.src a).setWidth 32))) (.enqueue t.vd n id (namedModule (t.ctx.src a)) ((t.ctx.src a).setWidth 32)
        (t.ctx.src b) s3.cycles) { handle := ((t.ctx.src a).setWidth 32 : Word32).toNat }).wrote id (.qenq h a b) fun c => c) := by
  intro s3
  refine run_wrote_noDests hi rfl ?_
  have hm' : ¬ (t.ctx.src a).extractLsb' 32 16 ≠ s1.moduleId := not_not.2 hm
  simp only [Instr.sources, List.map_cons, List.getD_cons_zero, List.getD_cons_succ, act_bind, hn, act_get, act_modify, hm',
    if_false, false_and, act_pure]
  rfl

theorem execQenq_away (hm : namedModule (t.ctx.src a) ≠ s1.moduleId) :
    let s3 := s1.enqueued id t h n .system
    (s3.routes.any (fun r => r.1 = (namedModule (t.ctx.src a)).toNat) = true →
      execQenq h a b s = .next ((s3.send 0x21 0 t.last.tile t.last.core t.vd (t.ctx.src a) (t.ctx.src b)
        (.place t.vd id (.peer (namedModule (t.ctx.src a)).toNat 0)) (.enqueue t.vd n id (namedModule (t.ctx.src a))
          ((t.ctx.src a).setWidth 32) (t.ctx.src b) s3.cycles) { handle := ((t.ctx.src a).setWidth 32 : Word32).toNat }).wrote id
            (.qenq h a b) fun c => c)) ∧
    (s3.routes.any (fun r => r.1 = (namedModule (t.ctx.src a)).toNat) = false →
      execQenq h a b s = .next (((s3.complete t.vd n 5 0 0 1).closeFut t.vd n).wrote id (.qenq h a b) fun c => c)) := by
  intro s3
  have hm' : (t.ctx.src a).extractLsb' 32 16 ≠ s1.moduleId := hm
  refine ⟨fun hr => run_wrote_noDests hi rfl ?_, fun hr => run_wrote_noDests hi rfl ?_⟩
  · simp only [Instr.sources, List.map_cons, List.getD_cons_zero, List.getD_cons_succ, act_bind, hn, act_get, act_modify,
      ne_eq, hm', not_false_eq_true, if_true, true_and, act_pure]
    exact congrArg (fun x => Except.ok (({} : Done), x)) (if_neg (not_not.2 hr))
  · simp only [Instr.sources, List.map_cons, List.getD_cons_zero, List.getD_cons_succ, act_bind, hn, act_get, act_modify,
      ne_eq, hm', not_false_eq_true, if_true, true_and, act_pure]
    exact congrArg (fun x => Except.ok (({} : Done), x)) (if_pos (Bool.eq_false_iff.1 hr))

end Qenq

/-! ### The family -/

/-- What a wake has given a QPOP is received after an acquire. -/
theorem execQpop_resumed {a b : GReg} {y : Word} (h : s.resumes (.qpop b a) id t y) :
    (s.acquire id .module).receives id t (.qpop b a) b y l s1 (execQpop b a s) := by
  refine ⟨fun hp => (run_resumed h (writeDests_register hp y)).trans ?_, fun hw => run_resumed h hw⟩
  rw [State.afterPushes_nil]

/-- Settles O42: each instruction by what its home answers. -/
theorem queueResults : Obligations.QueueResults := by
  intro s s1 id n t a b p hr q l x h lid sr near bind
  refine ⟨?_, execQnew_reserved, execQnew_elsewhere, ?_, execQbind_binds, ?_, ?_, fun y hy => execQpop_resumed hy, ?_, ?_,
    fun hh => ⟨fun hp hq => ⟨?_, ?_, execQpop_refused hp hh hq⟩, fun hp hq hi => execQpush_refused hi hh hp hq⟩⟩
  · intro hi hx hrole hs2 hs3 none' first made name
    refine ⟨fun hb hn => ?_, fun hb j hj => ?_, fun hn => ?_, fun j hj => ?_⟩
    · exact (execQnew_full (l := l) (s1 := s1) hi hx hs2 hrole hs3 hn).1 hb
    · exact (execQnew_made (l := l) (s1 := s1) hi hx hs2 hrole hs3 hj.1 hj.2.1 hj.2.2).1 hb
    · exact (execQnew_full hi hx hs2 hrole hs3 hn).2
    · exact (execQnew_made hi hx hs2 hrole hs3 hj.1 hj.2.1 hj.2.2).2
  · exact fun hi hn => execQfree_ends hn.1 hn.2.1 hn.2.2 hi
  · exact fun hi hh hp hq => execQpush_pushes hi hh hp hq
  · exact fun hi hn => ⟨fun y r hg => execQpop_takes hn.1 hn.2.1 hn.2.2 hi hg, execQpop_parks hn.1 hn.2.1 hn.2.2 hi⟩
  · intro hi hn m s2 s3 sent
    refine ⟨fun hm => ?_, fun hm => ?_, fun hm => ?_⟩
    · simp only [sent, s3, s2, if_pos hm]
      exact execQenq_home hi hn hm
    · simp only [sent, s3, s2, if_neg hm]
      exact (execQenq_away hi hn hm).1
    · simp only [s3, s2, if_neg hm]
      exact (execQenq_away hi hn hm).2
  · exact fun hi hn hlen => execQlen_counts hn.1 hn.2.1 hn.2.2 hi hlen
  · rintro i (rfl | rfl) hi
    · exact execQfree_refused hp hh hq hi
    · exact execQlen_refused hp hh hq hi
  · exact execQbind_refused hp hh hq

end Sys2Proof.Machine
end

section
/-! How a vector instruction ends, whatever registers it writes; integer lanes (R41, R50, R110, R451, R452). -/

namespace Sys2Proof.Machine

variable {s s1 : State} {i : Instr} {id : Nat} {t : Task}

/-! ### The end of a vector instruction (R283) -/

theorem Ctx.setV_aside (d : VReg) (r : VWord) : Ctx.Aside fun c => c.setV d r := fun _ _ _ _ => rfl

/-- The flags of an instruction beside the register that it writes. -/
theorem Ctx.flagged_aside {f : Ctx → Ctx} (hf : Ctx.Aside f) (x : Word) :
    Ctx.Aside fun c => f { c with fstat := c.fstat ||| x } := fun c => hf { c with fstat := c.fstat ||| x }

/-- Without a flag the results are written. -/
theorem finish_quiet (id : Nat) (f : Ctx → Ctx) (s : State) :
    finish id 0 f s = .ok ({}, s.modTask id fun u => { u with ctx := f u.ctx }) := by
  simp only [finish, act_bind, act_get]
  cases ht : s.task? id with
  | none => simp only [State.modTask, ht, act_pure]
  | some t =>
    have hstat : ({ t.ctx with fstat := t.ctx.fstat ||| BitVec.ofNat 64 0 } : Ctx) = t.ctx := by simp
    simp only [Nat.and_zero, ne_eq, not_true_eq_false, if_false, hstat, act_bind, act_set, act_pure, State.modTask_of ht]

section Ends
variable {body : VBody} {fl : Nat} {f : Ctx → Ctx} (h : s.issues i id t) (hd : i.dests = []) (hf : Ctx.Aside f)
include h hd hf

theorem run_finish_quiet (hb : body id t (i.sources.map t.ctx.src) s = finish id 0 f s1) : run i body s = .next (s1.wrote id i f) := by
  rw [run_wrote_noDests h hd (hb.trans (finish_quiet ..)), State.wrote_modTask hf]

/-- The flags are set and the results written; a flag that FCTL enables traps instead, with FSTAT set. -/
theorem run_finish (hb : body id t (i.sources.map t.ctx.src) s = finish id fl f (s.queued id t i)) :
    (fctlEnables t.ctx.fctl &&& fl = 0 → run i body s = .next ((s.queued id t i).wrote id i fun c =>
      f { c with fstat := c.fstat ||| BitVec.ofNat 64 fl })) ∧
    (fctlEnables t.ctx.fctl &&& fl ≠ 0 → run i body s = .next (((s.queued id t i).modTask id fun u =>
      { u with ctx := { u.ctx with fstat := u.ctx.fstat ||| BitVec.ofNat 64 fl } }).takeTrap id 0x11 0 (0xF00 + fl % 32))) := by
  have ht : (s.queued id t i).task? id = some t := h.1.2
  refine ⟨fun h0 => ?_, fun h0 => run_over h (hb.trans (finish_traps ht h0 _))⟩
  rw [run_wrote_noDests h hd (hb.trans (finish_ok ht h0 _)),
    State.wrote_modTask (Ctx.flagged_aside hf (BitVec.ofNat 64 fl))]

end Ends

/-! ### Lanes without flags -/

theorem flagsOf_quiet (ty : VTy) (m : Word32) (v : Nat → Nat) : flagsOf ty m (fun l => (v l, 0)) = 0 := by
  simp only [flagsOf, Nat.or_zero, ite_self, List.foldl_const]
  exact Function.iterate_fixed rfl _

theorem lane_lt (ty : VTy) (v : VWord) (l : Nat) : lane ty v l < 2 ^ ty.width := Nat.mod_lt _ (Nat.two_pow_pos _)

/-- The active lanes of vd take their values, the others keep their own, and no flag is raised. -/
theorem lanewise_quiet {ty : VTy} {f : Nat → Nat × Nat} {v : Nat → Nat} (h : ∀ l < ty.lanes, f l = (v l, 0)) (d : VReg) (k : MReg)
    (id : Nat) (tk : Task) : lanewise ty d k id tk f = finish id 0
      fun c => c.setV d (ofLanes ty.width (blend ty (tk.ctx.getM k) (tk.ctx.getV d) fun l => (v l, 0))) := by
  rw [lanewise_eq_finish h, flagsOf_quiet]

theorem lane_blend_quiet {ty : VTy} {l : Nat} (hl : l < ty.lanes) (m : Word32) (old : VWord) (v : Nat → Nat) :
    lane ty (ofLanes ty.width (blend ty m old fun l => (v l, 0))) l =
      if active ty m l then v l % 2 ^ ty.width else lane ty old l := by
  rw [lane_blend hl]
  split
  · rfl
  · exact Nat.mod_eq_of_lt (lane_lt ..)

/-! ### Integers modulo 2^width -/

theorem VTy.width_pos (ty : VTy) : 0 < ty.width := by cases ty <;> decide

theorem laneInt_modEq (ty : VTy) (x : Nat) : laneInt ty x ≡ x [ZMOD 2 ^ ty.width] := by
  unfold laneInt
  split
  · exact Int.sub_emod_right ..
  · exact Int.ModEq.refl _

theorem intLane_of_modEq {ty : VTy} {e : Int} {n : Nat} (h : e ≡ n [ZMOD 2 ^ ty.width]) : intLane ty e = n % 2 ^ ty.width := by
  rw [intLane, h]
  have : ((n : Int) % 2 ^ ty.width) = ((n % 2 ^ ty.width : Nat) : Int) := by push_cast; rfl
  rw [this, Int.toNat_natCast]

theorem laneInt_of_nonneg {ty : VTy} {x : Nat} (hx : x < 2 ^ ty.width) (h : ¬ laneInt ty x < 0) : laneInt ty x = x := by
  unfold laneInt at h ⊢
  split at h
  · exact absurd (by have : (x : Int) < 2 ^ ty.width := by exact_mod_cast hx
                     omega) h
  · rename_i hn
    rw [if_neg hn]

theorem laneInt_of_neg {ty : VTy} {x : Nat} (h : laneInt ty x < 0) : laneInt ty x = (x : Int) - 2 ^ ty.width := by
  unfold laneInt at h ⊢
  split at h
  · rename_i hn
    rw [if_pos hn]
  · exact absurd h (by omega)

theorem intLane_laneInt {ty : VTy} {x : Nat} (hx : x < 2 ^ ty.width) : intLane ty (laneInt ty x) = x := by
  rw [intLane_of_modEq (laneInt_modEq ty x), Nat.mod_eq_of_lt hx]

/-! ### What the integer instructions give (R452) -/

section Integer
variable {ty : VTy} {x y z n : Nat}

theorem arith_int (hty : fmtOf ty = none) (g : Int → Int → Int → Int) (h : Rm → Num → Num → Num → Num × Bool) (rm : Rm) (ftz : Bool) :
    arith ty g h rm ftz x y z = (intLane ty (g (laneInt ty x) (laneInt ty y) (laneInt ty z)), 0) := by
  simp only [arith, hty]

/-- The values of the arithmetic instructions, of lanes of their width. -/
theorem intLane_add : intLane ty (laneInt ty x + laneInt ty y) = (x + y) % 2 ^ ty.width := by
  refine intLane_of_modEq ?_
  push_cast
  exact (laneInt_modEq ty x).add (laneInt_modEq ty y)

theorem intLane_sub (hy : y < 2 ^ ty.width) : intLane ty (laneInt ty x - laneInt ty y) = (x + 2 ^ ty.width - y) % 2 ^ ty.width := by
  refine intLane_of_modEq ?_
  rw [Nat.add_sub_assoc hy.le, Nat.cast_add, Nat.cast_sub hy.le, Nat.cast_pow, Nat.cast_ofNat]
  refine ((laneInt_modEq ty x).sub (laneInt_modEq ty y)).trans ?_
  rw [show (x : Int) + (2 ^ ty.width - y) = x - y + 2 ^ ty.width by ring]
  exact (Int.add_emod_right ..).symm

theorem intLane_mul : intLane ty (laneInt ty x * laneInt ty y) = x * y % 2 ^ ty.width := by
  refine intLane_of_modEq ?_
  push_cast
  exact (laneInt_modEq ty x).mul (laneInt_modEq ty y)

theorem intLane_fma : intLane ty (laneInt ty x * laneInt ty y + laneInt ty z) = (x * y + z) % 2 ^ ty.width := by
  refine intLane_of_modEq ?_
  push_cast
  exact ((laneInt_modEq ty x).mul (laneInt_modEq ty y)).add (laneInt_modEq ty z)

theorem intLane_neg (hx : x < 2 ^ ty.width) : intLane ty (-laneInt ty x) = (2 ^ ty.width - x) % 2 ^ ty.width := by
  refine intLane_of_modEq ?_
  rw [Nat.cast_sub hx.le, Nat.cast_pow, Nat.cast_ofNat]
  refine (laneInt_modEq ty x).neg.trans ?_
  rw [show (2 : Int) ^ ty.width - x = -x + 2 ^ ty.width by ring]
  exact (Int.add_emod_right ..).symm

theorem intLane_abs (hx : x < 2 ^ ty.width) : intLane ty ((laneInt ty x).natAbs : Int) =
    if laneInt ty x < 0 then 2 ^ ty.width - x else x := by
  split
  · rename_i h
    have hx0 : 0 < x := by
      by_contra h0
      obtain rfl : x = 0 := by omega
      simp [laneInt] at h
    rw [show ((laneInt ty x).natAbs : Int) = -laneInt ty x by omega, intLane_neg hx, Nat.mod_eq_of_lt (by omega)]
  · rename_i h
    rw [laneInt_of_nonneg hx h, Int.natAbs_natCast, intLane_of_modEq (Int.ModEq.refl _), Nat.mod_eq_of_lt hx]

/-- The smaller or the larger of two lanes is one of them. -/
theorem intLane_pick (hx : x < 2 ^ ty.width) (hy : y < 2 ^ ty.width) (p : Prop) [Decidable p] :
    intLane ty (if p then laneInt ty y else laneInt ty x) = if p then y else x := by
  split
  · exact intLane_laneInt hy
  · exact intLane_laneInt hx

/-- An arithmetic instruction gives its integer value where its type is no floating one. -/
theorem arith_value {m : Nat} {g : Int → Int → Int → Int} {h : Rm → Num → Num → Num → Num × Bool}
    (hn : (if (fmtOf ty).isSome then none else some m) = some n)
    (hg : intLane ty (g (laneInt ty x) (laneInt ty y) (laneInt ty z)) = m) (hm : m < 2 ^ ty.width) (rm : Rm) (ftz : Bool) :
    arith ty g h rm ftz x y z = (n, 0) ∧ n < 2 ^ ty.width := by
  cases hty : fmtOf ty with
  | some f => simp [hty] at hn
  | none =>
    obtain rfl : m = n := by simpa [hty] using hn
    exact ⟨by rw [arith_int hty, hg], hm⟩

/-- A lane of bits that fits. -/
theorem bits_value {m : Nat} (hn : some m = some n) (hm : m < 2 ^ ty.width) : (m, 0) = (n, 0) ∧ n < 2 ^ ty.width := by
  obtain rfl := Option.some.inj hn
  exact ⟨rfl, hm⟩

theorem intLane_lt (ty : VTy) (e : Int) : intLane ty e < 2 ^ ty.width := by
  have hpos : (0 : Int) < 2 ^ ty.width := by positivity
  have := Int.emod_lt_of_pos e hpos
  have := Int.emod_nonneg e hpos.ne'
  zify
  rw [intLane, Int.toNat_of_nonneg this]
  assumption

end Integer

/-- Each is elementwise by a function that gives the values stated for it, which fit their lanes and raise no flag. -/
theorem exec_integer {i : Instr} {d a b : VReg} {k : MReg} {ty : VTy} (h : lanewiseForm i = some (d, a, b, k, ty)) :
    ∃ f, exec i = run i (elementwise i d a b k ty f) ∧ ∀ (rm : Rm) (ftz : Bool) (x y z n : Nat),
      x < 2 ^ ty.width → y < 2 ^ ty.width → intValue i x y z = some n → f rm ftz x y z = (n, 0) ∧ n < 2 ^ ty.width := by
  have hmod (m : Nat) : m % 2 ^ ty.width < 2 ^ ty.width := Nat.mod_lt _ (Nat.two_pow_pos _)
  cases i with
  | vadd =>
    cases h
    exact ⟨_, rfl, fun _ _ x y _ n _ _ hn => arith_value hn intLane_add (hmod _) ..⟩
  | vsub =>
    cases h
    exact ⟨_, rfl, fun _ _ x y _ n _ hy hn => arith_value hn (intLane_sub hy) (hmod _) ..⟩
  | vmul =>
    cases h
    exact ⟨_, rfl, fun _ _ x y _ n _ _ hn => arith_value hn intLane_mul (hmod _) ..⟩
  | vfma =>
    cases h
    exact ⟨_, rfl, fun _ _ x y _ n _ _ hn => arith_value hn intLane_fma (hmod _) ..⟩
  | vmin | vmax =>
    cases h
    exact ⟨_, rfl, fun _ _ x y _ n hx hy hn => arith_value hn (intLane_pick hx hy _) (by split <;> assumption) ..⟩
  | vabs =>
    cases h
    exact ⟨_, rfl, fun _ _ x y _ n hx _ hn => arith_value hn (intLane_abs hx) (by rw [← intLane_abs hx]; exact intLane_lt ..) ..⟩
  | vneg =>
    cases h
    exact ⟨_, rfl, fun _ _ x y _ n hx _ hn => arith_value hn (intLane_neg hx) (hmod _) ..⟩
  | vand =>
    cases h
    exact ⟨_, rfl, fun _ _ x y _ n hx hy hn => bits_value hn (Nat.and_lt_two_pow _ hy)⟩
  | vor =>
    cases h
    exact ⟨_, rfl, fun _ _ x y _ n hx hy hn => bits_value hn (Nat.or_lt_two_pow hx hy)⟩
  | vxor =>
    cases h
    exact ⟨_, rfl, fun _ _ x y _ n hx hy hn => bits_value hn (Nat.xor_lt_two_pow hx hy)⟩
  | vshl =>
    cases h
    exact ⟨_, rfl, fun _ _ x y _ n hx hy hn => bits_value hn (by split; exacts [Nat.two_pow_pos _, hmod _])⟩
  | vshr =>
    cases h
    exact ⟨_, rfl, fun _ _ x y _ n hx hy hn =>
      bits_value hn (by split; exacts [Nat.two_pow_pos _, (Nat.div_le_self ..).trans_lt hx])⟩
  | vsra =>
    cases h
    exact ⟨_, rfl, fun _ _ x y _ n hx hy hn => bits_value hn (intLane_lt ..)⟩
  | vrcp | vrsq | vexp2 | vlog2 =>
    cases h
    exact ⟨_, congrArg (run _) (functionBody_eq_elementwise ..), fun _ _ _ _ _ _ _ _ hn => nomatch hn⟩
  | vaddSat | vsubSat =>
    cases h
    exact ⟨_, rfl, fun _ _ _ _ _ _ _ _ hn => nomatch hn⟩
  | _ => nomatch h

/-- Settles O30: the instruction is elementwise (`exec_integer`), and no lane raises a flag. -/
theorem vectorIntegerLanes : Obligations.VectorIntegerLanes := by
  intro s id t i d a b k ty v hform hi hroom hvals
  obtain ⟨f, hexec, hf⟩ := exec_integer hform
  obtain ⟨hs, hd⟩ := lanewiseForm_regs hform
  have hlane (l : Nat) (hl : l < ty.lanes) := hf (fctlRm t.ctx.fctl).arith (fctlFtz t.ctx.fctl) _ _ _ _ (lane_lt ty (t.ctx.getV a) l)
    (lane_lt ty (t.ctx.getV b) l) (hvals l hl)
  refine ⟨ofLanes ty.width (blend ty (t.ctx.getM k) (t.ctx.getV d) fun l => (v l, 0)), ?_, fun l hl => ?_⟩
  · rw [hexec]
    refine run_finish_quiet hi hd (Ctx.setV_aside d _) ?_
    rw [elementwise_eq_finish hroom (fun l hl => (hlane l hl).1), flagsOf_quiet]
  · rw [lane_blend_quiet hl, Nat.mod_eq_of_lt (hlane l hl).2]

end Sys2Proof.Machine
end

section
/-! Vector moves and selections, and the full queue (R110, R277, R454, R458, R461, R462, R465, R466). -/

namespace Sys2Proof.Machine

variable {s : State} {i : Instr} {id : Nat} {t : Task} {d a b : VReg} {k : MReg} {ty : VTy}

/-! ### An instruction that gives each active lane a value -/

/-- The active lanes of vd take the low bits of their values, the others keep theirs. -/
theorem run_lanewise {body : VBody} {f : Nat → Nat × Nat} (h : s.issues i id t) (hd : i.dests = [])
    (hb : body id t (i.sources.map t.ctx.src) s = lanewise ty d k id t f (s.queued id t i)) (v : Nat → Nat)
    (hv : ∀ l < ty.lanes, f l = (v l, 0)) :
    ∃ r, run i body s = .next ((s.queued id t i).wrote id i fun c => c.setV d r) ∧ ∀ l < ty.lanes,
      lane ty r l = if active ty (t.ctx.getM k) l then v l % 2 ^ ty.width else lane ty (t.ctx.getV d) l := by
  refine ⟨_, run_finish_quiet h hd (Ctx.setV_aside d _) ?_, fun l hl => lane_blend_quiet hl ..⟩
  rw [hb, lanewise_quiet hv]

/-- A copied lane fits its container. -/
theorem moved_lt {x : Nat} (h : x < 2 ^ ty.width) : moved ty x < 2 ^ ty.width := by
  unfold moved
  split
  · exact (Nat.mod_le ..).trans_lt h
  · exact h

theorem moved_mod {x : Nat} (h : x < 2 ^ ty.width) : moved ty x % 2 ^ ty.width = moved ty x := Nat.mod_eq_of_lt (moved_lt h)

section Moves
variable (hroom : s.vroom t) {g : GReg}
include hroom

theorem execVbcast_lanes (h : s.issues (.vbcast d g k ty) id t) :
    ∃ r, execVbcast d g k ty s = .next ((s.queued id t (.vbcast d g k ty)).wrote id (.vbcast d g k ty) fun c => c.setV d r) ∧
      ∀ l < ty.lanes, lane ty r l = if active ty (t.ctx.getM k) l then moved ty ((t.ctx.src g).toNat % 2 ^ ty.width)
        else lane ty (t.ctx.getV d) l := by
  obtain ⟨r, hr, hl⟩ := run_lanewise (d := d) (k := k) (ty := ty) (body := vbcastBody d g k ty) h rfl (by
    simp only [vbcastBody, act_bind, enterQueue_ok hroom]; rfl) (fun _ => moved ty ((t.ctx.src g).toNat % 2 ^ ty.width)) fun _ _ => rfl
  refine ⟨r, hr, fun l hlt => ?_⟩
  rw [hl l hlt, moved_mod (Nat.mod_lt _ (Nat.two_pow_pos _))]

theorem execVperm_lanes (h : s.issues (.vperm d a b k ty) id t) :
    ∃ r, execVperm d a b k ty s = .next ((s.queued id t (.vperm d a b k ty)).wrote id (.vperm d a b k ty) fun c => c.setV d r) ∧
      ∀ l < ty.lanes, lane ty r l = if active ty (t.ctx.getM k) l then
        moved ty (lane ty (t.ctx.getV a) (lane ty (t.ctx.getV b) l % ty.lanes)) else lane ty (t.ctx.getV d) l := by
  obtain ⟨r, hr, hl⟩ := run_lanewise (d := d) (k := k) (ty := ty) (body := vpermBody d a b k ty) h rfl (by
    simp only [vpermBody, act_bind, enterQueue_ok hroom])
    (fun l => moved ty (lane ty (t.ctx.getV a) (lane ty (t.ctx.getV b) l % ty.lanes))) fun _ _ => rfl
  refine ⟨r, hr, fun l hlt => ?_⟩
  rw [hl l hlt, moved_mod (lane_lt ..)]

theorem execVslide_lanes (h : s.issues (.vslide d a g k ty) id t) :
    ∃ r, execVslide d a g k ty s = .next ((s.queued id t (.vslide d a g k ty)).wrote id (.vslide d a g k ty) fun c =>
        c.setV d r) ∧ ∀ l < ty.lanes, lane ty r l = if active ty (t.ctx.getM k) l then
      (if 0 ≤ (l : Int) + (t.ctx.src g).toInt ∧ (l : Int) + (t.ctx.src g).toInt < ty.lanes then
        moved ty (lane ty (t.ctx.getV a) ((l : Int) + (t.ctx.src g).toInt).toNat) else 0) else lane ty (t.ctx.getV d) l := by
  obtain ⟨r, hr, hl⟩ := run_lanewise (d := d) (k := k) (ty := ty) (body := vslideBody d a g k ty) h rfl (by
    simp only [vslideBody, act_bind, enterQueue_ok hroom]; rfl)
    (fun l => if 0 ≤ (l : Int) + (t.ctx.src g).toInt ∧ (l : Int) + (t.ctx.src g).toInt < ty.lanes then
      moved ty (lane ty (t.ctx.getV a) ((l : Int) + (t.ctx.src g).toInt).toNat) else 0) fun _ _ => rfl
  refine ⟨r, hr, fun l hlt => ?_⟩
  rw [hl l hlt, apply_ite (· % 2 ^ ty.width), moved_mod (lane_lt ..), Nat.zero_mod]

theorem execViota_lanes (h : s.issues (.viota d k ty) id t) :
    ∃ r, execViota d k ty s = .next ((s.queued id t (.viota d k ty)).wrote id (.viota d k ty) fun c => c.setV d r) ∧
      ∀ l < ty.lanes, lane ty r l = if active ty (t.ctx.getM k) l then (match fmtOf ty with
        | none => l
        | some f => (f.pack .rne false (.fin false l 0)).1) % 2 ^ ty.width else lane ty (t.ctx.getV d) l := by
  refine run_lanewise (body := viotaBody d k ty) (f := fun l => match fmtOf ty with
    | some f => ((f.pack .rne false (.fin false l 0)).1, 0)
    | none => (l, 0)) h rfl (by simp only [viotaBody, act_bind, enterQueue_ok hroom] <;> rfl) _ fun l _ => ?_
  cases fmtOf ty <;> rfl

theorem execVsel_lanes (h : s.issues (.vsel d a b k ty) id t) :
    ∃ r, execVsel d a b k ty s = .next ((s.queued id t (.vsel d a b k ty)).wrote id (.vsel d a b k ty) fun c => c.setV d r) ∧
      ∀ l < ty.lanes, lane ty r l = moved ty (lane ty (t.ctx.getV (if active ty (t.ctx.getM k) l then a else b)) l) := by
  refine ⟨ofLanes ty.width ((List.range ty.lanes).map fun l =>
    moved ty (lane ty (t.ctx.getV (if active ty (t.ctx.getM k) l then a else b)) l)),
    run_finish_quiet (body := vselBody d a b k ty) h rfl (Ctx.setV_aside d _) (by
      simp only [vselBody, act_bind, enterQueue_ok hroom]), fun l hl => ?_⟩
  rw [lane_ofLanes hl, List.getD_eq_getElem _ _ (by simpa using hl), List.getElem_map, List.getElem_range, moved_mod (lane_lt ..)]

end Moves

theorem execVmovs_lane {g : GReg} {n : BitVec 5} (h : s.issues (.vmovs g a n ty) id t) (hg : g.isPort = false) :
    execVmovs g a n ty s = .next (s.wrote id (.vmovs g a n ty) fun c => c.setG g
      (if ty.isSigned then BitVec.ofInt 64 (laneInt ty (lane ty (t.ctx.getV a) n.toNat))
       else BitVec.ofNat 64 (moved ty (lane ty (t.ctx.getV a) n.toNat)))) := by
  refine (run_wrote (v := [_]) h rfl (by simpa [Instr.dests] using hg)).trans ?_
  cases hs : ty.isSigned with
  | false => simp only [Bool.false_eq_true, if_false]; rfl
  | true =>
    have hmoved (x : Nat) : moved ty x = x := if_neg (by rintro rfl; cases hs)
    simp only [if_true, hmoved]
    rfl

/-! ### A full queue (R110) -/

theorem enterQueue_full (h : 16 ≤ (s.core t.last.tile t.last.core).vq.length) (i : Instr) (id : Nat) :
    enterQueue i id t s = .error .hold := by
  simp only [enterQueue, act_bind, act_get, if_pos h, act_holdHere]

/-- A vector instruction other than VMOVS enters the queue first. -/
theorem exec_enters (h : (vectorBody i).isSome) (hi : ∀ g a l ty, i ≠ .vmovs g a l ty) :
    ∃ body : VBody, exec i = run i body ∧ ∀ id t v, ∃ f : Unit → Act Done, body id t v = (enterQueue i id t >>= f) := by
  cases i with
  | vmovs g a l ty => exact absurd rfl (hi g a l ty)
  | vadd | vsub | vmul | vfma | vmin | vmax | vabs | vneg | vand | vor | vxor | vshl | vshr | vsra | vaddSat | vsubSat
  | vrcp | vrsq | vexp2 | vlog2 | vdec | venc | vcmp | vsel | vred | vscan | vcvt | vbcast | vperm | vslide | viota
  | vld | vst | vldx | vstx => exact ⟨_, rfl, fun _ _ _ => ⟨_, rfl⟩⟩
  | _ => nomatch h

/-- Settles O32: the moves lane by lane; a full queue holds whatever enters it. -/
theorem vectorMoves : Obligations.VectorMoves := by
  refine ⟨fun s id t d a b g k ty n hroom => ⟨execVbcast_lanes hroom, execVperm_lanes hroom, execVslide_lanes hroom,
    execViota_lanes hroom, execVsel_lanes hroom, execVmovs_lane⟩, fun s id t i hv hm hi hfull => ?_⟩
  obtain ⟨body, hexec, henters⟩ := exec_enters hv hm
  obtain ⟨f, hf⟩ := henters id t (i.sources.map t.ctx.src)
  rw [hexec]
  exact run_hold hi (by rw [hf, act_bind, enterQueue_full hfull])

end Sys2Proof.Machine
end

section
/-! Vector compares, reductions, scans, conversions and codes (R283, R290, R455 to R457, R463). -/

namespace Sys2Proof.Machine

variable {s : State} {i : Instr} {id : Nat} {t : Task} {d a b : VReg} {m k : MReg} {ty e : VTy}

/-! ### Masks -/

theorem testBit_maskNumber (l : List Bool) (j : Nat) :
    (l.foldr (fun (b : Bool) n => 2 * n + (if b then 1 else 0)) 0).testBit j = l.getD j false := by
  induction l generalizing j with
  | nil => simp
  | cons b l ih =>
    cases j with
    | zero => cases b <;> simp [Nat.testBit_zero, Nat.add_mod]
    | succ j =>
      have hhalf (n : Nat) : (2 * n + if b then 1 else 0) / 2 = n := by split <;> omega
      rw [List.foldr_cons, Nat.testBit_succ, hhalf, ih, List.getD_cons_succ]

/-- A bit of a mask that was put together from a list. -/
theorem getLsbD_maskOf (l : List Bool) {j : Nat} (hj : j < 32) : (maskOf l).getLsbD j = l.getD j false := by
  rw [maskOf, BitVec.getLsbD_ofNat, testBit_maskNumber, decide_eq_true hj, Bool.true_and]

/-! ### The table of a slot (R290) -/

section Slots
variable {n : BitVec 2} {x : Table}

/-- An entry of a table fits a container. -/
theorem Table.decode_lt (x : Table) (j : Nat) : x.decode j < 2 ^ VTy.width .n32 := (x.entries.getD (x.code j) 0).isLt

theorem slots_queued (s : State) (id : Nat) (t : Task) (i : Instr) :
    ((s.queued id t i).core t.last.tile t.last.core).slots = (s.core t.last.tile t.last.core).slots := by
  simp only [State.core, State.queued, State.modCore, State.tile_modTile, Tile.core, Tile.setCore, Vector.toList_setIfInBounds,
    List.getD_eq_getElem?_getD, List.getElem?_set]
  split
  · split
    · rfl
    · rename_i hout
      rw [List.getElem?_eq_none (Nat.not_lt.1 hout)]
  · contradiction

theorem slotTable_held (hx : (s.core t.last.tile t.last.core).slots[n.toNat] = some x) (hc : x.c4 = (ty == .c4)) (id : Nat)
    (i : Instr) : slotTable t n ty (s.queued id t i) = .ok (x, s.queued id t i) := by
  simp only [slotTable, act_bind, act_get, slots_queued, hx, hc, if_true, act_pure]

theorem slotTable_missing (hx : ∀ x, (s.core t.last.tile t.last.core).slots[n.toNat] = some x → x.c4 ≠ (ty == .c4)) (id : Nat)
    (i : Instr) : slotTable t n ty (s.queued id t i) = .error (.trap 0xE (BitVec.ofNat 64 (n.toNat * 256)) 0) := by
  simp only [slotTable, act_bind, act_get, slots_queued]
  cases hs : (s.core t.last.tile t.last.core).slots[n.toNat] with
  | none => rfl
  | some x => simp only [if_neg (hx x hs), act_trap]

end Slots

/-! ### Results with flags -/

/-- How an instruction ends that raises flags: they are set with what `f` does, or an enabled one traps. -/
def State.raises (s : State) (id : Nat) (t : Task) (i : Instr) (fl : Nat) (f : Ctx → Ctx) (r : Result) : Prop :=
  (fctlEnables t.ctx.fctl &&& fl = 0 → r = .next ((s.queued id t i).wrote id i fun c =>
    f { c with fstat := c.fstat ||| BitVec.ofNat 64 fl })) ∧
  (fctlEnables t.ctx.fctl &&& fl ≠ 0 → r = .next (((s.queued id t i).modTask id fun u =>
    { u with ctx := { u.ctx with fstat := u.ctx.fstat ||| BitVec.ofNat 64 fl } }).takeTrap id 0x11 0 (0xF00 + fl % 32)))

section Results
variable (hroom : s.vroom t)
include hroom

/-- A lane of a comparison: an inactive one keeps the mask's bit. -/
def cmpLane (c : Cond) (m : MReg) (a b : VReg) (k : MReg) (ty : VTy) (x : Ctx) (l : Nat) : Bool :=
  if active ty (x.getM k) l then condition c ty (fctlFtz x.fctl) (lane ty (x.getV a) l) (lane ty (x.getV b) l)
  else (x.getM m).getLsbD l

theorem execVcmp_raises {c : Cond} (h : s.issues (.vcmp c m a b k ty) id t) :
    ∃ r, s.raises id t (.vcmp c m a b k ty) 0 (fun y => y.setM m r) (execVcmp c m a b k ty s) ∧ ∀ l < 32,
      r.getLsbD l = if ty.lanes ≤ l then false else cmpLane c m a b k ty t.ctx l := by
  refine ⟨maskOf ((List.range ty.lanes).map (cmpLane c m a b k ty t.ctx)),
    run_finish (body := vcmpBody c m a b k ty) h rfl (Ctx.setM_aside m _) ?_, fun l hl => ?_⟩
  · simp only [vcmpBody, act_bind, enterQueue_ok hroom]
    rfl
  · rw [getLsbD_maskOf _ hl]
    split
    · rename_i hout
      exact List.getD_eq_default _ _ (by simpa using hout)
    · rename_i hin
      rw [List.getD_eq_getElem _ _ (by simpa using hin), List.getElem_map, List.getElem_range]

theorem execVred_raises {p : RedOp} (h : s.issues (.vred d a p k ty) id t) :
    let scan := scanLanes (combine p ty (fctlRm t.ctx.fctl).arith (fctlFtz t.ctx.fctl)) (redLanes ty k a t.ctx) none
    s.raises id t (.vred d a p k ty) scan.2 (fun y => y.setV d
      (ofLanes ty.width [((scan.1.filterMap fun x => x).getLast?).getD (identity p ty)])) (execVred d a p k ty s) :=
  run_finish (body := vredBody d a p k ty) h rfl (Ctx.setV_aside d _) (by simp only [vredBody, act_bind, enterQueue_ok hroom])

theorem execVscan_raises {p : RedOp} (h : s.issues (.vscan d a p k ty) id t) :
    let scan := scanLanes (combine p ty (fctlRm t.ctx.fctl).arith (fctlFtz t.ctx.fctl)) (redLanes ty k a t.ctx) none
    s.raises id t (.vscan d a p k ty) scan.2 (fun y => y.setV d
      (ofLanes ty.width (((lanesOf ty.width (t.ctx.getV d)).zip scan.1).map fun x => x.2.getD x.1))) (execVscan d a p k ty s) :=
  run_finish (body := vscanBody d a p k ty) h rfl (Ctx.setV_aside d _) (by simp only [vscanBody, act_bind, enterQueue_ok hroom])

theorem execVcvt_raises (h : s.issues (.vcvt d a e k ty) id t) :
    let r := (List.range (min ty.lanes e.lanes)).map fun l => if (t.ctx.getM k).getLsbD l then
      convert ty e (fctlRm t.ctx.fctl) (fctlFtz t.ctx.fctl) (lane ty (t.ctx.getV a) l) else (lane e (t.ctx.getV d) l, 0)
    s.raises id t (.vcvt d a e k ty) (r.foldl (fun f q => f ||| q.2) 0) (fun y => y.setV d (ofLanes e.width (r.map (·.1))))
      (execVcvt d a e k ty s) :=
  run_finish (body := vcvtBody d a e k ty) h rfl (Ctx.setV_aside d _) (by
    simp only [vcvtBody, act_bind, enterQueue_ok hroom])

section Codes
variable {n : BitVec 2} {x : Table}

section Held
variable (hx : (s.core t.last.tile t.last.core).slots[n.toNat] = some x) (hc : x.c4 = (ty == .c4))
include hx hc

theorem codeBody_held {f : Table → Nat → Nat × Nat} (v : List Word) : codeBody i d a n k ty f id t v s =
    lanewise .n32 d k id t (fun l => f x (lane .n32 (t.ctx.getV a) l)) (s.queued id t i) := by
  simp only [codeBody, act_bind, enterQueue_ok hroom, slotTable_held hx hc]

theorem execVdec_raises (h : s.issues (.vdec d a n k ty) id t) :
    ∃ r, s.raises id t (.vdec d a n k ty) 0 (fun y => y.setV d r) (execVdec d a n k ty s) ∧ ∀ l < 8,
      lane .n32 r l = if active .n32 (t.ctx.getM k) l then x.decode (lane .n32 (t.ctx.getV a) l)
        else lane .n32 (t.ctx.getV d) l := by
  refine ⟨_, run_finish (body := vdecBody d a n k ty) h rfl (Ctx.setV_aside d _)
    ((codeBody_held hroom hx hc _).trans (congrFun (lanewise_quiet (fun _ _ => rfl) ..) _)), fun l hl => ?_⟩
  rw [lane_blend_quiet hl, Nat.mod_eq_of_lt (x.decode_lt _)]

theorem execVenc_raises (h : s.issues (.venc d a n k ty) id t) :
    s.raises id t (.venc d a n k ty) (flagsOf .n32 (t.ctx.getM k) fun l => x.encode (lane .n32 (t.ctx.getV a) l))
      (fun y => y.setV d (ofLanes 32 ((List.range 8).map fun l => if active .n32 (t.ctx.getM k) l then
        (x.encode (lane .n32 (t.ctx.getV a) l)).1 else lane .n32 (t.ctx.getV d) l))) (execVenc d a n k ty s) := by
  have hblend : blend .n32 (t.ctx.getM k) (t.ctx.getV d) (fun l => x.encode (lane .n32 (t.ctx.getV a) l)) =
      (List.range 8).map fun l => if active .n32 (t.ctx.getM k) l then (x.encode (lane .n32 (t.ctx.getV a) l)).1
        else lane .n32 (t.ctx.getV d) l :=
    List.map_congr_left fun l _ => by rw [laneResult, apply_ite Prod.fst]
  rw [← hblend]
  exact run_finish (body := vencBody d a n k ty) h rfl (Ctx.setV_aside d _)
    ((codeBody_held hroom hx hc _).trans (congrFun (lanewise_eq_finish (fun _ _ => rfl) ..) _))

end Held

theorem codeBody_missing {f : Table → Nat → Nat × Nat} (v : List Word)
    (hx : ∀ x, (s.core t.last.tile t.last.core).slots[n.toNat] = some x → x.c4 ≠ (ty == .c4)) :
    codeBody i d a n k ty f id t v s = .error (.trap 0xE (BitVec.ofNat 64 (n.toNat * 256)) 0) := by
  simp only [codeBody, act_bind, enterQueue_ok hroom, slotTable_missing hx]

end Codes
end Results

/-- Settles O33: each instruction ends by `run_finish`, with the flags of its lanes; the codes go through the table of their slot. -/
theorem vectorOthers : Obligations.VectorOthers := by
  intro s id t d a b c m k ty e p n x hroom ftz scan to_
  refine ⟨execVcmp_raises hroom, execVred_raises hroom, execVscan_raises hroom, execVcvt_raises hroom,
    fun hx hc => ⟨execVdec_raises hroom hx hc, execVenc_raises hroom hx hc⟩, ?_⟩
  rintro i (rfl | rfl) hi hx
  · exact (run_trap hi (codeBody_missing hroom _ hx) : execVdec d a n k ty s = _)
  · exact (run_trap hi (codeBody_missing hroom _ hx) : execVenc d a n k ty s = _)

end Sys2Proof.Machine
end

section
/-! Vector loads and stores (R342, R459, R460). -/

namespace Sys2Proof.Machine

variable {s s0 s1 : State} {id : Nat} {t : Task} {d b : VReg} {ga gb : GReg} {k : MReg} {ty : VTy}

theorem vectorAddress_ok {x y : Word} (h : (x + y).toNat % VTy.bytes ty = 0) (s : State) :
    vectorAddress ty [x, y] s = .ok ((x + y).toNat, s) := by
  simp only [vectorAddress, List.getD_cons_zero, List.getD_cons_succ, h, ne_eq, not_true_eq_false, if_false, act_pure]

theorem vectorAddress_trap {x y : Word} (h : (x + y).toNat % VTy.bytes ty ≠ 0) (s : State) :
    vectorAddress ty [x, y] s = .error (.trap 2 (x + y) 0) := by
  simp only [vectorAddress, List.getD_cons_zero, List.getD_cons_succ]
  rw [if_pos h]
  rfl

section Accesses
variable (hroom : s.vroom t)
include hroom

/-! ### VLD and VST -/

section Aligned
variable (ha : (t.ctx.src ga + t.ctx.src gb).toNat % VTy.bytes ty = 0)
include ha

theorem execVld_loaded {l : List (Nat × Byte)} (h : s.issues (.vld d ga gb k ty) id t)
    (hc : checkPages id t .load ((activeBytes ty (t.ctx.getM k)).map ((t.ctx.src ga + t.ctx.src gb).toNat + ·))
      (s.queued id t (.vld d ga gb k ty)) = .ok ((), s0))
    (hl : loadRuns id t (t.ctx.src ga + t.ctx.src gb).toNat (runsOf (t.ctx.src ga + t.ctx.src gb).toNat
      (activeBytes ty (t.ctx.getM k))) s0 = .ok (l, s1)) :
    execVld d ga gb k ty s = .next (s1.wrote id (.vld d ga gb k ty) fun c => c.setV d
      (ofLanes 8 ((List.range 32).map fun o => ((look l o).getD ((t.ctx.getV d).extractLsb' (8 * o) 8)).toNat))) := by
  refine run_finish_quiet (body := vldBody d ga gb k ty) h rfl (Ctx.setV_aside d _) ?_
  simp only [vldBody, act_bind, enterQueue_ok hroom, Instr.sources, List.map_cons, List.map_nil, vectorAddress_ok ha, hc, hl]

theorem execVst_stored (h : s.issues (.vst d ga gb k ty) id t)
    (hc : checkPages id t .store ((activeBytes ty (t.ctx.getM k)).map ((t.ctx.src ga + t.ctx.src gb).toNat + ·))
      (s.queued id t (.vst d ga gb k ty)) = .ok ((), s0))
    (hst : storeBytes id (t.ctx.src ga + t.ctx.src gb).toNat ((activeBytes ty (t.ctx.getM k)).map fun o =>
      (o, (t.ctx.getV d).extractLsb' (8 * o) 8)) .dflt false s0 = .ok ((), s1)) :
    execVst d ga gb k ty s = .next (s1.wrote id (.vst d ga gb k ty) fun c => c) := by
  refine run_wrote_noDests (body := vstBody d ga gb k ty) h rfl ?_
  simp only [vstBody, act_bind, enterQueue_ok hroom, Instr.sources, List.map_cons, List.map_nil, vectorAddress_ok ha, hc, hst,
    act_pure]

end Aligned

section Misaligned
variable (ha : (t.ctx.src ga + t.ctx.src gb).toNat % VTy.bytes ty ≠ 0)
include ha

theorem execVld_misaligned (h : s.issues (.vld d ga gb k ty) id t) :
    execVld d ga gb k ty s = .next (s.takeTrap id 2 (t.ctx.src ga + t.ctx.src gb) 0) :=
  run_trap h (by
    simp only [vldBody, act_bind, enterQueue_ok hroom, Instr.sources, List.map_cons, List.map_nil, vectorAddress_trap ha])

theorem execVst_misaligned (h : s.issues (.vst d ga gb k ty) id t) :
    execVst d ga gb k ty s = .next (s.takeTrap id 2 (t.ctx.src ga + t.ctx.src gb) 0) :=
  run_trap h (by
    simp only [vstBody, act_bind, enterQueue_ok hroom, Instr.sources, List.map_cons, List.map_nil, vectorAddress_trap ha])

end Misaligned

/-! ### VLDX and VSTX -/

theorem execVldx_loaded {x : List (Nat × Nat)} (h : s.issues (.vldx d ga b k ty) id t)
    (hl : loadLanes id t ty (t.ctx.src ga) ((activeLanes ty (t.ctx.getM k)).map fun i => (i, lane ty (t.ctx.getV b) i))
      (s.queued id t (.vldx d ga b k ty)) = .ok (x, s1)) :
    execVldx d ga b k ty s = .next (s1.wrote id (.vldx d ga b k ty) fun c => c.setV d
      (ofLanes ty.width ((List.range ty.lanes).map fun i =>
        if active ty (t.ctx.getM k) i then (look x i).getD 0 else lane ty (t.ctx.getV d) i))) := by
  have hblend : blend ty (t.ctx.getM k) (t.ctx.getV d) (fun i => ((look x i).getD 0, 0)) =
      (List.range ty.lanes).map fun i => if active ty (t.ctx.getM k) i then (look x i).getD 0 else lane ty (t.ctx.getV d) i :=
    List.map_congr_left fun l _ => by rw [laneResult, apply_ite Prod.fst]
  rw [← hblend]
  refine run_finish_quiet (body := vldxBody d ga b k ty) h rfl (Ctx.setV_aside d _) ?_
  simp only [vldxBody, act_bind, enterQueue_ok hroom, Instr.sources, List.map_cons, List.getD_cons_zero, hl]
  rw [lanewise_quiet fun _ _ => rfl]

theorem execVstx_stored (h : s.issues (.vstx d ga b k ty) id t)
    (hst : storeLanes id ty (t.ctx.src ga)
      ((activeLanes ty (t.ctx.getM k)).map fun i => (lane ty (t.ctx.getV b) i, lane ty (t.ctx.getV d) i))
      (s.queued id t (.vstx d ga b k ty)) = .ok ((), s1)) :
    execVstx d ga b k ty s = .next (s1.wrote id (.vstx d ga b k ty) fun c => c) := by
  refine run_wrote_noDests (body := vstxBody d ga b k ty) h rfl ?_
  simp only [vstxBody, act_bind, enterQueue_ok hroom, Instr.sources, List.map_cons, List.getD_cons_zero, hst, act_pure]

end Accesses

/-- Settles O34: each access once its queue has taken it. -/
theorem vectorMemory : Obligations.VectorMemory := by
  intro s s0 s1 id t d b ga gb k ty l x hroom va on lanes
  exact ⟨fun h ha hc hl => execVld_loaded hroom ha h hc hl, fun h ha hc hst => execVst_stored hroom ha h hc hst,
    ⟨fun h ha => execVld_misaligned hroom ha h, fun h ha => execVst_misaligned hroom ha h⟩, execVldx_loaded hroom,
    execVstx_stored hroom⟩

end Sys2Proof.Machine
end

section
/-! Why a load may wait for more bytes than O22 grants: a line whose set is pinned whole fills nothing, and its request is granted
the bytes that are read (R177, R317), of which the statement names any number. -/

namespace Sys2Proof.Machine

/-! ### Two lines of one set

Which lines share a set is open; but the sets are fewer than the pages of a die. -/

/-- The set of a page's first line: its slice, and the set within it. -/
def pageSet (f : Nat) : Nat × Nat := (Config.slice 0 (256 * f) % Config.slicesPerDie, Config.l2set (256 * f) % Config.sets)

theorem exists_pageSet_eq : ∃ f < 100000, ∃ c < 100000, f ≠ c ∧ pageSet f = pageSet c := by
  have hmaps : Set.MapsTo pageSet (Finset.range 100000) (Finset.range 36 ×ˢ Finset.range 2048 : Finset (Nat × Nat)) := fun f _ =>
    Finset.mem_coe.2 (Finset.mem_product.2 ⟨Finset.mem_range.2 (Nat.mod_lt _ (by decide)), Finset.mem_range.2 (Nat.mod_lt _ (by decide))⟩)
  have hcard : (Finset.range 36 ×ˢ Finset.range 2048).card < (Finset.range 100000).card := by
    rw [Finset.card_product, Finset.card_range, Finset.card_range, Finset.card_range]
    decide
  obtain ⟨f, hf, c, hc, hne, heq⟩ := Finset.exists_ne_map_eq_of_card_lt_of_maps_to hcard hmaps
  exact ⟨f, Finset.mem_range.1 hf, c, Finset.mem_range.1 hc, hne, heq⟩

/-! ### The state -/

/-- The leaf of a page of HBM at frame `f`, accessed, for task mode. -/
def leafAt (f : Nat) : Word := BitVec.ofNat 64 (65536 * f + 16)

def loader : Task := { vd := 0, ident := .ordinary 0 }

/-- Address 0 translates to page `f`; sixteen pinned lines of page `c` stand in the L2; the cluster may grant 256 bytes in an
interval in which another turn has asked first. -/
def pinnedState (f c : Nat) : State :=
  { tiles := [(0, { tlb := [{ vd := 0, vpn := 0, level := 0, leaf := leafAt f, pte := 0 }] })],
    l2 := List.replicate 16 { line := 256 * c, pins := [1] }, clusters := [(0, { budget := 1, first := some 5 })] }

section Page
variable {f c : Nat} (hf : f < 100000)
include hf

theorem leafAt_toNat : (leafAt f).toNat = 65536 * f + 16 := Nat.mod_eq_of_lt (by omega)

theorem leafAt_bit (k : Nat) : (leafAt f).getLsbD k = ((65536 * f + 16) / 2 ^ k % 2 == 1) := by
  rw [BitVec.getLsbD, leafAt_toNat hf, Nat.testBit_eq_decide_div_mod_eq]
  rfl

theorem physOf_leafAt : physOf (leafAt f) 0 0 = ⟨65536 * f, false, 0, 0, 0⟩ := by
  have hframe : bvBits (leafAt f) 47 16 = f := by
    rw [bvBits, leafAt_toNat hf, bits, Nat.shiftRight_eq_div_pow]
    omega
  have htier : bvBits (leafAt f) 63 62 = 0 := by
    rw [bvBits, leafAt_toNat hf, bits, Nat.shiftRight_eq_div_pow]
    omega
  have hret : bvBits (leafAt f) 57 56 = 0 := by
    rw [bvBits, leafAt_toNat hf, bits, Nat.shiftRight_eq_div_pow]
    omega
  have hms : (leafAt f).getLsbD 7 = false := by
    rw [leafAt_bit hf, beq_eq_false_iff_ne]
    omega
  simp only [physOf, pteFrame, pteTier, pteRet, pteMs, hframe, htier, hret, hms, Nat.zero_mod, Nat.add_zero, Nat.mul_comm]

theorem resolve_pinnedState : resolve 0 loader 0 .load (pinnedState f c) =
    .ok ((.phys (65536 * f) false, ⟨65536 * f, false, 0, 0, 0⟩), pinnedState f c) := by
  have ha : (leafAt f).getLsbD 4 = true := by
    rw [leafAt_bit hf, beq_iff_eq]
    omega
  have hs : (leafAt f).getLsbD 6 = false := by
    rw [leafAt_bit hf, beq_eq_false_iff_ne]
    omega
  have htier : pteTier (leafAt f) ≠ 2 := by
    rw [pteTier, bvBits, leafAt_toNat hf, bits, Nat.shiftRight_eq_div_pow]
    omega
  have hcached : (pinnedState f c).cached loader 0 .load = some { vd := 0, vpn := 0, level := 0, leaf := leafAt f, pte := 0 } := by
    have hfind : (loader.extTable ++ ((pinnedState f c).tile loader.last.tile).tlb).find? (fun x => x.covers loader.vd 0) =
        some { vd := 0, vpn := 0, level := 0, leaf := leafAt f, pte := 0 } := 
      List.find?_cons_of_pos (by simp [TlbEntry.covers, loader])
    rw [State.cached, hfind, Option.filter_some, if_pos]
    exact Bool.and_eq_true_iff.2 ⟨ha, rfl⟩
  have hrefuses : pageRefuses (leafAt f) .load loader.ctx.mode = none := by
    rw [pageRefuses, if_neg htier, if_neg]
    simp only [reduceCtorEq, false_and, pteS, hs, Bool.false_eq_true, and_false, or_self, not_false_eq_true]
  have htable : ((pinnedState f c).inTable (65536 * f)).isSome = false := rfl
  have hbase : ¬ 2 ^ 57 ≤ 0 ∧ ¬ Config.windowBase ≤ 0 := by decide
  simp only [resolve, act_bind, act_get, hbase, if_false, translate, hcached, hrefuses, act_pure, physOf_leafAt hf, htable,
    Bool.false_eq_true, false_and]

end Page

theorem grants_pinnedState (f c : Nat) : ((pinnedState f c).cluster 0).grants (pinnedState f c).cycles 64 = true ∧
    ((pinnedState f c).cluster 0).grants (pinnedState f c).cycles 257 = false := ⟨rfl, rfl⟩

theorem bypassed_pinnedState {f c : Nat} (hf : f < 100000) (hc : c < 100000) (hne : f ≠ c) (hset : pageSet f = pageSet c) :
    (pinnedState f c).bypassed (65536 * f) = true := by
  have hline : 65536 * f / 256 = 256 * f := by omega
  have hslice (g : Nat) (hg : g < 100000) : (pinnedState f c).sliceOf (256 * (256 * g)) =
      Config.slice 0 (256 * g) % Config.slicesPerDie := by
    have hdie : 256 * (256 * g) / Config.dieBytes = 0 := Nat.div_eq_of_lt (by have : Config.dieBytes = 384000000000 := rfl; omega)
    have hflash : ¬ Config.flashBase ≤ 256 * (256 * g) := by have : Config.flashBase = 140737488355328 := rfl; omega
    simp only [State.sliceOf, if_neg (show ¬ 2 ^ 70 ≤ 256 * (256 * g) by omega), if_neg hflash, hdie, Nat.mul_zero, Nat.zero_add,
      Nat.mul_div_cancel_left _ (show 0 < 256 by decide)]
    rfl
  have hsame : (pinnedState f c).sameSet (256 * c) (256 * f) = true := by
    obtain ⟨h1, h2⟩ := Prod.mk.inj hset
    rw [State.sameSet, hslice f hf, hslice c hc, Bool.and_eq_true, beq_iff_eq, beq_iff_eq]
    exact ⟨h1.symm, h2.symm⟩
  have hhbm : 65536 * f < Config.hbmBytes := by have : Config.hbmBytes = 1536000000000 := rfl; omega
  have hlook : l2Look (pinnedState f c).l2 (256 * f) = none := by
    refine List.find?_eq_none.2 fun x hx => ?_
    obtain ⟨-, rfl⟩ := List.mem_replicate.1 hx
    exact fun h => hne (by have := of_decide_eq_true h; dsimp only at this; omega)
  have hsetlines : (pinnedState f c).l2Set (256 * f) = (pinnedState f c).l2 := by
    rw [State.l2Set, if_neg (show ¬ (pinnedState f c).l2.length < Config.ways by simp [pinnedState, Config.ways])]
    refine List.filter_eq_self.2 fun x hx => ?_
    obtain ⟨-, rfl⟩ := List.mem_replicate.1 hx
    exact hsame
  have hpinned : (pinnedState f c).l2Pinned (256 * f) = true := by
    rw [State.l2Pinned, hsetlines]
    rfl
  simp only [State.bypassed, hline, hhbm, decide_true, Bool.true_or, hlook, Option.isNone_none, hpinned, Bool.and_self]

/-- The load of 257 bytes waits for a grant of as many. -/
theorem loadPiece_pinnedState {f c : Nat} (hf : f < 100000) (hc : c < 100000) (hne : f ≠ c) (hset : pageSet f = pageSet c) :
    loadPiece 0 loader 0 257 .dflt false (pinnedState f c) = .error .hold := by
  have hnone : ((List.range 257).all fun j => buffered loader.sbuf (.phys (65536 * f) false) j) = false := rfl
  have hl1 : l1Look ((pinnedState f c).tile loader.last.tile).l1 (65536 * f / 64) = none := rfl
  have hbypassed := bypassed_pinnedState hf hc hne hset
  have hbudget : budget loader (.phys (65536 * f) false) 257 (pinnedState f c) = .error .hold := rfl
  have hread : readHome 0 loader 0 (.phys (65536 * f) false) 0 257 0 true (pinnedState f c) = .error .hold := by
    simp only [readHome, act_bind, act_get, Target.l1Key, Option.any_some, hbypassed, Bool.not_true, Bool.and_false,
      Bool.false_eq_true, if_false, homeBytes, keyOf, act_pure, hbudget]
  simp only [loadPiece, act_bind, resolve_pinnedState hf, hnone, Bool.false_eq_true, if_false, readLine, Target.l1Key, act_get,
    hl1, Hint.effective, hread]

/-- Refutes O22: of a line whose set is pinned whole, a load of 257 bytes asks for 257, where the cluster grants 256 and so the
64 bytes of a fill. -/
theorem not_loadResults : ¬ Obligations.LoadResults := by
  intro h
  obtain ⟨f, hf, c, hc, hne, hset⟩ := exists_pageSet_eq
  obtain ⟨-, -, -, hpiece⟩ := h (pinnedState f c) (pinnedState f c) 0 loader 0 0 .dflt .b .module 0 [] rfl rfl
  obtain ⟨-, -, hhome⟩ := hpiece 0 257 (65536 * f) ⟨65536 * f, false, 0, 0, 0⟩ (resolve_pinnedState hf) (by decide)
  obtain ⟨s2, hload, -⟩ := (hhome rfl rfl rfl rfl).2 (by exact List.not_mem_nil)
  rw [loadPiece_pinnedState hf hc hne hset] at hload
  exact nomatch hload

end Sys2Proof.Machine
end


section
/-! The invariant of a state, kept by the operations on its tables and memory. Every function of the model that makes a state has a
lemma below, under its own name in `State.Inv`, in the order of the model's files. -/

namespace Sys2Proof.Machine.State.Inv

variable {s : State}

/-! ### Rules -/

/-- What touches neither memory nor the tables of tasks, tiles and devices keeps the invariant. -/
theorem same {t : State} (h : s.Inv) (hm : t.mem = s.mem) (ht : t.tasks = s.tasks) (hl : t.tiles = s.tiles)
    (hv : t.vds = s.vds) : t.Inv :=
  ⟨hm ▸ h.mem, ht ▸ h.tasks, hl ▸ h.tiles, hv ▸ h.vds⟩

theorem work {t : State} (h : s.Inv) (hw : s.SameWork t) : t.Inv := h.same hw.mem hw.tasks hw.tiles hw.vds

theorem ite {c : Prop} [Decidable c] {t u : State} (h : t.Inv) (h' : u.Inv) : (if c then t else u).Inv := by
  split
  · exact h
  · exact h'

theorem iteSnd {α : Type} {c : Prop} [Decidable c] {p q : α × State} (h : p.2.Inv) (h' : q.2.Inv) : (if c then p else q).2.Inv := by
  split
  · exact h
  · exact h'

theorem iteFst {α : Type} {c : Prop} [Decidable c] {p q : State × α} (h : p.1.Inv) (h' : q.1.Inv) : (if c then p else q).1.Inv := by
  split
  · exact h
  · exact h'

theorem foldl {α : Type} {f : State → α → State} {l : List α} (h : s.Inv) (hf : ∀ t x, t.Inv → (f t x).Inv) : (l.foldl f s).Inv :=
  List.foldlRecOn l f h fun t ht x _ => hf t x ht

theorem erred {l : List Nat} (h : s.Inv) : State.Inv { s with errored := l } := same h rfl rfl rfl rfl
theorem responded {l : List Word} (h : s.Inv) : State.Inv { s with response := l } := same h rfl rfl rfl rfl
theorem replaced {a n : Nat} {l : List (Nat × Byte)} (h : s.Inv) : State.Inv { s with mem := s.mem.replace a n l } :=
  ⟨Memory.wf_replace h.mem _ _ _, h.tasks, h.tiles, h.vds⟩
theorem vdAdded {n k : Nat} {v : Vd} (h : s.Inv) : State.Inv { s with vds := put s.vds n v, serial := k } :=
  ⟨h.mem, h.tasks, h.tiles, nodup_put h.vds n v⟩
theorem taskCut {n : Nat} (h : s.Inv) : State.Inv { s with tasks := cut s.tasks n } := ⟨h.mem, nodup_cut h.tasks n, h.tiles, h.vds⟩
theorem drawn {n : Nat} (h : s.Inv) : State.Inv { s with draws := n } := same h rfl rfl rfl rfl
theorem vdsMapped {f : Nat × Vd → Vd} (h : s.Inv) : State.Inv { s with vds := s.vds.map fun x => (x.1, f x) } :=
  ⟨h.mem, h.tasks, h.tiles, by simpa only [List.map_map, Function.comp_def] using h.vds⟩

/-- A table changed in its entries alone. -/
theorem keys_map {κ α : Type} {l : List (κ × α)} (h : (l.map Prod.fst).Nodup) (f : κ × α → α) :
    ((l.map fun x => (x.1, f x)).map Prod.fst).Nodup := by
  simpa only [List.map_map, Function.comp_def] using h

theorem keys_kept {κ α : Type} {l : List (κ × α)} {f : κ × α → κ × α} (h : (l.map Prod.fst).Nodup) (hf : ∀ x, (f x).1 = x.1) :
    ((l.map f).map Prod.fst).Nodup := by
  have e : Prod.fst ∘ f = Prod.fst := funext hf
  simpa only [List.map_map, e] using h

theorem keys_filter {κ α : Type} {l : List (κ × α)} (h : (l.map Prod.fst).Nodup) (p : κ × α → Bool) :
    ((l.filter p).map Prod.fst).Nodup :=
  h.sublist (List.filter_sublist.map _)

/-- The state of a pair, once its parts are named. -/
theorem snd {α : Type} {p : α × State} {a : α} {t : State} (e : p = (a, t)) (h : p.2.Inv) : t.Inv := by
  rw [e] at h
  exact h
theorem fst {α : Type} {p : State × α} {a : α} {t : State} (e : p = (t, a)) (h : p.1.Inv) : t.Inv := by
  rw [e] at h
  exact h

/-! ### Tables -/

theorem setTile {n : Nat} {t : Tile} (h : s.Inv) : (s.setTile n t).Inv := ⟨h.mem, h.tasks, nodup_put h.tiles n t, h.vds⟩
theorem modTile {n : Nat} {f : Tile → Tile} (h : s.Inv) : (s.modTile n f).Inv := h.setTile
theorem modCore {n c : Nat} {f : Core → Core} (h : s.Inv) : (s.modCore n c f).Inv := h.setTile
theorem setTask {n : Nat} {t : Task} (h : s.Inv) : (s.setTask n t).Inv := ⟨h.mem, nodup_put h.tasks n t, h.tiles, h.vds⟩
theorem modTask {n : Nat} {f : Task → Task} (h : s.Inv) : (s.modTask n f).Inv := by
  unfold State.modTask
  split
  · exact h.setTask
  · exact h
theorem setVd {n : Nat} {v : Vd} (h : s.Inv) : (s.setVd n v).Inv := ⟨h.mem, h.tasks, h.tiles, nodup_put h.vds n v⟩
theorem modVd {n : Nat} {f : Vd → Vd} (h : s.Inv) : (s.modVd n f).Inv := by
  unfold State.modVd
  split
  · exact h.setVd
  · exact h

end Sys2Proof.Machine.State.Inv

namespace Sys2Proof.Machine

/-! ### The invariant where a function may answer no state -/

/-- The state that an event makes, where it makes one. -/
def OptInv (o : Option State) : Prop := ∀ t, o = some t → t.Inv

namespace OptInv

theorem none : OptInv none := fun _ e => absurd e (Option.some_ne_none _).symm
theorem some {t : State} (h : t.Inv) : OptInv (some t) := fun _ e => Option.some.inj e ▸ h
theorem ite {c : Prop} [Decidable c] {o p : Option State} (h : OptInv o) (h' : OptInv p) : OptInv (if c then o else p) := by
  split
  · exact h
  · exact h'
theorem map {α : Type} {o : Option α} {f : α → State} (h : ∀ x, (f x).Inv) : OptInv (o.map f) := by
  cases o with
  | none => exact .none
  | some x => exact .some (h x)
/-- Where what is mapped is known to be the option's own. -/
theorem mapOf {α : Type} {o : Option α} {f : α → State} (h : ∀ x, o = Option.some x → (f x).Inv) : OptInv (o.map f) := by
  cases o with
  | none => exact .none
  | some x => exact .some (h x rfl)
theorem bind {α : Type} {o : Option α} {f : α → Option State} (h : ∀ x, OptInv (f x)) : OptInv (o.bind f) := by
  cases o with
  | none => exact .none
  | some x => exact h x
theorem getD {o : Option State} {s : State} (h : OptInv o) (hs : s.Inv) : (o.getD s).Inv := by
  cases o with
  | none => exact hs
  | some t => exact h t rfl

end OptInv

/-- The state in which an instruction ends early. -/
def Stop.Inv : Stop → Prop
  | .park _ s | .over s => s.Inv
  | _ => True

/-- What stops an instruction, where anything does. -/
def OptStopInv (o : Option Stop) : Prop := ∀ e, o = some e → e.Inv

theorem OptStopInv.none : OptStopInv none := fun _ he => absurd he (Option.some_ne_none _).symm
theorem OptStopInv.some {e : Stop} (h : e.Inv) : OptStopInv (some e) := fun _ he => Option.some.inj he ▸ h

/-- Every state that an action ends in meets the invariant. -/
structure KeepsInv {α : Type} (m : Act α) (s : State) : Prop where
  ok : ∀ x s', m s = .ok (x, s') → s'.Inv
  error : ∀ e, m s = .error e → e.Inv

namespace KeepsInv

variable {α β : Type} {s : State}

theorem of_ok {m : Act α} {x : α} {t : State} (e : m s = .ok (x, t)) (h : t.Inv) : KeepsInv m s := by
  refine ⟨fun y u e' => ?_, fun y e' => ?_⟩
  · rw [e, Except.ok.injEq, Prod.mk.injEq] at e'
    exact e'.2 ▸ h
  · rw [e] at e'
    exact nomatch e'

theorem of_error {m : Act α} {x : Stop} (e : m s = .error x) (h : x.Inv) : KeepsInv m s := by
  refine ⟨fun y u e' => ?_, fun y e' => ?_⟩
  · rw [e] at e'
    exact nomatch e'
  · rw [e, Except.error.injEq] at e'
    exact e' ▸ h

theorem pure (h : s.Inv) {x : α} : KeepsInv (Pure.pure x) s := of_ok (act_pure x s) h
theorem set {t : State} (h : t.Inv) : KeepsInv (MonadStateOf.set t : Act PUnit) s := of_ok (act_set s t) h
theorem modify {f : State → State} (h : (f s).Inv) : KeepsInv (modify f : Act PUnit) s := of_ok (act_modify f s) h
theorem throw {e : Stop} (h : e.Inv) : KeepsInv (throw e : Act α) s := of_error (act_throw e s) h
theorem trap {c : Nat} {v : Word} : KeepsInv (Machine.trap c v : Act α) s := of_error (act_trap c v s) trivial
theorem holdHere : KeepsInv (Machine.holdHere : Act α) s := of_error (act_holdHere s) trivial
theorem parkOn (h : s.Inv) {w : Wait} : KeepsInv (Machine.parkOn w : Act α) s := of_error (act_parkOn w s) h

theorem bind {m : Act α} {f : α → Act β} (hm : KeepsInv m s) (hf : ∀ x t, t.Inv → KeepsInv (f x) t) : KeepsInv (m >>= f) s := by
  cases hx : m s with
  | error e =>
    refine ⟨fun x t h => ?_, fun e' h => ?_⟩
    · rw [act_bind, hx] at h; exact nomatch h
    · rw [act_bind, hx, Except.error.injEq] at h; exact h ▸ hm.error e hx
  | ok p =>
    have ht := hf p.1 p.2 (hm.ok p.1 p.2 hx)
    refine ⟨fun x t h => ht.ok x t ?_, fun e' h => ht.error e' ?_⟩
    · rwa [act_bind, hx] at h
    · rwa [act_bind, hx] at h

/-- A state that is read is the one at hand. -/
theorem get_bind {f : State → Act β} (hf : KeepsInv (f s) s) : KeepsInv (get >>= f) s := by
  refine ⟨fun x t h => hf.ok x t ?_, fun e h => hf.error e ?_⟩
  · rwa [act_bind, act_get] at h
  · rwa [act_bind, act_get] at h

theorem tryCatch {m : Act α} {f : Stop → Act α} (hm : KeepsInv m s) (hf : ∀ e, e.Inv → KeepsInv (f e) s) :
    KeepsInv (tryCatch m f : Act α) s := by
  have e' : (MonadExcept.tryCatch m f : Act α) s = MonadExcept.tryCatch (m s) fun e => f e s := rfl
  cases hx : m s with
  | ok p =>
    rw [hx] at e'
    exact of_ok e' (hm.ok _ _ hx)
  | error e =>
    have he := hf e (hm.error e hx)
    rw [hx] at e'
    exact ⟨fun x t h => he.ok x t (e'.symm.trans h), fun x h => he.error x (e'.symm.trans h)⟩

/-- A step that is done or left out, and what follows it. -/
theorem when {c : Prop} [Decidable c] {m : Act α} {f : Act β} (hm : KeepsInv m s) (hf : ∀ t, t.Inv → KeepsInv f t) (h : s.Inv) :
    KeepsInv (if c then m >>= fun _ => f else f) s := by
  split
  · exact hm.bind fun _ t ht => hf t ht
  · exact hf s h

theorem ite {c : Prop} [Decidable c] {m n : Act α} (h : KeepsInv m s) (h' : KeepsInv n s) : KeepsInv (if c then m else n) s := by
  split
  · exact h
  · exact h'

end KeepsInv

/-- The state after a turn. -/
def Result.Inv (r : Result) : Prop := ∀ t, r = .next t → t.Inv

namespace Result.Inv

theorem fault {f : Fault} : Result.Inv (.fault f) := fun _ e => by simp only [reduceCtorEq] at e
theorem refused {f : Refusal} : Result.Inv (.refused f) := fun _ e => by simp only [reduceCtorEq] at e
theorem ite {c : Prop} [Decidable c] {r q : Result} (h : r.Inv) (h' : q.Inv) : Result.Inv (if c then r else q) := by
  split
  · exact h
  · exact h'

end Result.Inv

theorem Result.Inv.next {s : State} (h : s.Inv) : Result.Inv (.next s) := fun _ e => Host.Outcome.next.inj e ▸ h

end Sys2Proof.Machine
end

section
/-! The invariant of a state, kept by the functions of `Sys2Proof/Machine/Store.lean`. -/

namespace Sys2Proof.Machine

variable {s : State}

theorem State.Inv.modEntry {vd lid : Nat} {f : Entry → Entry} (h : s.Inv) : (s.modEntry vd lid f).Inv := .modVd h

theorem State.Inv.putFut {vd i : Nat} {f : Fut} (h : s.Inv) : (s.putFut vd i f).Inv := .modVd h

theorem State.Inv.setGroup {vd g : Nat} {x : Group} (h : s.Inv) : (s.setGroup vd g x).Inv := .modVd h

theorem State.Inv.modCluster {c : Nat} {f : Cluster → Cluster} (h : s.Inv) : (s.modCluster c f).Inv := .same h rfl rfl rfl rfl

theorem State.Inv.modStop {n : Nat} {f : NetStop → NetStop} (h : s.Inv) : (s.modStop n f).Inv := .same h rfl rfl rfl rfl

theorem State.Inv.draw (h : s.Inv) : s.draw.2.Inv := .same h rfl rfl rfl rfl

end Sys2Proof.Machine
end

section
/-! The invariant of a state, kept by the functions of `Sys2Proof/Machine/Network.lean`. -/

namespace Sys2Proof.Machine

variable {s : State}

theorem State.Inv.send {kind len src unit vd : Nat} {addr value : Word} {goal : Goal} {body : Packet} {op : OpField}
    (h : s.Inv) : (s.send kind len src unit vd addr value goal body op).Inv := .same h rfl rfl rfl rfl

theorem State.Inv.message {kind src vd : Nat} {value : Word} {goal : Goal} {handle : Nat} {addr : Word} (h : s.Inv) :
    (s.message kind src vd value goal handle addr).Inv := .send h

theorem State.Inv.moveTo {k : Nat} {p : Pkt} {loc : Loc} (h : s.Inv) : (s.moveTo k p loc).Inv := .work h (s.moveTo_same k p loc)

theorem State.Inv.hop {k : Nat} (h : s.Inv) : (s.hop k).Inv := .work h (s.hop_same k)

theorem State.Inv.countRoute {msg : Bool} {stop dst n : Nat} (h : s.Inv) : (s.countRoute msg stop dst n).Inv := by
  induction n generalizing s stop with
  | zero => exact h
  | succ n ih =>
    unfold State.countRoute
    split
    · exact h
    · exact ih (.same h rfl rfl rfl rfl)
    · exact ih h

theorem State.Inv.countRest {p : Pkt} (h : s.Inv) : (s.countRest p).Inv := by
  unfold State.countRest
  split
  · split
    · exact .modStop h
    · exact .modStop h
    · exact .countRoute (.modStop h)
  · split
    · exact .modStop h
    · exact .modStop h
    · exact .countRoute (.modStop h)
  · split
    · exact h
    · exact h
    · exact .countRoute h

theorem State.Inv.endDrains (h : s.Inv) : s.endDrains.Inv := .same h rfl rfl rfl rfl

theorem State.Inv.shift {die : Nat} (h : s.Inv) : (s.shift die).Inv :=
  .ite h (.endDrains (.foldl (.same (.same h rfl rfl rfl rfl) rfl rfl rfl rfl) (fun _ _ h1 => .modStop h1)))

theorem State.Inv.countFull {old : State} (h : s.Inv) : (s.countFull old).Inv := .foldl h fun _ _ h1 => .ite (.modStop h1) h1

end Sys2Proof.Machine
end

section
/-! The invariant of a state, kept by the functions of `Sys2Proof/Machine/Cache.lean`. -/

namespace Sys2Proof.Machine

variable {s : State}

theorem State.Inv.writeBack {x : L2Line} (h : s.Inv) : (s.writeBack x).Inv := .ite h (.send h)

theorem State.Inv.l2Drop {line : Nat} (h : s.Inv) : (s.l2Drop line).Inv := by
  unfold State.l2Drop
  split
  · exact .writeBack (.same h rfl rfl rfl rfl)
  · exact h

theorem State.Inv.l2Alloc {x : L2Line} (h : s.Inv) : (s.l2Alloc x).Inv := by
  unfold State.l2Alloc
  refine .same (.ite ?_ h) rfl rfl rfl rfl
  split
  · exact .l2Drop h
  · exact h

theorem State.Inv.l2Hit {x : L2Line} {ret : Nat} (h : s.Inv) : (s.l2Hit x ret).Inv :=
  .ite (.same h rfl rfl rfl rfl) (.same h rfl rfl rfl rfl)

theorem State.Inv.l2Access {a n ret : Nat} {store : Bool} (h : s.Inv) : (s.l2Access a n ret store).1.Inv := by
  unfold State.l2Access
  split
  · dsimp only
    split
    · split
      · exact .l2Hit h
      · exact .l2Hit h
    · split
      · exact h
      · exact .l2Alloc h
  · dsimp only
    split
    · split
      · exact .l2Hit h
      · exact .l2Hit h
    · split
      · exact h
      · exact .l2Alloc h

theorem State.Inv.l2Demand {vd tier a n ret : Nat} {store : Bool} (h : s.Inv) : (s.l2Demand vd tier a n ret store).Inv := by
  unfold State.l2Demand
  refine .ite h ?_
  dsimp only
  exact .ite (.modVd (.ite (.modVd (.l2Access h)) (.l2Access h))) (.ite (.modVd (.l2Access h)) (.l2Access h))

theorem State.Inv.l2Pin {line cmd : Nat} (h : s.Inv) : (s.l2Pin line cmd).Inv := .same h rfl rfl rfl rfl

theorem State.Inv.l2Unpin {cmd : Nat} (h : s.Inv) : (s.l2Unpin cmd).Inv := .ite h (.same h rfl rfl rfl rfl)

theorem State.Inv.grant {tile n : Nat} (h : s.Inv) : (s.grant tile n).Inv := .modCluster h

end Sys2Proof.Machine
end

section
/-! The invariant of a state, kept by the functions of `Sys2Proof/Machine/Access.lean`. -/

namespace Sys2Proof.Machine

variable {s : State}

theorem KeepsInv.drawNat (h : s.Inv) : KeepsInv (Machine.drawNat) s :=
  .get_bind (.bind (.set (.same h rfl rfl rfl rfl)) (fun _ _ h1 => .pure h1))

theorem State.Inv.readyRecord {t : Task} {st : Nat} (h : s.Inv) : (s.readyRecord t st).Inv := by
  unfold State.readyRecord
  split
  · exact .putFut h
  · exact h

theorem State.Inv.readyTask {id : Nat} {w : Option Woke} (h : s.Inv) : (s.readyTask id w).Inv := by
  unfold State.readyTask
  split
  · exact h
  · exact .ite h (.readyRecord (.setTask h))

theorem State.Inv.noteFut {vd i n : Nat} (h : s.Inv) : (s.noteFut vd i n).Inv := by
  induction n generalizing s vd i with
  | zero => exact h
  | succ n ih =>
    refine .foldl h fun t x ht => ?_
    dsimp only
    split
    · exact ih (.readyTask ht)
    · exact .readyTask ht

theorem State.Inv.setFut {vd i : Nat} {f : Fut} (h : s.Inv) : (s.setFut vd i f).Inv := .ite (.putFut h) (.noteFut (.putFut h))

theorem State.Inv.modFut {vd i : Nat} {f : Fut → Fut} (h : s.Inv) : (s.modFut vd i f).Inv := .setFut h

theorem State.Inv.setFutState {t : Task} {st : Nat} (h : s.Inv) : (s.setFutState t st).Inv := by
  unfold State.setFutState
  split
  · exact .modFut h
  · exact h

theorem State.Inv.makeReady {id : Nat} {w : Option Woke} (h : s.Inv) : (s.makeReady id w).Inv := by
  unfold State.makeReady
  split
  · exact h
  · refine .ite h ?_
    split
    · exact .noteFut (.readyTask h)
    · exact .readyTask h

theorem State.Inv.give {id : Nat} {x : Word} (h : s.Inv) : (s.give id x).Inv := .makeReady (.modTask h)

theorem State.Inv.wakeWhere {p : Task → Wait → Bool} {w : Option Woke} (h : s.Inv) : (s.wakeWhere p w).Inv := by
  unfold State.wakeWhere
  refine .foldl h fun t x h1 => ?_
  split
  · exact .ite (.makeReady h1) h1
  · exact h1

theorem State.Inv.moveArms {old new len : Nat} (h : s.Inv) : (s.moveArms old new len).Inv :=
  ⟨h.mem, State.Inv.keys_map h.tasks _, h.tiles, h.vds⟩

theorem State.Inv.moveMarks {old new len : Nat} (h : s.Inv) : (s.moveMarks old new len).Inv :=
  .same (.moveArms h) rfl rfl rfl rfl

theorem State.Inv.touch {k : Nat} (h : s.Inv) : (s.touch k).Inv := .ite (.ite (.setTile h) h) (.ite (.ite (.modEntry h) h) h)

theorem State.Inv.ownWrites {vd : Nat} {f : State → State} (h : s.Inv) (hf : ∀ t, t.Inv → (f t).Inv) :
    (s.ownWrites vd f).Inv :=
  .ite (.modVd (hf _ (.modVd h))) (hf _ h)

theorem State.Inv.write {cells : List (Nat × Byte)} (h : s.Inv) : (s.write cells).Inv :=
  .foldl ⟨Memory.wf_setAll h.mem _, h.tasks, h.tiles, h.vds⟩ (fun _ _ h1 => .wakeWhere (.ite (.same
    (.touch h1) rfl rfl rfl rfl) (.touch h1)))

theorem State.Inv.zeroRange {k n : Nat} (h : s.Inv) : (s.zeroRange k n).Inv :=
  .foldl ⟨Memory.wf_clear h.mem _ _, h.tasks, h.tiles, h.vds⟩ fun _ _ h1 => .wakeWhere (.touch h1)

theorem State.Inv.replaceRange {k n : Nat} {cells : List (Nat × Byte)} (h : s.Inv) : (s.replaceRange k n cells).Inv :=
  ⟨Memory.wf_setAll (State.Inv.zeroRange h).mem _, (State.Inv.zeroRange h).tasks, (State.Inv.zeroRange h).tiles,
    (State.Inv.zeroRange h).vds⟩

theorem State.Inv.writeDword {k : Nat} {x : Word} (h : s.Inv) : (s.writeDword k x).Inv := .write h

theorem KeepsInv.walkFor {id : Nat} {t : Task} {va : Nat} {a : Acc} (h : s.Inv) : KeepsInv (Machine.walkFor id t va a) s := by
  unfold Machine.walkFor
  refine .get_bind ?_
  split
  · exact .throw trivial
  · split
    · exact .trap
    · exact .bind (.set (.setTile (.ite h (.writeDword h)))) (fun _ _ h1 => .bind (.modify (.modTask h1)) (fun _ _ h2 =>
      .pure h2))

theorem KeepsInv.translate {id : Nat} {t : Task} {va : Nat} {a : Acc} (h : s.Inv) :
    KeepsInv (Machine.translate id t va a) s := by
  unfold Machine.translate
  refine .get_bind ?_
  split
  · split
    · exact .trap
    · exact .pure h
  · exact .walkFor h

theorem KeepsInv.resolve {id : Nat} {t : Task} {va : Nat} {a : Acc} (h : s.Inv) : KeepsInv (Machine.resolve id t va a) s := by
  unfold Machine.resolve
  refine .get_bind (.ite .trap (.ite (.ite (.pure h) (.ite ?_ .trap)) (.bind (.translate h) (fun _ _ h1 => .when .trap
    (fun _ h2 => .pure h2) h1))))
  dsimp only
  split
  · exact .trap
  · exact .ite .trap (.pure h)

theorem KeepsInv.keyOf {t : Task} {va : Nat} {g : Target} (h : s.Inv) : KeepsInv (Machine.keyOf t va g) s := by
  unfold Machine.keyOf
  split
  · exact .pure h
  · exact .pure h
  · exact .pure h
  · refine .get_bind (.when .holdHere (fun t1 h1 => ?_) h)
    split
    · exact .pure h1
    · exact .trap

theorem KeepsInv.storable {t : Task} {va : Nat} {g : Target} (h : s.Inv) : KeepsInv (Machine.storable t va g) s := by
  unfold Machine.storable
  split
  · exact .get_bind (.ite .trap (.pure h))
  · exact .pure h

theorem KeepsInv.reserve {vd va : Nat} (h : s.Inv) : KeepsInv (Machine.reserve vd va) s := by
  unfold Machine.reserve
  refine .get_bind ?_
  split
  · exact .pure h
  · exact .ite (.pure h) (.ite (.set (.modVd h)) .trap)

theorem State.Inv.undoWrite {r : Region} {off : Nat} {l : List (Nat × Byte)} (h : s.Inv) : (s.undoWrite r off l).Inv := .write h

theorem State.Inv.journal {vd va key : Nat} {pin : Bool} (h : s.Inv) : (s.journal vd va key pin).Inv := by
  unfold State.journal
  split
  · exact h
  · refine .ite ?_ (.ite h (.ite (.modVd (.undoWrite (.undoWrite h))) (.undoWrite h)))
    split
    · exact .undoWrite (.ite h (.ite (.modVd (.undoWrite (.undoWrite h))) (.undoWrite h)))
    · exact .ite h (.ite (.modVd (.undoWrite (.undoWrite h))) (.undoWrite h))

end Sys2Proof.Machine
end

section
/-! The invariant of a state, kept by the functions of `Sys2Proof/Machine/Traffic.lean`. -/

namespace Sys2Proof.Machine

variable {s : State}

theorem State.Inv.noticePut {vd : Nat} {r : Word × Word × Word × Word} (h : s.Inv) : (s.noticePut vd r).Inv :=
  .ite h (.message (.writeDword (.writeDword (.writeDword (.writeDword (.writeDword h))))))

theorem State.Inv.noticeOrDrop {vd kind lid : Nat} (h : s.Inv) : (s.noticeOrDrop vd kind lid).Inv :=
  .ite h (.ite (.noticePut h) (.writeDword h))

theorem State.Inv.l2Store {vd : Nat} {st : Store} (h : s.Inv) : (s.l2Store vd st).Inv := by
  unfold State.l2Store
  split
  · exact .l2Demand h
  · exact .l2Demand h
  · exact .l2Drop h
  · exact h

theorem State.Inv.performAt {vd task : Nat} {st : Store} (h : s.Inv) : (s.performAt vd task st).1.Inv := by
  unfold State.performAt
  split
  · exact h
  · refine .ownWrites (.l2Store ?_) (fun t h1 => .write h1)
    split
    · exact .journal h
    · exact h

theorem State.Inv.perform {vd task : Nat} {st : Store} (h : s.Inv) : (s.perform vd task st).Inv := .performAt h

theorem State.Inv.shadowWrite {k : Nat} {x : Word} (h : s.Inv) : (s.shadowWrite k x).Inv :=
  ⟨Memory.wf_setAll h.mem _, h.tasks, h.tiles, h.vds⟩

theorem State.Inv.land {vd task lid off : Nat} {x : Word} (h : s.Inv) : (s.land vd task lid off x).Inv := by
  unfold State.land
  dsimp only
  split
  · split
    · exact .shadowWrite h
    · exact .noticeOrDrop h
  · refine .ite ?_ (.noticeOrDrop h)
    split
    · exact .shadowWrite h
    · exact .noticeOrDrop h

theorem State.Inv.mapCmds {f : Cmd → Cmd} (h : s.Inv) : (s.mapCmds f).Inv :=
  ⟨h.mem, State.Inv.keys_map h.tasks _, State.Inv.keys_map h.tiles _, h.vds⟩

theorem State.Inv.modCmdAt {id : Nat} {f : Cmd → Cmd} (h : s.Inv) : (s.modCmdAt id f).Inv := .mapCmds h

theorem State.Inv.saveMessage {vd n round id : Nat} {m : Message} (h : s.Inv) : (s.saveMessage vd n round id m).Inv := by
  unfold State.saveMessage
  split
  · exact h
  · exact .ite (.writeDword (.write h)) h

theorem State.Inv.exchangeHere {vd n round id : Nat} {m : Message} (h : s.Inv) : (s.exchangeHere vd n round id m).Inv :=
  .saveMessage (.setGroup h)

theorem State.Inv.deliver {p : Pkt} (h : s.Inv) : (s.deliver p).Inv := by
  unfold State.deliver
  split
  · exact .perform h
  · dsimp only
    exact .ite (.performAt h) (.modCmdAt (.performAt h))
  · exact .land h
  · exact .exchangeHere h
  · exact h
  · exact h
  · exact .same h rfl rfl rfl rfl
  · exact .same h rfl rfl rfl rfl

theorem State.Inv.countTrip {p : Pkt} (h : s.Inv) : (s.countTrip p).Inv := by
  unfold State.countTrip
  split
  · split
    · exact h
    · exact h
    · exact .countRoute (.countRest h)
    · exact .countRoute (.countRoute (.countRest h))
  · split
    · exact h
    · exact h
    · exact .countRoute (.countRest h)
    · exact .countRoute (.countRoute (.countRest h))

theorem State.Inv.flush {f : Pkt → Bool} (h : s.Inv) : (s.flush f).Inv :=
  .ite h (.foldl (.same (.foldl h (fun _ _ h1 => .countTrip h1)) rfl rfl rfl rfl) (fun _ _ h1 => .deliver h1))

theorem State.Inv.settlePath {tile id : Nat} {goal : Goal} {g : Target} {n : Nat} (h : s.Inv) :
    (s.settlePath tile id goal g n).Inv := .ite h (.flush h)

theorem State.Inv.answer {p : Pkt} {kind len : Nat} {x : Word} (h : s.Inv) : (s.answer p kind len x).Inv := .send h

theorem State.Inv.sendOn {k : Nat} {p : Pkt} (h : s.Inv) : (s.sendOn k p).Inv := .same h rfl rfl rfl rfl

theorem State.Inv.receive {k : Nat} (h : s.Inv) : (s.receive k).Inv := by
  unfold State.receive
  split
  · exact h
  · refine .ite h (.ite (.sendOn h) (.ite h ?_))
    split
    · exact .answer (.deliver (.same h rfl rfl rfl rfl))
    · exact .answer (.deliver (.same h rfl rfl rfl rfl))
    · exact .answer (.same h rfl rfl rfl rfl)
    · exact .same h rfl rfl rfl rfl
    · exact h

theorem State.Inv.traffic {kind len answer vd id : Nat} {t : Place} {va : Nat} {x : Word} {g : Target} {op : OpField}
    {y : Word} {data : List Word} (h : s.Inv) : (s.traffic kind len answer vd id t va x g op y data).Inv := .ite (.send h) h

theorem State.Inv.drainFirst {id : Nat} (h : s.Inv) : (s.drainFirst id).Inv := by
  unfold State.drainFirst
  split
  · exact h
  · split
    · exact h
    · exact .ite (.flush (.send (.modTile (.setTask h)))) (.send (.modTile (.setTask h)))

theorem State.Inv.drainOne {id : Nat} (h : s.Inv) : (s.drainOne id).Inv := .ite (.drainFirst (.drainFirst h)) (.drainFirst h)

theorem State.Inv.drainN {id n : Nat} (h : s.Inv) : (s.drainN id n).Inv := by
  induction n generalizing s with
  | zero => exact h
  | succ n ih => exact ih (.drainOne h)

theorem State.Inv.drain {id : Nat} (h : s.Inv) : (s.drain id).Inv := by
  unfold State.drain
  split
  · exact h
  · exact .ite h (.drainN h)

theorem State.Inv.ackAll {id : Nat} (h : s.Inv) : (s.ackAll id).Inv := .flush (.drain h)

theorem State.Inv.releaseStores {id : Nat} {c : Scope} (h : s.Inv) : (s.releaseStores id c).Inv := by
  unfold State.releaseStores
  split
  · exact .flush (.drain h)
  · exact .ackAll h

theorem State.Inv.landAll {id : Nat} (h : s.Inv) : (s.landAll id).Inv := .flush h

theorem State.Inv.release {id : Nat} {c : Scope} (h : s.Inv) : (s.release id c).Inv := .landAll (.releaseStores h)

theorem State.Inv.settleReleases {id : Nat} (h : s.Inv) : (s.settleReleases id).Inv := by
  unfold State.settleReleases
  split
  · exact h
  · exact .ite h (.drainN h)

theorem State.Inv.acquire {id : Nat} {c : Scope} (h : s.Inv) : (s.acquire id c).Inv := by
  unfold State.acquire
  split
  · exact h
  · dsimp only
    split
    · exact .settleReleases h
    · exact .ite (.settleReleases h) (.modTile (.settleReleases h))

theorem KeepsInv.budget {t : Task} {g : Target} {n : Nat} (h : s.Inv) : KeepsInv (Machine.budget t g n) s := by
  unfold Machine.budget
  split
  · exact .get_bind (.when .holdHere (fun _ _ => .set (.grant h)) h)
  · exact .get_bind (.when .holdHere (fun _ _ => .set (.grant h)) h)
  · exact .pure h

theorem KeepsInv.homeBytes {id : Nat} {t : Task} {va : Nat} {g : Target} {n m : Nat} (h : s.Inv) :
    KeepsInv (Machine.homeBytes id t va g n m) s :=
  .bind (.keyOf h) (fun _ _ h1 => .bind (.budget h1) (fun _ _ h2 => .bind (.modify (.settlePath h2)) (fun _ _ h3 => .bind
    (.keyOf h3) (fun _ _ h4 => .get_bind (.when .trap (fun _ h5 => .pure h5) h4)))))

theorem State.Inv.fillL1 {p : Place} {line : Nat} (h : s.Inv) : (s.fillL1 p line).Inv := .modTile (.same h rfl rfl rfl rfl)

theorem KeepsInv.readHome {id : Nat} {t : Task} {va : Nat} {g : Target} {ret n tier : Nat} {fill : Bool} (h : s.Inv) :
    KeepsInv (Machine.readHome id t va g ret n tier fill) s := by
  unfold Machine.readHome
  refine .get_bind (.bind (.homeBytes h) (fun x t1 h1 => ?_))
  split
  · split
    · exact .bind (.modify (.fillL1 (.l2Demand h1))) fun _ _ h2 => .bind (.modify (.traffic h2)) fun _ _ h3 => .pure h3
    · split
      · exact .bind (.modify (.l2Drop h1)) fun _ _ h2 => .bind (.modify (.traffic h2)) fun _ _ h3 => .pure h3
      · exact .bind (.modify (.traffic h1)) fun _ _ h2 => .pure h2
  · split
    · exact .bind (.modify (.l2Demand h1)) fun _ _ h2 => .bind (.modify (.traffic h2)) fun _ _ h3 => .pure h3
    · split
      · exact .bind (.modify (.l2Drop h1)) fun _ _ h2 => .bind (.modify (.traffic h2)) fun _ _ h3 => .pure h3
      · exact .bind (.modify (.traffic h1)) fun _ _ h2 => .pure h2

theorem KeepsInv.readLine {id : Nat} {t : Task} {va : Nat} {g : Target} {ret n tier : Nat} (h : s.Inv) :
    KeepsInv (Machine.readLine id t va g ret n tier) s := by
  unfold Machine.readLine
  split
  · refine .get_bind ?_
    split
    · exact .get_bind (.when .trap (fun _ h1 => .pure h1) h)
    · exact .readHome h
  · exact .readHome h

theorem KeepsInv.loadPiece {id : Nat} {t : Task} {va n : Nat} {hd : Hint} {fresh : Bool} (h : s.Inv) :
    KeepsInv (Machine.loadPiece id t va n hd fresh) s := by
  unfold Machine.loadPiece
  refine .bind (.resolve h) fun x t1 h1 => ?_
  dsimp only
  exact .ite (.bind (.pure h1) (fun _ _ h2 => .pure h2)) (.ite (.bind (.readHome h1) (fun _ _ h2 => .pure h2)) (.bind
    (.readLine h1) (fun _ _ h2 => .pure h2)))

theorem KeepsInv.checkAddress {id : Nat} {t : Task} {acc : Acc} {a : Nat} (h : s.Inv) :
    KeepsInv (Machine.checkAddress id t acc a) s := by
  unfold Machine.checkAddress
  refine .bind (.resolve h) fun x t1 h1 => ?_
  dsimp only
  exact .storable h1

theorem KeepsInv.checkAddresses {id : Nat} {t : Task} {acc : Acc} {l : List Nat} (h : s.Inv) :
    KeepsInv (Machine.checkAddresses id t acc l) s := by
  induction l generalizing s with
  | nil => exact .pure h
  | cons a l ih => exact .bind (.checkAddress h) fun _ t ht => ih ht

theorem KeepsInv.checkPages {id : Nat} {t : Task} {acc : Acc} {l : List Nat} (h : s.Inv) :
    KeepsInv (Machine.checkPages id t acc l) s := by
  unfold Machine.checkPages
  split
  · exact .pure h
  · exact .pure h
  · exact .checkAddresses h

theorem KeepsInv.loadPieces {id : Nat} {t : Task} {hint : Hint} {fresh : Bool} {l : List (Nat × Nat)} (h : s.Inv) :
    KeepsInv (Machine.loadPieces id t hint fresh l) s := by
  induction l generalizing s with
  | nil => exact .pure h
  | cons x l ih => exact .bind (.loadPiece h) fun _ t ht => .bind (ih ht) fun _ t ht => .pure ht

theorem KeepsInv.loadBytes {id : Nat} {t : Task} {va n : Nat} {hd : Hint} {fresh : Bool} (h : s.Inv) :
    KeepsInv (Machine.loadBytes id t va n hd fresh) s := .bind (.checkPages h) fun _ _ h1 => .loadPieces h1

theorem KeepsInv.loadDword {id : Nat} {t : Task} {va : Nat} (h : s.Inv) : KeepsInv (Machine.loadDword id t va) s :=
  .bind (.loadBytes h) fun _ _ h1 => .pure h1

theorem KeepsInv.storePiece {id : Nat} {va : Nat} {bytes : List (Nat × Byte)} {hd : Hint} {rel joined : Bool} (h : s.Inv) :
    KeepsInv (Machine.storePiece id va bytes hd rel joined) s := by
  unfold Machine.storePiece
  refine .get_bind ?_
  split
  · exact .pure h
  · refine .bind (.resolve h) (fun x t h1 => ?_)
    dsimp only
    split
    · refine .bind .trap (fun x1 t1 h2 => ?_)
      split
      · exact .bind (.keyOf h2) (fun _ _ h3 => .bind (.modify (.settlePath (.drain h3))) (fun _ _ h4 => .bind (.keyOf h4)
        (fun _ _ h5 => .modify (.traffic (.perform h5)))))
      · exact .bind (.reserve h2) fun _ _ h3 => .bind (.budget h3) fun _ _ h4 => .modify (.modTask h4)
    · split
      · exact .bind (.keyOf h1) (fun _ _ h2 => .bind (.modify (.settlePath (.drain h2))) (fun _ _ h3 => .bind (.keyOf h3)
        (fun _ _ h4 => .modify (.traffic (.perform h4)))))
      · exact .bind (.reserve h1) fun _ _ h2 => .bind (.budget h2) fun _ _ h3 => .modify (.modTask h3)

theorem KeepsInv.storeFrom {id : Nat} {va : Nat} {bytes : List (Nat × Byte)} {hd : Hint} {rel joined : Bool} (h : s.Inv) :
    KeepsInv (Machine.storeFrom id va bytes hd rel joined) s := by
  unfold Machine.storeFrom
  split
  · exact .pure h
  · exact .storePiece h

theorem KeepsInv.storeBytes {id : Nat} {va : Nat} {bytes : List (Nat × Byte)} {hd : Hint} {rel : Bool} (h : s.Inv) :
    KeepsInv (Machine.storeBytes id va bytes hd rel) s := .bind (.storeFrom h) fun _ _ h1 => .storeFrom h1

theorem State.Inv.dropCopy {tile line : Nat} (h : s.Inv) : (s.dropCopy tile line).Inv := .ite (.modTile h) h

theorem KeepsInv.atomicAt {id : Nat} {t : Task} {va n : Nat} (h : s.Inv) : KeepsInv (Machine.atomicAt id t va n) s := by
  unfold Machine.atomicAt
  refine .bind (.resolve h) fun x t1 h1 => ?_
  dsimp only
  refine .bind (.keyOf h1) (fun x1 t2 h2 => .bind (.budget h2) (fun x2 t3 h3 => .bind (.modify (.settlePath (.drain h3)))
    (fun x3 t4 h4 => .bind (.keyOf h4) (fun x4 t5 h5 => ?_))))
  split
  · exact .bind (.modify (.l2Drop h5)) fun _ _ h6 => .bind (.modify (.dropCopy h6)) fun _ _ h7 => .pure h7
  · split
    · exact .bind (.modify (.l2Demand h5)) fun _ _ h6 => .bind (.modify (.dropCopy h6)) fun _ _ h7 => .pure h7
    · exact .bind (.modify (.dropCopy h5)) fun _ _ h6 => .pure h6

theorem State.Inv.atomicTraffic {id : Nat} {t : Task} {va : Nat} {g : Target} {data : List Word} {x y : Word} {op : OpField}
    (h : s.Inv) : (s.atomicTraffic id t va g data x y op).Inv := .traffic h

theorem KeepsInv.atomicWrite {vd va : Nat} {g : Target} {k n : Nat} {x : Nat} {pin : Bool} (h : s.Inv) :
    KeepsInv (Machine.atomicWrite vd va g k n x pin) s := by
  unfold Machine.atomicWrite
  split
  · exact .bind (.modify (.journal h)) fun _ t h1 => .modify (.write h1)
  · exact .modify (.write h)

theorem KeepsInv.atomicRead {va k n : Nat} (h : s.Inv) : KeepsInv (Machine.atomicRead va k n) s :=
  .get_bind (.when .trap (fun _ h1 => .pure h1) h)

end Sys2Proof.Machine
end

section
/-! The invariant of a state, kept by the functions of `Sys2Proof/Machine/Reach.lean`. -/

namespace Sys2Proof.Machine

variable {s : State}

theorem State.Inv.watermark {vd : Nat} (h : s.Inv) : (s.watermark vd).Inv := .ite (.modVd h) (.ite (.modVd h) h)

theorem State.Inv.freeFut {vd i : Nat} (h : s.Inv) : (s.freeFut vd i).Inv := by
  unfold State.freeFut
  exact .wakeWhere (.watermark (.modFut h))

theorem KeepsInv.newFut {vd : Nat} {f : Fut} (h : s.Inv) : KeepsInv (Machine.newFut vd f) s := by
  unfold Machine.newFut
  refine .get_bind (.when (.parkOn h) (fun t h1 => .bind (.drawNat h1) (fun x t1 h2 => ?_)) h)
  split
  · exact .parkOn h2
  · exact .bind (.modify (.watermark (.setFut h2))) fun _ _ h3 => .pure h3

theorem State.Inv.doomTask {id : Nat} {cancel : Bool} (h : s.Inv) : (s.doomTask id cancel).Inv := by
  unfold State.doomTask
  split
  · exact h
  · refine .ite h ?_
    split
    · exact .modFut (.setTask h)
    · exact .setTask h

theorem State.Inv.doomAll {vd i : Nat} {cancel : Bool} (h : s.Inv) : (s.doomAll vd i cancel).Inv :=
  .foldl (.modFut h) fun _ _ h1 => .ite (.doomTask h1) h1

theorem State.Inv.reachZero {vd i : Nat} (h : s.Inv) : (s.reachZero vd i).Inv := by
  unfold State.reachZero
  refine .ite h (.ite (.ite (.ite (.freeFut h) h) ?_) (.ite (.ite (.freeFut h) h) (.ite (.freeFut h) (.ite (.freeFut
    (.modVd h)) (.doomAll h)))))
  split
  · exact .doomTask h
  · exact .freeFut h

theorem State.Inv.futMessage {kind vd i : Nat} (h : s.Inv) : (s.futMessage kind vd i).Inv := .message h

theorem State.Inv.raise {vd i : Nat} (h : s.Inv) : (s.raise vd i).Inv := .futMessage (.modFut h)

theorem State.Inv.lower {vd i : Nat} (h : s.Inv) : (s.lower vd i).Inv :=
  .ite (.reachZero (.futMessage (.modFut h))) (.futMessage (.modFut h))

theorem State.Inv.dropHandle {vd : Nat} {hd : Word} (h : s.Inv) : (s.dropHandle vd hd).Inv := .ite (.lower h) h

theorem State.Inv.putH {id : Nat} {r : HReg} {hd : Word} (h : s.Inv) : (s.putH id r hd).Inv := by
  unfold State.putH
  split
  · exact h
  · exact .dropHandle (.setTask h)

theorem State.Inv.feedChild {vd c : Nat} (h : s.Inv) : (s.feedChild vd c).Inv := by
  unfold State.feedChild
  refine .ite h (.ite ?_ (.modFut h))
  split
  · exact .makeReady (.modFut h)
  · exact .modFut h

theorem State.Inv.complete {vd i st : Nat} {result : Word} {cause detail : Nat} (h : s.Inv) :
    (s.complete vd i st result cause detail).Inv :=
  .ite h (.ite (.lower (.wakeWhere (.foldl (.futMessage (.setFut h)) (fun _ _ h1 => .lower (.feedChild h1))))) (.wakeWhere
    (.foldl (.futMessage (.setFut h)) (fun _ _ h1 => .lower (.feedChild h1)))))

theorem State.Inv.closeFut {vd i : Nat} (h : s.Inv) : (s.closeFut vd i).Inv := .ite (.freeFut (.modFut h)) (.modFut h)

theorem State.Inv.flip {id : Nat} (h : s.Inv) : (s.flip id).Inv := by
  unfold State.flip
  split
  · exact h
  · refine .modTask ?_
    split
    · exact .moveArms h
    · exact h

theorem State.Inv.barrierMessage {vd n id : Nat} {arrival : Bool} (h : s.Inv) : (s.barrierMessage vd n id arrival).Inv := by
  unfold State.barrierMessage
  split
  · exact h
  · exact .ite (.message h) (.message h)

theorem State.Inv.fire {vd n : Nat} (h : s.Inv) : (s.fire vd n).Inv :=
  .foldl (.setGroup (.foldl h (fun _ _ h1 => .barrierMessage (.flip h1)))) fun _ _ h1 => .ite (.give h1) h1

theorem State.Inv.tryFire {vd n : Nat} (h : s.Inv) : (s.tryFire vd n).Inv := .ite (.fire h) h

theorem State.Inv.leaveRound {vd n id lid : Nat} {r : Round} (h : s.Inv) : (s.leaveRound vd n id lid r).Inv := by
  unfold State.leaveRound
  refine .ite h ?_
  split
  · dsimp only
    split
    · exact .setGroup (.ite (.same h rfl rfl rfl rfl) h)
    · exact .ite (.noticeOrDrop (.setGroup (.ite (.same h rfl rfl rfl rfl) h))) (.setGroup (.ite (.same h rfl rfl rfl rfl) h))
  · dsimp only
    split
    · exact .setGroup (.ite (.same h rfl rfl rfl rfl) h)
    · exact .ite (.noticeOrDrop (.setGroup (.ite (.same h rfl rfl rfl rfl) h))) (.setGroup (.ite (.same h rfl rfl rfl rfl) h))

theorem State.Inv.depart {vd n id lid : Nat} {how : Departure} (h : s.Inv) : (s.depart vd n id lid how).Inv :=
  .ite h (.tryFire (.setGroup (.foldl h (fun _ _ h1 => .leaveRound h1))))

theorem State.Inv.departAll {vd id lid : Nat} {how : Departure} (h : s.Inv) : (s.departAll vd id lid how).Inv :=
  .foldl h fun _ _ h1 => .depart h1

end Sys2Proof.Machine
end

section
/-! The invariant of a state, kept by the functions of `Sys2Proof/Machine/Commands.lean`. -/

namespace Sys2Proof.Machine

variable {s : State}

theorem State.Inv.engineSettle {tile : Nat} {c : Cmd} {va n : Nat} (h : s.Inv) : (s.engineSettle tile c va n).Inv := by
  unfold State.engineSettle
  refine .foldl h fun t x h1 => ?_
  split
  · exact h1
  · exact .settlePath h1

theorem State.Inv.engineFetch {tile : Nat} {c : Cmd} {va n : Nat} {l2 : Bool} {reader : Option Nat} (h : s.Inv) :
    (s.engineFetch tile c va n l2 reader).Inv := by
  unfold State.engineFetch
  refine .foldl (.engineSettle h) fun t x h1 => ?_
  split
  · exact h1
  · refine .ite ?_ (.traffic ?_)
    · split
      · exact .grant (.l2Drop h1)
      · split
        · exact .grant (.l2Demand h1)
        · exact h1
    · split
      · exact .grant (.l2Drop h1)
      · split
        · exact .grant (.l2Demand h1)
        · exact h1

theorem State.Inv.engineRead {tile : Nat} {c : Cmd} {va n : Nat} {l2 : Bool} {reader : Option Nat} (h : s.Inv) :
    (s.engineRead tile c va n l2 reader).2.Inv := .engineFetch h

theorem State.Inv.engineLine {tile : Nat} {from_ : Place} {c : Cmd} {va : Nat} {bytes : List (Nat × Byte)} (h : s.Inv) :
    (s.engineLine tile from_ c va bytes).1.Inv := by
  unfold State.engineLine
  split
  · exact h
  · split
    · exact h
    · exact .traffic (.grant (.perform (.settlePath h)))

theorem State.Inv.enginePost {tile : Nat} {c : Cmd} {va : Nat} {bytes : List (Nat × Byte)} (h : s.Inv) :
    (s.enginePost tile c va bytes).1.Inv := by
  unfold State.enginePost
  refine .iteFst h ?_
  split
  · exact h
  · exact .send (.grant h)

theorem State.Inv.byLines {va : Nat} {bytes : List (Nat × Byte)} {f : State → Nat → List (Nat × Byte) → State × Nat} (h : s.Inv)
    (hf : ∀ t a l, t.Inv → (f t a l).1.Inv) : (s.byLines va bytes f).1.Inv :=
  List.foldlRecOn (motive := fun r : State × Nat => r.1.Inv) _ _ h fun _ hr _ _ => hf _ _ _ hr

theorem State.Inv.engineWrite {tile : Nat} {c : Cmd} {va : Nat} {bytes : List (Nat × Byte)} (h : s.Inv) :
    (s.engineWrite tile c va bytes).1.Inv := .byLines h fun _ _ _ h1 => .engineLine h1

theorem State.Inv.enginePosts {tile : Nat} {c : Cmd} {va : Nat} {bytes : List (Nat × Byte)} (h : s.Inv) :
    (s.enginePosts tile c va bytes).1.Inv := .byLines h fun _ _ _ h1 => .enginePost h1

theorem State.Inv.unreserve {c : Cmd} (h : s.Inv) : (s.unreserve c).Inv := .foldl h fun _ _ h1 => .modVd h1

theorem State.Inv.settleCmd {c : Cmd} {st detail : Nat} (h : s.Inv) : (s.settleCmd c st detail).Inv := by
  unfold State.settleCmd
  split
  · exact .closeFut (.complete (.flush (.l2Unpin (.unreserve h))))
  · exact .l2Unpin (.unreserve h)

theorem State.Inv.removeCmds {ids : List Nat} (h : s.Inv) : (s.removeCmds ids).Inv := by
  unfold State.removeCmds
  exact .wakeWhere ⟨h.mem, State.Inv.keys_map h.tasks _, State.Inv.keys_map h.tiles _, h.vds⟩

theorem State.Inv.dropCmds {ids : List Nat} (h : s.Inv) : (s.dropCmds ids).Inv :=
  .foldl (.removeCmds h) fun _ _ h1 => .settleCmd h1

theorem State.Inv.finishCmd {c : Cmd} {detail : Nat} (h : s.Inv) : (s.finishCmd c detail).Inv := .settleCmd (.removeCmds h)

theorem State.Inv.berthMove {task ring b from_ : Nat} {f : Word → Word} (h : s.Inv) :
    (s.berthMove task ring b from_ f).Inv := by
  unfold State.berthMove
  split
  · exact .ite (.writeDword h) h
  · exact h

theorem State.Inv.panelWrite {u : Sub} {b : Nat} {l : List Byte} (h : s.Inv) : (s.panelWrite u b l).Inv := by
  unfold State.panelWrite
  dsimp only
  split
  · exact .foldl h fun t _ h1 => .traffic (.write h1)
  · exact h

theorem State.Inv.fillDone {tile core : Nat} (h : s.Inv) : (s.fillDone tile core).Inv := by
  unfold State.fillDone
  split
  · exact h
  · split
    · exact h
    · dsimp only
      exact .modCore (.berthMove (.panelWrite (.ite (.same (.engineRead (.flush h)) rfl rfl rfl rfl) (.engineRead (.flush h)))))

theorem State.Inv.pullPanel {tile core : Nat} {u : Sub} {b i : Nat} (h : s.Inv) : (s.pullPanel tile core u b i).Inv := by
  unfold State.pullPanel
  split
  · exact h
  · exact .modCore (.berthMove (.byLines h (fun _ _ _ h1 => .engineLine h1)))

theorem State.Inv.pullAll {tile core : Nat} (h : s.Inv) : (s.pullAll tile core).Inv := by
  unfold State.pullAll
  refine .foldl h fun t x h1 => ?_
  split
  · split
    · exact .pullPanel h1
    · exact h1
  · exact h1

theorem State.Inv.settleSub {u : Sub} (h : s.Inv) : (s.settleSub u).Inv :=
  .foldl (.ite (.finishCmd h) (.flush (.finishCmd h))) fun _ _ h1 => .closeFut (.complete h1)

theorem State.Inv.endSub {tile core : Nat} (h : s.Inv) : (s.endSub tile core).Inv := by
  unfold State.endSub
  split
  · exact h
  · exact .settleSub (.modCore h)

theorem State.Inv.muteSubs {id : Nat} (h : s.Inv) : (s.muteSubs id).Inv :=
  .modTask ⟨h.mem, h.tasks, State.Inv.keys_map h.tiles _, h.vds⟩

theorem State.Inv.endSubsAt {id tile core : Nat} (h : s.Inv) : (s.endSubsAt id tile core).Inv := by
  unfold State.endSubsAt
  refine .ite ?_ (.foldl (.modCore ?_) (fun t _ h1 => .settleSub h1))
  · split
    · exact .ite (.endSub (.pullAll (.fillDone h))) h
    · exact h
  · split
    · exact .ite (.endSub (.pullAll (.fillDone h))) h
    · exact h

theorem State.Inv.endSubs {id : Nat} (h : s.Inv) : (s.endSubs id).Inv := by
  unfold State.endSubs
  dsimp only
  split
  · exact .settleSub (.modTask (.foldl h (fun t _ h1 => .foldl h1 (fun _ _ h2 => .endSubsAt h2))))
  · exact .foldl h fun t _ h1 => .foldl h1 fun _ _ h2 => .endSubsAt h2

end Sys2Proof.Machine
end

section
/-! The invariant of a state, kept by the functions of `Sys2Proof/Machine/Ops.lean`. -/

namespace Sys2Proof.Machine

variable {s : State}

theorem State.Inv.saveCtx {t : Task} {word : Nat} (h : s.Inv) : (s.saveCtx t word).Inv := by
  unfold State.saveCtx
  split
  · exact h
  · exact .replaceRange h

theorem State.Inv.park {id : Nat} {w : Wait} (h : s.Inv) : (s.park id w).Inv := by
  unfold State.park
  split
  · exact h
  · exact .setFutState (.setTask (.saveCtx h))

theorem State.Inv.freePartition {tile core : Nat} (h : s.Inv) : (s.freePartition tile core).Inv := by
  unfold State.freePartition
  dsimp only
  exact .wakeWhere (.modCore (.draw h))

theorem State.Inv.freePartitions {id : Nat} (h : s.Inv) : (s.freePartitions id).Inv :=
  .foldl h fun _ _ h1 => .foldl h1 fun _ _ h2 => .ite (.freePartition h2) h2

theorem State.Inv.freeLeases {vd id : Nat} (h : s.Inv) : (s.freeLeases vd id).Inv := .ite (.modVd h) h

theorem State.Inv.dropHandles {id : Nat} (h : s.Inv) : (s.dropHandles id).Inv := .foldl h fun _ _ h1 => .putH h1

theorem State.Inv.dropReachers {id : Nat} (h : s.Inv) : (s.dropReachers id).Inv := by
  unfold State.dropReachers
  split
  · exact h
  · split
    · split
      · exact .foldl (.dropHandle (.setTask h)) fun t _ h1 => .ite h1 (.foldl (.modFut h1) (fun _ _ h2 => .lower h2))
      · exact .dropHandle (.setTask h)
    · split
      · exact .foldl h fun t _ h1 => .ite h1 (.foldl (.modFut h1) (fun _ _ h2 => .lower h2))
      · exact h

theorem State.Inv.dropPopper {vd id : Nat} (h : s.Inv) : (s.dropPopper vd id).Inv := .ite (.modVd h) h

theorem State.Inv.handOver {s0 : State} {vd : Nat} {p : Place} (h : s.Inv) : (s0.handOver s vd p).Inv := by
  unfold State.handOver
  dsimp only
  split
  · exact h
  · exact .modTask h

theorem State.Inv.joinEnd {vd i : Nat} {failed : Option Nat} (h : s.Inv) : (s.joinEnd vd i failed).Inv := by
  unfold State.joinEnd
  refine .ite (.setFut h) (.ite (.ite (.complete (.setFut h)) (.ite (.setFut h) (.freeFut (.setFut h)))) (.closeFut ?_))
  split
  · exact .complete (.setFut h)
  · exact .complete (.setFut h)

theorem State.Inv.vacate {id : Nat} {how : Departure} (h : s.Inv) : (s.vacate id how).Inv := by
  unfold State.vacate
  split
  · exact h
  · exact .taskCut (.freePartitions (.endSubs (.dropPopper (.freeLeases (.departAll h)))))

theorem State.Inv.endTask {id : Nat} {e : Ending} (h : s.Inv) : (s.endTask id e).Inv := by
  unfold State.endTask
  split
  · exact h
  · next t _ =>
    have hr : (s.release id .module).Inv := .release h
    have hv {u : State} {how : Departure} (hu : u.Inv) : (((u.dropHandles id).dropReachers id).vacate id how).Inv :=
      .vacate (.dropReachers (.dropHandles hu))
    cases t.ident with
    | ordinary i =>
      cases e with
      | done v => exact .closeFut (hv (.complete hr))
      | failed c => exact .closeFut (hv (.complete hr))
    | recruit f i =>
      cases e with
      | done v => exact .handOver (.joinEnd (hv hr))
      | failed c => exact .handOver (.joinEnd (hv hr))
    | gangThread g gi ti =>
      cases e with
      | done v => exact .joinEnd (hv (.ite (.modFut hr) hr))
      | failed c => exact .joinEnd (hv hr)

theorem State.Inv.tvecOf {vd tile : Nat} (h : s.Inv) : (s.tvecOf vd tile).2.Inv := by
  unfold State.tvecOf
  dsimp only
  split
  · exact .draw h
  · exact h

theorem State.Inv.takeTrap {id cause : Nat} {tval : Word} {code : Nat} (h : s.Inv) : (s.takeTrap id cause tval code).Inv := by
  unfold State.takeTrap
  split
  · exact h
  · refine .ite (.setTask h) ?_
    dsimp only
    refine .ite (.endTask (.tvecOf ?_)) (.setTask (.tvecOf ?_))
    · split
      · exact .dropHandle (.setTask h)
      · exact h
    · split
      · exact .dropHandle (.setTask h)
      · exact h

theorem State.Inv.eret {id : Nat} (h : s.Inv) : (s.eret id).Inv := by
  unfold State.eret
  split
  · exact h
  · exact .ite (.endTask h) (.setTask h)

theorem State.Inv.faultRecord {t : Task} {access cause va level pte n r : Nat} {s' : State} (h : s.Inv)
    (e : s.faultRecord t access cause va level pte = some (n, r, s')) : s'.Inv := by
  unfold State.faultRecord at e
  extract_lets v prod cons off w s1 s2 s3 s4 at e
  have h4 : s4.Inv := .writeDword (.writeDword (.writeDword (.writeDword h)))
  clear_value s4 off
  split at e
  · cases e
  · simp only [Option.some.injEq, Prod.mk.injEq] at e
    obtain ⟨-, -, e⟩ := e
    rw [← e]
    exact .writeDword h4

theorem State.Inv.pageFault {id access cause va level pte : Nat} (h : s.Inv) : (s.pageFault id access cause va level pte).Inv := by
  unfold State.pageFault
  split
  · exact h
  · next t _ =>
    have hf (n r : Nat) (u : State) (e : s.faultRecord t access cause va level pte = some (n, r, u)) :=
      State.Inv.faultRecord h e
    generalize s.faultRecord t access cause va level pte = o at hf ⊢
    extract_lets own
    cases own with
    | some r => exact .park (.modTask h)
    | none =>
      cases o with
      | none => exact .park h
      | some x => exact .park (.modTask (hf _ _ _ rfl))

end Sys2Proof.Machine
end

section
/-! The invariant of a state, kept by the functions of `Sys2Proof/Machine/QueueOps.lean`. -/

namespace Sys2Proof.Machine

variable {s : State}

theorem State.Inv.setQueue {vd : Nat} {hd : Word32} {q : Queue} (h : s.Inv) : (s.setQueue vd hd q).Inv := .modVd h

theorem State.Inv.slotLive {vd lid slot : Nat} (h : s.Inv) : (s.slotLive vd lid slot).Inv := .ite (.modEntry h) (.modTile h)

theorem State.Inv.hand {id : Nat} {x : Word} (h : s.Inv) : (s.hand id x).Inv := .acquire (.give h)

theorem State.Inv.push {vd : Nat} {hd : Word32} {q : Queue} {x : Word} {who : Pusher} (h : s.Inv) :
    (s.push vd hd q x who).1.Inv := by
  unfold State.push
  split
  · exact .setQueue h
  · split
    · exact .hand (.setQueue h)
    · exact .setQueue h

theorem State.Inv.pop {vd : Nat} {hd : Word32} {q : Queue} {id : Nat} (h : s.Inv) : (s.pop vd hd q id).2.Inv := by
  unfold State.pop
  split
  · exact .setQueue h
  · exact .setQueue h

theorem State.Inv.answerEnqueue {src vd fut : Nat} {hd : Word32} {refused : Bool} (h : s.Inv) :
    (s.answerEnqueue src vd fut hd refused).Inv := .message (.closeFut (.complete h))

theorem State.Inv.answerHere {vd fut : Nat} {hd : Word32} {refused : Bool} (h : s.Inv) : (s.answerHere vd fut hd refused).Inv :=
  .answerEnqueue h

theorem State.Inv.enqueue {vd : Nat} {hd : Word32} {x : Word} {fut : Nat} (h : s.Inv) : (s.enqueue vd hd x fut).Inv := by
  unfold State.enqueue
  split
  · exact .answerHere h
  · dsimp only
    exact .ite (.push h) (.answerHere (.push h))

theorem State.Inv.setPending {vd cluster : Nat} {x : Word32} (h : s.Inv) : (s.setPending vd cluster x).Inv := .modVd h

theorem State.Inv.arrive {vd cluster : Nat} {mask : Word32} (h : s.Inv) : (s.arrive vd cluster mask).Inv := by
  unfold State.arrive
  exact .wakeWhere (.setPending h)

theorem State.Inv.migrateEvents {vd : Nat} (h : s.Inv) : (s.migrateEvents vd).Inv := by
  unfold State.migrateEvents
  split
  · exact h
  · exact .foldl h fun t _ h1 => .wakeWhere (.ite (.setPending h1) (.arrive (.setPending h1)))

theorem State.Inv.eventHere {vd stop : Nat} {mask : Word32} (h : s.Inv) : (s.eventHere vd stop mask).Inv :=
  .migrateEvents (.arrive h)

theorem State.Inv.wakeEvent {vd : Nat} (h : s.Inv) : (s.wakeEvent vd).Inv := by
  unfold State.wakeEvent
  refine .ite (.modVd h) (.ite ?_ (.ite (.modVd h) h))
  dsimp only
  exact .modVd (.draw h)

/-- The item is held and the device woken, or the device runs. -/
theorem State.Inv.holdFor {vd : Nat} {x : HeldItem} (h : s.Inv) :
    (∀ t, s.holdFor vd x = .inl t → t.Inv) ∧ ∀ t, s.holdFor vd x = .inr t → t.Inv := by
  unfold State.holdFor
  dsimp only
  split
  · refine ⟨fun t e => absurd e Sum.inr_ne_inl, fun t e => ?_⟩
    obtain rfl := Sum.inr.inj e
    exact .wakeEvent h
  · refine ⟨fun t e => ?_, fun t e => absurd e Sum.inl_ne_inr⟩
    obtain rfl := Sum.inl.inj e
    exact .modVd (.wakeEvent h)

theorem State.Inv.messageHere {p : Pkt} (h : s.Inv) : (s.messageHere p).Inv := by
  unfold State.messageHere
  split
  · split <;> rename_i e
    · exact (State.Inv.holdFor h).1 _ e
    · exact .enqueue ((State.Inv.holdFor h).2 _ e)
  · refine .ite (.eventHere h) ?_
    split <;> rename_i e
    · exact (State.Inv.holdFor h).1 _ e
    · exact .eventHere ((State.Inv.holdFor h).2 _ e)
  · exact h

theorem State.Inv.deliverMine {id tile vd : Nat} {hd : Word32} (h : s.Inv) : (s.deliverMine id tile vd hd).Inv :=
  .ite h (.foldl (.same (.foldl h (fun _ _ h1 => .countRest h1)) rfl rfl rfl rfl) (fun _ _ h1 => .messageHere h1))

end Sys2Proof.Machine
end

section
/-! The invariant of a state, kept by the functions of `Sys2Proof/Machine/Operands.lean`. -/

namespace Sys2Proof.Machine

variable {s : State}

/-- A pop from a port leaves a state, and where it stops the instruction, a state in the stop. -/
theorem State.Inv.popPort {id n : Nat} (h : s.Inv) :
    (Machine.popPort s id n).1.Inv ∧ OptStopInv (Machine.popPort s id n).2 := by
  unfold Machine.popPort
  dsimp only
  split
  · exact ⟨h, .none⟩
  · next t _ =>
    split
    · exact ⟨h, .none⟩
    · split
      · exact ⟨h, .some trivial⟩
      · split
        · exact ⟨h, .some trivial⟩
        · have hd : (s.deliverMine id t.last.tile t.vd (t.ctx.port n).bound).Inv := .deliverMine h
          split
          · exact ⟨hd, .some trivial⟩
          · split <;> rename_i hp <;> have hs := State.Inv.snd hp (.pop hd)
            · exact ⟨by dsimp only; exact .acquire (.modTask hs), .none⟩
            · exact ⟨hs, .some hs⟩

theorem State.Inv.popAll {id : Nat} {l : List GReg} (h : s.Inv) :
    (Machine.popAll s id l).1.Inv ∧ OptStopInv (Machine.popAll s id l).2 := by
  induction l generalizing s with
  | nil => exact ⟨h, .none⟩
  | cons r l ih =>
    unfold Machine.popAll
    split
    · have hp := State.Inv.popPort (id := id) (n := r.toNat - 24) h
      split
      · next e =>
        rw [e] at hp
        exact ih hp.1
      · exact hp
    · exact ih h

theorem KeepsInv.writeDest {id : Nat} {d : GReg} {x : Word} (h : s.Inv) : KeepsInv (Machine.writeDest id d x) s := by
  unfold Machine.writeDest
  refine .get_bind ?_
  split
  · exact .pure h
  · refine .ite (.when .trap (fun t h1 => ?_) h) (.bind (.set (.setTask h)) (fun _ _ h1 => .pure h1))
    dsimp only
    split
    · exact .throw trivial
    · exact .bind (.set (.message (.push (.deliverMine (.release h))))) fun _ _ h2 => .pure h2

theorem KeepsInv.writeDests {id : Nat} {l : List (GReg × Word)} (h : s.Inv) : KeepsInv (Machine.writeDests id l) s := by
  induction l generalizing s with
  | nil => exact .pure h
  | cons x l ih => exact .bind (.writeDest h) fun _ t ht => .bind (ih ht) fun _ t ht => .pure ht

theorem KeepsInv.complete {i : Instr} {id : Nat} {t : Task} {d : Done} {fin : Ctx → Ctx} {todo : Option (List Nat)}
    (h : s.Inv) : KeepsInv (Machine.complete i id t d fin todo) s := by
  unfold Machine.complete
  refine .bind (.modify (.modTask h)) fun x t1 h1 => .bind (.writeDests h1) fun x1 t2 h2 => ?_
  split
  · exact .pure h2
  · exact .get_bind (.throw (.park h2))

theorem State.Inv.stopHere {id : Nat} {p : Place} (h : s.Inv) : (s.stopHere id p).Inv := .modTask h

/-- What an action ends in, settled. -/
theorem Result.Inv.settle {id : Nat} {p : Place} {m : Act Unit} {s' : State} (h : s.Inv) (hm : KeepsInv m s') :
    Result.Inv (Machine.settle s id p (m s')) := by
  cases e : m s' with
  | ok x => exact .next (hm.ok x.1 x.2 e)
  | error e' =>
    have he := hm.error e' e
    cases e' with
    | trap c v k => exact .next (.takeTrap h)
    | refused n => exact .next (.takeTrap (.release h))
    | page a c va l pte =>
      rw [Machine.settle]
      split
      · exact .ite (.next (.stopHere h)) (.next (.pageFault h))
      · exact .next h
    | park w t =>
      rw [Machine.settle]
      split
      · exact .ite (.next (.stopHere h)) (.next (.park he))
      · exact .next he
    | hold => exact .next h
    | doomed => exact .next (.stopHere h)
    | fault f => exact .fault
    | _ => -- `over`, a name that is a word of Mathlib's grammar
      exact .next he

theorem Result.Inv.settleTurn {id : Nat} {p : Place} {m : Act Unit} {s' : State} (h : s.Inv) (hm : KeepsInv m s') :
    Result.Inv (Machine.settleTurn s id p (m s')) :=
  .ite (.next h) (.settle h hm)

theorem KeepsInv.resumeKept {i : Instr} {k : Kept} {id : Nat} {t : Task} {fin : Done → Ctx → Ctx} (h : s.Inv) :
    KeepsInv (Machine.resumeKept i k id t fin) s := .when (.modify (.acquire h)) (fun _ h1 => .complete h1) h

theorem Result.Inv.runAs {i : Instr} {body : Nat → Task → List Word → Act Done} {fin : Done → Ctx → Ctx} {id : Nat} {t : Task}
    (h : s.Inv) (hb : ∀ id t v s, s.Inv → KeepsInv (body id t v) s) : Result.Inv (Machine.runAs i body fin id t s) := by
  have hp : (if (t.keptFor i).isSome then (s, none) else Machine.popAll s id i.sources).1.Inv ∧
      OptStopInv (if (t.keptFor i).isSome then (s, none) else Machine.popAll s id i.sources).2 := by
    split
    · exact ⟨h, .none⟩
    · exact State.Inv.popAll h
  refine .ite (.next (.stopHere h)) (.ite (.settleTurn (m := throw _) (s' := s) h (.throw trivial)) ?_)
  dsimp only
  split <;> rename_i e <;> rw [e] at hp <;> obtain ⟨h1, he⟩ := hp
  · exact .settleTurn (m := throw _) (s' := s) h1 (.throw (he _ rfl))
  · refine .ite (.next h1) (.settleTurn h1 ?_)
    split
    · exact .resumeKept h1
    · exact .bind (hb _ _ _ _ h1) fun _ _ ht => .complete ht

theorem Result.Inv.run {i : Instr} {body : Nat → Task → List Word → Act Done} (h : s.Inv)
    (hb : ∀ id t v s, s.Inv → KeepsInv (body id t v) s) : Result.Inv (Machine.run i body s) := by
  unfold Machine.run
  split
  · exact .fault
  · exact .runAs h hb

theorem Result.Inv.compute {i : Instr} {f : List Word → Word} (h : s.Inv) : Result.Inv (Machine.compute i f s) :=
  .run h fun _ _ _ _ h1 => .pure h1

theorem Result.Inv.compute2 {i : Instr} {f : Word → Word → Word} (h : s.Inv) : Result.Inv (Machine.compute2 i f s) := .compute h

theorem Result.Inv.compute1 {i : Instr} {f : Word → Word} (h : s.Inv) : Result.Inv (Machine.compute1 i f s) := .compute h

theorem Result.Inv.event {f : Option State} (h : s.Inv) (hf : OptInv f) : Result.Inv (Machine.event s f) := .next (hf.getD h)

end Sys2Proof.Machine
end

section
/-! The invariant of a state, kept by the functions of `Sys2Proof/Machine/Integer.lean`. -/

namespace Sys2Proof.Machine

variable {s : State}

theorem Result.Inv.execAdd {d a b : GReg} (h : s.Inv) : Result.Inv (Machine.execAdd d a b s) := .compute2 h

theorem Result.Inv.execSub {d a b : GReg} (h : s.Inv) : Result.Inv (Machine.execSub d a b s) := .compute2 h

theorem Result.Inv.execMul {d a b : GReg} (h : s.Inv) : Result.Inv (Machine.execMul d a b s) := .compute2 h

theorem Result.Inv.execMulh {d a b : GReg} (h : s.Inv) : Result.Inv (Machine.execMulh d a b s) := .compute2 h

theorem Result.Inv.execMulhu {d a b : GReg} (h : s.Inv) : Result.Inv (Machine.execMulhu d a b s) := .compute2 h

theorem Result.Inv.execDiv {d a b : GReg} (h : s.Inv) : Result.Inv (Machine.execDiv d a b s) := .compute2 h

theorem Result.Inv.execDivu {d a b : GReg} (h : s.Inv) : Result.Inv (Machine.execDivu d a b s) := .compute2 h

theorem Result.Inv.execRem {d a b : GReg} (h : s.Inv) : Result.Inv (Machine.execRem d a b s) := .compute2 h

theorem Result.Inv.execRemu {d a b : GReg} (h : s.Inv) : Result.Inv (Machine.execRemu d a b s) := .compute2 h

theorem Result.Inv.execAnd {d a b : GReg} (h : s.Inv) : Result.Inv (Machine.execAnd d a b s) := .compute2 h

theorem Result.Inv.execOr {d a b : GReg} (h : s.Inv) : Result.Inv (Machine.execOr d a b s) := .compute2 h

theorem Result.Inv.execXor {d a b : GReg} (h : s.Inv) : Result.Inv (Machine.execXor d a b s) := .compute2 h

theorem Result.Inv.execShl {d a b : GReg} (h : s.Inv) : Result.Inv (Machine.execShl d a b s) := .compute2 h

theorem Result.Inv.execShr {d a b : GReg} (h : s.Inv) : Result.Inv (Machine.execShr d a b s) := .compute2 h

theorem Result.Inv.execSra {d a b : GReg} (h : s.Inv) : Result.Inv (Machine.execSra d a b s) := .compute2 h

theorem Result.Inv.execSlt {d a b : GReg} (h : s.Inv) : Result.Inv (Machine.execSlt d a b s) := .compute2 h

theorem Result.Inv.execSltu {d a b : GReg} (h : s.Inv) : Result.Inv (Machine.execSltu d a b s) := .compute2 h

theorem Result.Inv.execMin {d a b : GReg} (h : s.Inv) : Result.Inv (Machine.execMin d a b s) := .compute2 h

theorem Result.Inv.execMax {d a b : GReg} (h : s.Inv) : Result.Inv (Machine.execMax d a b s) := .compute2 h

theorem Result.Inv.execMinu {d a b : GReg} (h : s.Inv) : Result.Inv (Machine.execMinu d a b s) := .compute2 h

theorem Result.Inv.execMaxu {d a b : GReg} (h : s.Inv) : Result.Inv (Machine.execMaxu d a b s) := .compute2 h

theorem Result.Inv.execClz {d a : GReg} (h : s.Inv) : Result.Inv (Machine.execClz d a s) := .compute1 h

theorem Result.Inv.execPopc {d a : GReg} (h : s.Inv) : Result.Inv (Machine.execPopc d a s) := .compute1 h

theorem Result.Inv.execExt {d a b : GReg} (h : s.Inv) : Result.Inv (Machine.execExt d a b s) :=
  .run h fun _ _ _ _ h1 => .when .trap (fun _ h2 => .pure h2) h1

theorem Result.Inv.execAddImm {d a : GReg} {i : BitVec 16} (h : s.Inv) : Result.Inv (Machine.execAddImm d a i s) := .compute1 h

theorem Result.Inv.execMulImm {d a : GReg} {i : BitVec 16} (h : s.Inv) : Result.Inv (Machine.execMulImm d a i s) := .compute1 h

theorem Result.Inv.execAndImm {d a : GReg} {i : BitVec 16} (h : s.Inv) : Result.Inv (Machine.execAndImm d a i s) := .compute1 h

theorem Result.Inv.execOrImm {d a : GReg} {i : BitVec 16} (h : s.Inv) : Result.Inv (Machine.execOrImm d a i s) := .compute1 h

theorem Result.Inv.execXorImm {d a : GReg} {i : BitVec 16} (h : s.Inv) : Result.Inv (Machine.execXorImm d a i s) := .compute1 h

theorem Result.Inv.execShlImm {d a : GReg} {n : BitVec 6} (h : s.Inv) : Result.Inv (Machine.execShlImm d a n s) := .compute1 h

theorem Result.Inv.execShrImm {d a : GReg} {n : BitVec 6} (h : s.Inv) : Result.Inv (Machine.execShrImm d a n s) := .compute1 h

theorem Result.Inv.execSraImm {d a : GReg} {n : BitVec 6} (h : s.Inv) : Result.Inv (Machine.execSraImm d a n s) := .compute1 h

theorem Result.Inv.execSltImm {d a : GReg} {i : BitVec 16} (h : s.Inv) : Result.Inv (Machine.execSltImm d a i s) := .compute1 h

theorem Result.Inv.execSltuImm {d a : GReg} {i : BitVec 16} (h : s.Inv) : Result.Inv (Machine.execSltuImm d a i s) :=
  .compute1 h

theorem Result.Inv.execMinImm {d a : GReg} {i : BitVec 14} (h : s.Inv) : Result.Inv (Machine.execMinImm d a i s) := .compute1 h

theorem Result.Inv.execMaxImm {d a : GReg} {i : BitVec 14} (h : s.Inv) : Result.Inv (Machine.execMaxImm d a i s) := .compute1 h

theorem Result.Inv.execMinuImm {d a : GReg} {i : BitVec 14} (h : s.Inv) : Result.Inv (Machine.execMinuImm d a i s) :=
  .compute1 h

theorem Result.Inv.execMaxuImm {d a : GReg} {i : BitVec 14} (h : s.Inv) : Result.Inv (Machine.execMaxuImm d a i s) :=
  .compute1 h

theorem Result.Inv.execExtImm {d a : GReg} {signed : Bool} {w l : BitVec 6} (h : s.Inv) :
    Result.Inv (Machine.execExtImm d a signed w l s) := .compute1 h

theorem Result.Inv.execLui {d : GReg} {i : BitVec 16} (h : s.Inv) : Result.Inv (Machine.execLui d i s) := .compute h

end Sys2Proof.Machine
end

section
/-! The invariant of a state, kept by the functions of `Sys2Proof/Machine/Branch.lean`. -/

namespace Sys2Proof.Machine

variable {s : State}

theorem KeepsInv.backStop {t : Task} {target : Word} (h : s.Inv) : KeepsInv (Machine.backStop t target) s :=
  .ite (.throw trivial) (.pure h)

theorem Result.Inv.branch {i : Instr} {o : BitVec 16} {taken : Task → List Word → Bool} (h : s.Inv) :
    Result.Inv (Machine.branch i o taken s) :=
  .run h fun _ _ _ _ h1 => .ite (.when (.throw trivial) (fun _ h2 => .pure h2) h1) (.pure h1)

theorem Result.Inv.branch2 {i : Instr} {o : BitVec 16} {p : Word → Word → Bool} (h : s.Inv) :
    Result.Inv (Machine.branch2 i o p s) := .branch h

theorem Result.Inv.execBeq {a b : GReg} {o : BitVec 16} (h : s.Inv) : Result.Inv (Machine.execBeq a b o s) := .branch2 h

theorem Result.Inv.execBne {a b : GReg} {o : BitVec 16} (h : s.Inv) : Result.Inv (Machine.execBne a b o s) := .branch2 h

theorem Result.Inv.execBlt {a b : GReg} {o : BitVec 16} (h : s.Inv) : Result.Inv (Machine.execBlt a b o s) := .branch2 h

theorem Result.Inv.execBge {a b : GReg} {o : BitVec 16} (h : s.Inv) : Result.Inv (Machine.execBge a b o s) := .branch2 h

theorem Result.Inv.execBltu {a b : GReg} {o : BitVec 16} (h : s.Inv) : Result.Inv (Machine.execBltu a b o s) := .branch2 h

theorem Result.Inv.execBgeu {a b : GReg} {o : BitVec 16} (h : s.Inv) : Result.Inv (Machine.execBgeu a b o s) := .branch2 h

theorem Result.Inv.execBmany {k : MReg} {o : BitVec 16} (h : s.Inv) : Result.Inv (Machine.execBmany k o s) := .branch h

theorem Result.Inv.execBmnone {k : MReg} {o : BitVec 16} (h : s.Inv) : Result.Inv (Machine.execBmnone k o s) := .branch h

theorem Result.Inv.execBmall {k : MReg} {o : BitVec 16} (h : s.Inv) : Result.Inv (Machine.execBmall k o s) := .branch h

theorem Result.Inv.execJal {l : GReg} {o : BitVec 21} (h : s.Inv) : Result.Inv (Machine.execJal l o s) :=
  .run h fun _ _ _ _ h1 => .bind (.backStop h1) fun _ _ h2 => .pure h2

theorem Result.Inv.execJalr {d a : GReg} {i : BitVec 16} (h : s.Inv) : Result.Inv (Machine.execJalr d a i s) :=
  .run h fun _ _ _ _ h1 => .when .trap (fun _ h2 => .bind (.backStop h2) (fun _ _ h3 => .pure h3)) h1

end Sys2Proof.Machine
end

section
/-! The invariant of a state, kept by the functions of `Sys2Proof/Machine/LoadStore.lean`. -/

namespace Sys2Proof.Machine

variable {s : State}

theorem KeepsInv.addressOf {z : Size} {o : BitVec 12} {base : Word} (h : s.Inv) : KeepsInv (Machine.addressOf z o base) s :=
  .when .trap (fun _ h1 => .pure h1) h

theorem Result.Inv.load {i : Instr} {z : Size} {o : BitVec 12} {hd : Hint} {signed : Bool} {acq : Option Scope} (h : s.Inv) :
    Result.Inv (Machine.load i z o hd signed acq s) := by
  unfold Machine.load
  refine .run h fun x x1 x2 t h1 => .bind (.addressOf h1) fun x3 t1 h2 => .bind (.loadBytes h2) fun x4 t2 h3 => ?_
  split
  · exact .bind (.modify (.acquire h3)) fun _ _ h4 => .pure h4
  · exact .pure h3

theorem Result.Inv.execLd {d b : GReg} {hd : Hint} {z : Size} {o : BitVec 12} (h : s.Inv) :
    Result.Inv (Machine.execLd d b hd z o s) := .load h

theorem Result.Inv.execLdn {d b : GReg} {hd : Hint} {z : Size} {o : BitVec 12} (h : s.Inv) :
    Result.Inv (Machine.execLdn d b hd z o s) := .load h

theorem Result.Inv.execLda {d b : GReg} {c : Scope} {z : Size} {o : BitVec 12} (h : s.Inv) :
    Result.Inv (Machine.execLda d b c z o s) := .load h

theorem Result.Inv.store {i : Instr} {z : Size} {o : BitVec 12} {hd : Hint} {rel : Option Scope} (h : s.Inv) :
    Result.Inv (Machine.store i z o hd rel s) := by
  unfold Machine.store
  refine .run h fun x x1 x2 t h1 => .bind (.addressOf h1) fun x3 t1 h2 => ?_
  split
  · refine .bind (.resolve h2) (fun x4 t2 h3 => ?_)
    dsimp only
    exact .bind (.storable h3) (fun _ _ h4 => .bind (.modify (.release h4)) (fun _ _ h5 => .bind (.storeBytes h5)
      (fun _ _ h6 => .pure h6)))
  · exact .bind (.storeBytes h2) fun _ _ h3 => .pure h3

theorem Result.Inv.execSt {st b : GReg} {hd : Hint} {z : Size} {o : BitVec 12} (h : s.Inv) :
    Result.Inv (Machine.execSt st b hd z o s) := .store h

theorem Result.Inv.execStl {st b : GReg} {c : Scope} {z : Size} {o : BitVec 12} (h : s.Inv) :
    Result.Inv (Machine.execStl st b c z o s) := .store h

theorem Result.Inv.execFence {k : FenceKind} {c : Scope} (h : s.Inv) : Result.Inv (Machine.execFence k c s) :=
  .run h (fun _ _ _ _ h1 => .when (.modify (.release h1)) (fun _ h2 => .when (.modify (.acquire h2)) (fun _ h3 =>
    .pure h3) h2) h1)

theorem Result.Inv.execCinv {a : GReg} (h : s.Inv) : Result.Inv (Machine.execCinv a s) := by
  unfold Machine.execCinv
  refine .run h fun x x1 x2 t h1 => .get_bind ?_
  split
  · exact .bind (.set (.modTile h1)) fun _ _ h2 => .pure h2
  · exact .pure h1

theorem Result.Inv.execCinvAll (h : s.Inv) : Result.Inv (Machine.execCinvAll s) :=
  .run h fun _ _ _ _ h1 => .bind (.modify (.modTile h1)) fun _ _ h2 => .pure h2

theorem State.Inv.prefetch {id : Nat} {t : Task} {va : Nat} {p : Phys} {ret : Nat} {l1 : Bool} (h : s.Inv) :
    (s.prefetch id t va p ret l1).Inv :=
  .ite h (.traffic (.ite (.fillL1 (.l2Access (.settlePath h))) (.l2Access (.settlePath h))))

theorem Result.Inv.execPf {b : GReg} {hd : Hint} {l : PfLevel} {o : BitVec 12} (h : s.Inv) :
    Result.Inv (Machine.execPf b hd l o s) := by
  unfold Machine.execPf
  refine .run h fun x x1 x2 t h1 => .get_bind ?_
  split
  · exact .get_bind (.when (.budget h1) (fun _ h2 => .bind (.modify (.prefetch h2)) (fun _ _ h3 => .pure h3)) h1)
  · exact .pure h1

end Sys2Proof.Machine
end

section
/-! The invariant of a state, kept by the functions of `Sys2Proof/Machine/Atomics.lean`. -/

namespace Sys2Proof.Machine

variable {s : State}

theorem Result.Inv.atomic {i : Instr} {dw : Bool} {o : Order} {c : Scope} {signed : Bool} {f : Task → Nat → Nat → Option Nat}
    {function : Nat} {data : Task → List Word} (h : s.Inv) : Result.Inv (Machine.atomic i dw o c signed f s function data) := by
  unfold Machine.atomic
  refine .run h (fun x x1 x2 t h1 => .when .trap (fun t1 h2 => .bind (.resolve h2) (fun x3 t2 h3 => .when (.modify
    (.release h3)) (fun t3 h4 => .bind (.atomicAt h4) (fun x4 t4 h5 => ?_)) h3)) h1)
  dsimp only
  refine .bind (.atomicRead h5) fun x5 t5 h6 => ?_
  split
  · split
    · exact .bind (.reserve h6) (fun _ _ h7 => .bind (.atomicWrite h7) (fun _ _ h8 => .bind (.modify (.atomicTraffic h8))
      (fun _ _ h9 => .when (.modify (.acquire h9)) (fun _ h10 => .pure h10) h9)))
    · exact .bind (.atomicWrite h6) (fun _ _ h7 => .bind (.modify (.atomicTraffic h7)) (fun _ _ h8 => .when (.modify
      (.acquire h8)) (fun _ h9 => .pure h9) h8))
  · exact .bind (.modify (.atomicTraffic h6)) fun _ _ h7 => .when (.modify (.acquire h7)) (fun _ h8 => .pure h8) h7

theorem Result.Inv.execAmoAdd {d a b : GReg} {dw : Bool} {o : Order} {c : Scope} (h : s.Inv) :
    Result.Inv (Machine.execAmoAdd d a b dw o c s) := .atomic h

theorem Result.Inv.execAmoAnd {d a b : GReg} {dw : Bool} {o : Order} {c : Scope} (h : s.Inv) :
    Result.Inv (Machine.execAmoAnd d a b dw o c s) := .atomic h

theorem Result.Inv.execAmoOr {d a b : GReg} {dw : Bool} {o : Order} {c : Scope} (h : s.Inv) :
    Result.Inv (Machine.execAmoOr d a b dw o c s) := .atomic h

theorem Result.Inv.execAmoXor {d a b : GReg} {dw : Bool} {o : Order} {c : Scope} (h : s.Inv) :
    Result.Inv (Machine.execAmoXor d a b dw o c s) := .atomic h

theorem Result.Inv.execAmoMin {d a b : GReg} {dw : Bool} {o : Order} {c : Scope} (h : s.Inv) :
    Result.Inv (Machine.execAmoMin d a b dw o c s) := .atomic h

theorem Result.Inv.execAmoMax {d a b : GReg} {dw : Bool} {o : Order} {c : Scope} (h : s.Inv) :
    Result.Inv (Machine.execAmoMax d a b dw o c s) := .atomic h

theorem Result.Inv.execAmoMinn {d a b : GReg} {dw : Bool} {o : Order} {c : Scope} (h : s.Inv) :
    Result.Inv (Machine.execAmoMinn d a b dw o c s) := .atomic h

theorem Result.Inv.execAmoMaxn {d a b : GReg} {dw : Bool} {o : Order} {c : Scope} (h : s.Inv) :
    Result.Inv (Machine.execAmoMaxn d a b dw o c s) := .atomic h

theorem Result.Inv.execAmoSwap {d a b : GReg} {dw : Bool} {o : Order} {c : Scope} (h : s.Inv) :
    Result.Inv (Machine.execAmoSwap d a b dw o c s) := .atomic h

theorem Result.Inv.execAmocas {d a b : GReg} {dw : Bool} {o : Order} {c : Scope} (h : s.Inv) :
    Result.Inv (Machine.execAmocas d a b dw o c s) := .atomic h

end Sys2Proof.Machine
end

section
/-! The invariant of a state, kept by the functions of `Sys2Proof/Machine/Boot.lean`. -/

namespace Sys2Proof.Machine

variable {s : State}

theorem State.Inv.runSlot {slot : Nat} {active inactive : List CfgRecord} (h : s.Inv) : (s.runSlot slot active inactive).Inv :=
  .writeDword (.same h rfl rfl rfl rfl)

theorem Result.Inv.execBoot {slotA slotB : List CfgRecord} (h : s.Inv) : Result.Inv (Machine.execBoot slotA slotB s) := by
  unfold Machine.execBoot
  refine .event h (.ite .none ?_)
  dsimp only
  exact .ite (.some (.runSlot (.same h rfl rfl rfl rfl))) (.ite (.some (.runSlot (.same h rfl rfl rfl rfl))) (.some (.same
    h rfl rfl rfl rfl)))

theorem State.Inv.switchOver (h : s.Inv) : s.switchOver.Inv := .same h rfl rfl rfl rfl

theorem Result.Inv.execLiveUpdate {recs : List CfgRecord} {die : Nat} (h : s.Inv) :
    Result.Inv (Machine.execLiveUpdate recs die s) := by
  unfold Machine.execLiveUpdate
  refine .event h (.ite .none ?_)
  extract_lets begun s1
  have h1 : s1.Inv := .ite h (.same h rfl rfl rfl rfl)
  clear_value s1
  refine .ite (.some h1) ?_
  split
  · extract_lets die s2
    have h2 : s2.Inv := .same h1 rfl rfl rfl rfl
    exact .some (.ite (.switchOver h2) h2)
  · exact .some h1

theorem Result.Inv.execGetVersion (h : s.Inv) : Result.Inv (Machine.execGetVersion s) := .next (.same h rfl rfl rfl rfl)

theorem Result.Inv.execGetCapabilities (h : s.Inv) : Result.Inv (Machine.execGetCapabilities s) :=
  .next (.ite (.same h rfl rfl rfl rfl) (.same h rfl rfl rfl rfl))

theorem Result.Inv.execNegotiateAlgorithms (h : s.Inv) : Result.Inv (Machine.execNegotiateAlgorithms s) :=
  .next (.ite (.same h rfl rfl rfl rfl) (.same h rfl rfl rfl rfl))

theorem Result.Inv.execGetDigests (h : s.Inv) : Result.Inv (Machine.execGetDigests s) := .next (.same h rfl rfl rfl rfl)

theorem Result.Inv.execGetCertificate (h : s.Inv) : Result.Inv (Machine.execGetCertificate s) := .next (.same h rfl rfl rfl rfl)

theorem Result.Inv.execGetMeasurements (h : s.Inv) : Result.Inv (Machine.execGetMeasurements s) :=
  .next (.same h rfl rfl rfl rfl)

end Sys2Proof.Machine
end

section
/-! The invariant of a state, kept by the functions of `Sys2Proof/Machine/Place.lean`. -/

namespace Sys2Proof.Machine

variable {s : State}

theorem State.Inv.restoreWindow {tile : Nat} {w : Window} {cells : List (Nat × Byte)} (h : s.Inv) :
    (s.restoreWindow tile w cells).Inv := ⟨Memory.wf_replace (Memory.wf_replace h.mem _ _ _) _ _ _, h.tasks, h.tiles, h.vds⟩

theorem State.Inv.unspecWindow {tile o size : Nat} (h : s.Inv) : (s.unspecWindow tile o size).Inv :=
  ⟨Memory.wf_filter h.mem _, h.tasks, h.tiles, h.vds⟩

theorem State.Inv.placeWindow {id : Nat} {t : Task} {tile lid : Nat} (h : s.Inv) : (s.placeWindow id t tile lid).2.Inv := by
  unfold State.placeWindow
  split
  · split
    · exact h
    · split
      · exact .unspecWindow h
      · exact h
  · split
    · exact h
    · split
      · split
        · exact .moveMarks (.moveMarks (.restoreWindow h))
        · exact h
      · exact h

theorem State.Inv.restoreCore {id : Nat} {t : Task} {p : Place} (h : s.Inv) : (s.restoreCore id t p).Inv := by
  unfold State.restoreCore
  split
  · exact h
  · exact .modCore h

theorem State.Inv.startOn {id : Nat} {p : Place} (h : s.Inv) : (s.startOn id p).Inv := by
  unfold State.startOn
  split
  · exact h
  · refine .ite h (.ite (.endTask h) ?_)
    dsimp only
    split
    · refine .takeTrap (.acquire ?_)
      split
      · exact .modFut (.setTask (.restoreCore (.placeWindow h)))
      · exact .setTask (.restoreCore (.placeWindow h))
    · refine .acquire ?_
      split
      · exact .modFut (.setTask (.restoreCore (.placeWindow h)))
      · exact .setTask (.restoreCore (.placeWindow h))

theorem State.Inv.addTask {vd : Nat} {ident : Ident} {d : Desc} {st : Status} {home : Nat} {c : Ctx} (h : s.Inv) :
    (s.addTask vd ident d st home c).2.Inv := .same (.setTask h) rfl rfl rfl rfl

end Sys2Proof.Machine
end

section
/-! The invariant of a state, kept by the functions of `Sys2Proof/Machine/Futures.lean`. -/

namespace Sys2Proof.Machine

variable {s : State}

theorem KeepsInv.checkHandle {vd : Nat} {hd : Word} (h : s.Inv) : KeepsInv (Machine.checkHandle vd hd) s :=
  .get_bind (.ite .trap (.pure h))

theorem KeepsInv.heldHandle {t : Task} {r : HReg} (h : s.Inv) : KeepsInv (Machine.heldHandle t r) s :=
  .when .trap (fun _ h1 => .bind (.checkHandle h1) (fun _ _ h2 => .pure h2)) h

theorem KeepsInv.roomFor {vd : Nat} {hd : Word} {n : Nat} (h : s.Inv) : KeepsInv (Machine.roomFor vd hd n) s :=
  .get_bind (.ite .trap (.pure h))

theorem Result.Inv.execFwait {hd : HReg} {a b : GReg} (h : s.Inv) : Result.Inv (Machine.execFwait hd a b s) :=
  .run h (fun _ _ _ _ h1 => .bind (.heldHandle h1) (fun _ _ h2 => .when .trap (fun _ h3 => .get_bind (.ite (.ite (.bind
    (.modify (.modTask h3)) (fun _ _ h4 => .bind (.modify (.dropHandle h4)) (fun _ _ h5 => .bind (.modify (.acquire h5))
    (fun _ _ h6 => .pure h6)))) (.bind (.modify (.acquire h3)) (fun _ _ h4 => .pure h4))) (.ite (.bind (.roomFor h3)
    (fun _ _ h4 => .bind (.modify (.modTask (.raise h4))) (fun _ _ h5 => .parkOn h5))) (.parkOn h3)))) h2))

theorem Result.Inv.execFtest {hd : HReg} {a : GReg} (h : s.Inv) : Result.Inv (Machine.execFtest hd a s) :=
  .run h (fun _ _ _ _ h1 => .ite (.pure h1) (.bind (.checkHandle h1) (fun _ _ h2 => .get_bind (.when (.modify (.acquire h2))
    (fun _ h3 => .pure h3) h2))))

theorem State.Inv.cancelFut {vd i : Nat} (h : s.Inv) : (s.cancelFut vd i).Inv := by
  unfold State.cancelFut
  refine .ite h (.ite ?_ (.ite ?_ (.ite (.complete h) (.ite (.closeFut (.complete (.modVd h))) (.doomAll h)))))
  · split
    · exact .doomTask h
    · exact h
  · split
    · exact .dropCmds h
    · exact .modFut h

theorem Result.Inv.execFcancel {hd : HReg} (h : s.Inv) : Result.Inv (Machine.execFcancel hd s) :=
  .run h fun _ _ _ _ h1 => .bind (.heldHandle h1) fun _ _ h2 => .bind (.modify (.cancelFut h2)) fun _ _ h3 => .pure h3

theorem Result.Inv.execFref {hd st : HReg} (h : s.Inv) : Result.Inv (Machine.execFref hd st s) :=
  .run h (fun _ _ _ _ h1 => .ite (.bind (.modify (.putH h1)) (fun _ _ h2 => .pure h2)) (.bind (.checkHandle h1) (fun _ _ h2 =>
    .ite (.bind (.roomFor h2) (fun _ _ h3 => .bind (.modify (.putH (.raise h3))) (fun _ _ h4 => .pure h4))) (.pure h2))))

theorem Result.Inv.execFdrop {hd : HReg} (h : s.Inv) : Result.Inv (Machine.execFdrop hd s) :=
  .run h fun _ _ _ _ h1 => .bind (.modify (.putH h1)) fun _ _ h2 => .pure h2

theorem KeepsInv.slotAt {id : Nat} {t : Task} {a : Word} {checks : Act Unit} (h : s.Inv)
    (hc : ∀ u, u.Inv → KeepsInv checks u) : KeepsInv (Machine.slotAt id t a checks) s := by
  unfold Machine.slotAt
  refine .when .trap (fun u hu => .bind (.atomicAt hu) fun x u hu => .get_bind (.ite (.bind (hc u hu) fun _ u hu => ?_)
    (.bind (.atomicRead hu) fun _ u hu => .pure hu))) h
  split
  · exact .bind (.reserve hu) fun _ u hu => .bind (.atomicRead hu) fun _ u hu => .pure hu
  · exact .bind (.atomicRead hu) fun _ u hu => .pure hu

theorem KeepsInv.slotWrite {t : Task} {a : Word} {g : Target} {k : Nat} {x : Word} (h : s.Inv) :
    KeepsInv (Machine.slotWrite t a g k x) s := by
  unfold Machine.slotWrite
  split
  · exact .bind (.reserve h) fun _ _ h1 => .atomicWrite h1
  · exact .atomicWrite h

theorem State.Inv.slotTraffic {id : Nat} {t : Task} {a : Word} {g : Target} {x y : Word} {function : Nat} (h : s.Inv) :
    (s.slotTraffic id t a g x y function).Inv := .atomicTraffic h

theorem Result.Inv.execFpin {hd : HReg} {a : GReg} (h : s.Inv) : Result.Inv (Machine.execFpin hd a s) := by
  unfold Machine.execFpin
  refine .run h (fun x x1 x2 t h1 => .bind (.heldHandle h1) (fun x3 t1 h2 => .bind (.slotAt h2 (fun _ h3 => .roomFor h3))
    (fun x4 t2 h3 => ?_)))
  dsimp only
  exact .when .trap (fun _ h4 => .bind (.roomFor h4) (fun _ _ h5 => .bind (.slotWrite h5) (fun _ _ h6 => .bind (.modify (.raise
    (.slotTraffic h6))) (fun _ _ h7 => .pure h7)))) h3

theorem Result.Inv.execFtake {hd : HReg} {a : GReg} (h : s.Inv) : Result.Inv (Machine.execFtake hd a s) := by
  unfold Machine.execFtake
  refine .run h fun x x1 x2 t h1 => .bind (.slotAt h1 (fun _ h2 => .pure h2)) fun x3 t1 h2 => ?_
  dsimp only
  exact .ite (.bind (.checkHandle h2) (fun _ _ h3 => .bind (.slotWrite h3) (fun _ _ h4 => .bind (.modify (.putH
    (.slotTraffic h4))) (fun _ _ h5 => .pure h5)))) (.bind (.modify (.putH (.slotTraffic h2))) (fun _ _ h3 => .pure h3))

theorem Result.Inv.execFdone {a : GReg} (h : s.Inv) : Result.Inv (Machine.execFdone a s) := by
  unfold Machine.execFdone
  refine .run h fun x x1 x2 t h1 => ?_
  split
  · exact .bind (.modify (.complete (.release h1))) fun _ _ h2 => .bind (.modify (.modTask h2)) fun _ _ h3 => .pure h3
  · exact .get_bind (.bind (.throw (.endTask h1)) (fun _ _ h2 => .pure h2))
  · exact .when (.modify (.modTask (.modFut (.release h1)))) (fun _ h2 => .pure h2) h1

theorem KeepsInv.depdec {id : Nat} {t : Task} {hd tval : Word} (h : s.Inv) : KeepsInv (Machine.depdec id t hd tval) s :=
  .when .trap (fun _ h1 => .bind (.checkHandle h1) (fun _ _ h2 => .when .trap (fun _ h3 => .get_bind (.when .trap (fun _ h4 =>
    .bind (.modify (.futMessage (.feedChild (.release h4)))) (fun _ _ h5 => .pure h5)) h3)) h2)) h

theorem Result.Inv.execDepdec {hd : HReg} (h : s.Inv) : Result.Inv (Machine.execDepdec hd s) :=
  .run h fun _ _ _ _ h1 => .depdec h1

theorem Result.Inv.execDepdecMem {a : GReg} (h : s.Inv) : Result.Inv (Machine.execDepdecMem a s) :=
  .run h fun _ _ _ _ h1 => .when .trap (fun _ h2 => .bind (.loadDword h2) (fun _ _ h3 => .depdec h3)) h1

theorem Result.Inv.execRpoint (h : s.Inv) : Result.Inv (Machine.execRpoint s) := .run h fun _ _ _ _ h1 => .pure h1

theorem Result.Inv.execSelf {hd : HReg} (h : s.Inv) : Result.Inv (Machine.execSelf hd s) :=
  .run h (fun _ _ _ _ h1 => .get_bind (.bind (.roomFor h1) (fun _ _ h2 => .bind (.modify (.putH (.raise h2))) (fun _ _ h3 =>
    .pure h3))))

theorem Result.Inv.execExit {a : GReg} (h : s.Inv) : Result.Inv (Machine.execExit a s) :=
  .run h fun _ _ _ _ h1 => .get_bind (.throw (.endTask h1))

end Sys2Proof.Machine
end

section
/-! The invariant of a state, kept by the functions of `Sys2Proof/Machine/Tasks.lean`. -/

namespace Sys2Proof.Machine

variable {s : State}

theorem KeepsInv.readExtents {id : Nat} {t : Task} {desc : Word} {a n : Nat} (h : s.Inv) :
    KeepsInv (Machine.readExtents id t desc a n) s := by
  induction n generalizing s a with
  | zero => exact .pure h
  | succ n ih =>
    exact .bind (.loadBytes h) fun _ t ht => .bind (ih ht) fun _ t ht => .when .trap (fun t ht => .pure ht) ht

theorem KeepsInv.readDesc {id : Nat} {t : Task} {a : Word} (h : s.Inv) : KeepsInv (Machine.readDesc id t a) s :=
  .when .trap (fun _ h1 => .bind (.loadBytes h1) (fun _ _ h2 => .when .trap (fun _ h3 => .bind (.checkPages h3) (fun _ _ h4 =>
    .bind (.readExtents h4) (fun _ _ h5 => .pure h5))) h2)) h

theorem KeepsInv.spawnBody {hd : HReg} {b : GReg} {pass : Option HReg} {n0 : Nat} {n1 : Task} {n2 : List Word} (h : s.Inv) :
    KeepsInv (Machine.spawnBody hd b pass n0 n1 n2) s :=
  .bind (.readDesc h) (fun _ _ h1 => .when .trap (fun _ h2 => .when .trap (fun _ h3 => .when .trap (fun _ h4 => .ite (.bind
    (.checkHandle h4) (fun _ _ h5 => .get_bind (.when .trap (fun _ h6 => .when .trap (fun _ h7 => .get_bind (.when
    (.roomFor h7) (fun _ h8 => .get_bind (.bind (.newFut h8) (fun _ _ h9 => .bind (.modify (.release h9)) (fun _ _ h10 => .ite
    (.bind (.modify (.raise h10)) (fun _ _ h11 => .when (.modify (.modFut (.raise h11))) (fun _ h12 => .bind (.modify
    (.addTask h12)) (fun _ _ h13 => .bind (.modify (.putH h13)) (fun _ _ h14 => .bind (.modify (.modCore h14)) (fun _ _ h15 =>
    .pure h15)))) h11)) (.bind (.modify (.addTask h10)) (fun _ _ h11 => .bind (.modify (.putH h11)) (fun _ _ h12 => .bind
    (.modify (.modCore h12)) (fun _ _ h13 => .pure h13)))))))) h7)) h6) h5))) (.when .trap (fun _ h5 => .get_bind (.when
    (.roomFor h5) (fun _ h6 => .get_bind (.bind (.newFut h6) (fun _ _ h7 => .bind (.modify (.release h7)) (fun _ _ h8 => .ite
    (.bind (.modify (.raise h8)) (fun _ _ h9 => .when (.modify (.modFut (.raise h9))) (fun _ h10 => .bind (.modify
    (.addTask h10)) (fun _ _ h11 => .bind (.modify (.putH h11)) (fun _ _ h12 => .bind (.modify (.modCore h12)) (fun _ _ h13 =>
    .pure h13)))) h9)) (.bind (.modify (.addTask h8)) (fun _ _ h9 => .bind (.modify (.putH h9)) (fun _ _ h10 => .bind (.modify
    (.modCore h10)) (fun _ _ h11 => .pure h11)))))))) h5)) h4)) h3) h2) h1)

theorem Result.Inv.execSpawn {hd : HReg} {a b : GReg} (h : s.Inv) : Result.Inv (Machine.execSpawn hd a b s) :=
  .run h fun _ _ _ _ h1 => .spawnBody h1

theorem Result.Inv.execSpawnPass {hd : HReg} {a b : GReg} {p : HReg} (h : s.Inv) :
    Result.Inv (Machine.execSpawnPass hd a b p s) := .run h fun _ _ _ _ h1 => .spawnBody h1

theorem Result.Inv.execGang {hd : HReg} {a : GReg} (h : s.Inv) : Result.Inv (Machine.execGang hd a s) :=
  .run h (fun _ _ _ _ h1 => .when .trap (fun _ h2 => .bind (.loadBytes h2) (fun _ _ h3 => .when .trap (fun _ h4 => .bind
    (.readDesc h4) (fun _ _ h5 => .get_bind (.when .trap (fun _ h6 => .get_bind (.bind (.newFut h6) (fun _ _ h7 => .bind
    (.modify (.release h7)) (fun _ _ h8 => .bind (.modify (.putH h8)) (fun _ _ h9 => .bind (.modify (.modVd h9))
    (fun _ _ h10 => .pure h10)))))) h5))) h3)) h1)

theorem State.Inv.placeOverdue {vd prio : Nat} (h : s.Inv) : (s.placeOverdue vd prio).Inv := by
  unfold State.placeOverdue
  refine .foldl h fun t x h1 => ?_
  dsimp only
  split
  · exact .startOn h1
  · exact h1

theorem State.Inv.recruits {vd fut : Nat} {d : Desc} {home t g c n i : Nat} {l : List Place} (h : s.Inv) :
    (s.recruits vd fut d home t g c n l i).Inv := by
  induction l generalizing s i with
  | nil => exact h
  | cons p l ih => exact ih (.startOn (.addTask h))

theorem Result.Inv.execFork {hd : HReg} {a b : GReg} (h : s.Inv) : Result.Inv (Machine.execFork hd a b s) :=
  .run h (fun _ _ _ _ h1 => .bind (.readDesc h1) (fun _ _ h2 => .bind (.newFut h2) (fun _ _ h3 => .bind (.modify (.release h3))
    (fun _ _ h4 => .bind (.modify (.putH h4)) (fun _ _ h5 => .ite (.bind (.modify (.closeFut (.complete h5))) (fun _ _ h6 =>
    .pure h6)) (.bind (.modify (.placeOverdue h5)) (fun _ _ h6 => .get_bind (.bind (.modify (.modFut h6)) (fun _ _ h7 => .ite
    (.bind (.modify (.addTask h7)) (fun _ _ h8 => .pure h8)) (.bind (.modify (.recruits h7)) (fun _ _ h8 => .pure h8)))))))))))

theorem Result.Inv.execYield (h : s.Inv) : Result.Inv (Machine.execYield s) :=
  .run h (fun _ _ _ _ h1 => .bind (.modify (.modTask h1)) (fun _ _ h2 => .bind (.modify (.makeReady (.park h2))) (fun _ _ h3 =>
    .get_bind (.throw h3))))

end Sys2Proof.Machine
end

section
/-! The invariant of a state, kept by the functions of `Sys2Proof/Machine/Groups.lean`. -/

namespace Sys2Proof.Machine

variable {s : State}

theorem KeepsInv.groupId {x : Word} (h : s.Inv) : KeepsInv (Machine.groupId x) s := .when .trap (fun _ h1 => .pure h1) h

theorem KeepsInv.ownGroup {id : Nat} {t : Task} {x : Word} (h : s.Inv) : KeepsInv (Machine.ownGroup id t x) s :=
  .bind (.groupId h) fun _ _ h1 => .get_bind (.when .trap (fun _ h2 => .pure h2) h1)

theorem Result.Inv.execGjoin {a : GReg} (h : s.Inv) : Result.Inv (Machine.execGjoin a s) :=
  .run h (fun _ _ _ _ h1 => .bind (.groupId h1) (fun _ _ h2 => .get_bind (.when (.modify (.setGroup h2)) (fun _ h3 =>
    .pure h3) h2)))

theorem Result.Inv.execGleave {a : GReg} (h : s.Inv) : Result.Inv (Machine.execGleave a s) :=
  .run h fun _ _ _ _ h1 => .when .trap (fun _ h2 => .bind (.modify (.depart h2)) (fun _ _ h3 => .pure h3)) h1

theorem State.Inv.arriveAt {vd n id : Nat} (h : s.Inv) : (s.arriveAt vd n id).Inv := .setGroup (.barrierMessage (.release h))

theorem Result.Inv.execGbar {a b : GReg} (h : s.Inv) : Result.Inv (Machine.execGbar a b s) :=
  .run h (fun _ _ _ _ h1 => .bind (.ownGroup h1) (fun _ _ h2 => .get_bind (.when (.parkOn h2) (fun _ h3 => .bind (.modify
    (.arriveAt h3)) (fun _ _ h4 => .get_bind (.ite (.bind (.set (.acquire (.fire h4))) (fun _ _ h5 => .pure h5))
    (.parkOn h4)))) h2)))

theorem Result.Inv.execGarrive {a : GReg} (h : s.Inv) : Result.Inv (Machine.execGarrive a s) :=
  .run h (fun _ _ _ _ h1 => .bind (.ownGroup h1) (fun _ _ h2 => .get_bind (.when (.modify (.tryFire (.arriveAt h2)))
    (fun _ h3 => .pure h3) h2)))

theorem State.Inv.xputNumbered {n : Nat} (h : s.Inv) : State.Inv { s with nextXput := n } := .same h rfl rfl rfl rfl

theorem Result.Inv.execXput {a b : GReg} (h : s.Inv) : Result.Inv (Machine.execXput a b s) := by
  unfold Machine.execXput
  exact .run h fun id t v s hs => .when .trap (fun u hu => .when .trap (fun u hu => .get_bind (.when .trap
    (fun u hu => .bind (.modify (.xputNumbered (.send (.drain hu)))) fun _ u hu => .pure hu) hu)) hu) hs

end Sys2Proof.Machine
end

section
/-! The invariant of a state, kept by the functions of `Sys2Proof/Machine/Queues.lean`. -/

namespace Sys2Proof.Machine

variable {s : State}

theorem KeepsInv.queueAt {id vd : Nat} {x : Word} (h : s.Inv) : KeepsInv (Machine.queueAt id vd x) s := by
  unfold Machine.queueAt
  refine .get_bind (.when .holdHere (fun t h1 => .bind (.modify (.deliverMine h1)) (fun x1 t1 h2 => .get_bind ?_)) h)
  split
  · exact .pure h2
  · exact .trap

theorem Result.Inv.execQnew {a b : GReg} (h : s.Inv) : Result.Inv (Machine.execQnew a b s) := by
  unfold Machine.execQnew
  refine .run h (fun x x1 x2 t h1 => .when .trap (fun t1 h2 => .get_bind (.when .holdHere (fun t2 h3 => .when .trap
    (fun t3 h4 => ?_) h3) h2)) h1)
  split
  · exact .pure h4
  · exact .bind (.set (.slotLive (.modVd h2))) fun _ _ h5 => .pure h5

theorem State.Inv.pushSettled {id : Nat} {left : List (Word32 × Option Nat)} {done : Option Kept} {before : Ctx}
    {refused : Option (Nat × Word)} (h : s.Inv) : (s.pushSettled id left done before refused).Inv := by
  unfold State.pushSettled
  refine .ite (.modTask h) ?_
  split
  · dsimp only
    split
    · exact .makeReady h
    · exact .makeReady (.modTask h)
  · dsimp only
    split
    · exact .makeReady h
    · exact .makeReady (.modTask h)

theorem State.Inv.refusePush {vd : Nat} {hd : Word32} {w : Pusher} (h : s.Inv) : (s.refusePush vd hd w).Inv := by
  unfold State.refusePush
  split
  · split
    · exact h
    · exact .pushSettled h
  · exact .answerHere h
  · exact h
  · exact h

theorem State.Inv.freeQueue {vd : Nat} {hd : Word32} {q : Queue} (h : s.Inv) : (s.freeQueue vd hd q).Inv :=
  .ite (.foldl (.foldl (.modVd (.zeroRange h)) (fun _ _ h1 => .makeReady h1)) (fun _ _ h1 => .refusePush h1)) (.same (.foldl
    (.foldl (.modVd (.zeroRange h)) (fun _ _ h1 => .makeReady h1)) (fun _ _ h1 => .refusePush h1)) rfl rfl rfl rfl)

theorem Result.Inv.execQfree {a : GReg} (h : s.Inv) : Result.Inv (Machine.execQfree a s) := by
  unfold Machine.execQfree
  refine .run h fun x x1 x2 t h1 => .bind (.queueAt h1) fun x3 t1 h2 => ?_
  dsimp only
  exact .bind (.modify (.freeQueue h2)) fun _ _ h3 => .pure h3

theorem State.Inv.rebound {id : Nat} {p : BitVec 3} {hd : Word32} (h : s.Inv) : (s.rebound id p hd).Inv := .modTask h

theorem Result.Inv.execQbind {p : BitVec 3} {a : GReg} (h : s.Inv) : Result.Inv (Machine.execQbind p a s) := by
  unfold Machine.execQbind
  refine .run h fun id t v s hs => ?_
  have hr {u : State} {w : Word32} (hu : u.Inv) : KeepsInv (do modify fun s => s.rebound id p w; return ({} : Done)) u :=
    .bind (.modify (.rebound hu)) fun _ u hu => .pure hu
  refine .ite (.get_bind (.when .holdHere (fun u hu => .bind (.modify (.deliverMine hu)) fun _ u hu => .get_bind
    (.ite (.bind (.throw ?_) fun _ u hu => hr hu) (hr hu))) hs)) (hr hs)
  exact State.Inv.ite (.rebound hu) (.takeTrap (.rebound hu))

theorem Result.Inv.execQpush {a b : GReg} (h : s.Inv) : Result.Inv (Machine.execQpush a b s) := by
  unfold Machine.execQpush
  refine .run h (fun x x1 x2 t h1 => .get_bind (.when .holdHere (fun t1 h2 => .bind (.modify (.deliverMine (.release h2)))
    (fun x3 t2 h3 => .get_bind ?_)) h1))
  split
  · exact .throw (.takeTrap h3)
  · dsimp only
    exact .bind (.set (.push (.message h3))) (fun _ _ h4 => .when (.throw (.park (.modTask (.push (.message h3)))))
      (fun _ h5 => .pure h5) h4)

theorem Result.Inv.execQpop {a b : GReg} (h : s.Inv) : Result.Inv (Machine.execQpop a b s) := by
  unfold Machine.execQpop
  refine .run h fun x x1 x2 t h1 => .bind (.queueAt h1) fun x3 t1 h2 => ?_
  dsimp only
  refine .get_bind (.bind (.set (.pop h2)) (fun x4 t2 h3 => ?_))
  split
  · exact .bind (.modify (.acquire h3)) fun _ _ h4 => .pure h4
  · exact .parkOn h3

theorem Result.Inv.execQenq {hd : HReg} {a b : GReg} (h : s.Inv) : Result.Inv (Machine.execQenq hd a b s) :=
  .run h (fun _ _ _ _ h1 => .bind (.newFut h1) (fun _ _ h2 => .get_bind (.bind (.modify (.release h2)) (fun _ _ h3 => .bind
    (.modify (.putH h3)) (fun _ _ h4 => .bind (.modify (.ite (.closeFut (.complete h4)) (.send h4))) (fun _ _ h5 =>
    .pure h5))))))

theorem Result.Inv.execQlen {a b : GReg} (h : s.Inv) : Result.Inv (Machine.execQlen a b s) := by
  unfold Machine.execQlen
  refine .run h fun x x1 x2 t h1 => .bind (.queueAt h1) fun x3 t1 h2 => ?_
  dsimp only
  exact .pure h2

end Sys2Proof.Machine
end

section
/-! The invariant of a state, kept by the functions of `Sys2Proof/Machine/Roles.lean`. -/

namespace Sys2Proof.Machine

variable {s : State}

theorem State.Inv.noticeReservedPut {vd : Nat} {r : Word × Word × Word × Word} (h : s.Inv) : (s.noticeReservedPut vd r).Inv :=
  .noticePut (.modVd h)

theorem State.Inv.endRecord {vd : Nat} {n : Notice} {r : Word × Word × Word × Word} (h : s.Inv) : (s.endRecord vd n r).Inv :=
  .ite (.noticeReservedPut h) (.ite (.noticePut h) (.modVd h))

theorem State.Inv.withdraw {vd lid kind : Nat} (h : s.Inv) : (s.withdraw vd lid kind).Inv := by
  unfold State.withdraw
  dsimp only
  split
  · exact .endRecord (.modEntry h)
  · exact h

theorem KeepsInv.tileArg {x : Word} (h : s.Inv) : KeepsInv (Machine.tileArg x) s := .when .trap (fun _ h1 => .pure h1) h

theorem Result.Inv.execLease {a b : GReg} (h : s.Inv) : Result.Inv (Machine.execLease a b s) :=
  .run h (fun _ _ _ _ h1 => .bind (.tileArg h1) (fun _ _ h2 => .when .trap (fun _ h3 => .get_bind (.when .trap (fun _ h4 =>
    .when .trap (fun _ h5 => .bind (.modify (.modEntry h5)) (fun _ _ h6 => .get_bind (.when (.modify (.withdraw h6))
    (fun _ h7 => .pure h7) h6))) h4) h3)) h2))

theorem Result.Inv.execUnlease {a : GReg} (h : s.Inv) : Result.Inv (Machine.execUnlease a s) :=
  .run h (fun _ _ _ _ h1 => .bind (.tileArg h1) (fun _ _ h2 => .get_bind (.when (.modify (.modEntry h2)) (fun _ h3 =>
    .pure h3) h2)))

theorem Result.Inv.execRack {a : GReg} (h : s.Inv) : Result.Inv (Machine.execRack a s) := by
  unfold Machine.execRack
  refine .run h fun x x1 x2 t h1 => .bind (.tileArg h1) fun x3 t1 h2 => .get_bind ?_
  dsimp only
  split
  · exact .when (.set (.modEntry h2)) (fun _ h3 => .pure h3) h2
  · exact .pure h2

theorem Result.Inv.execRlook {a b : GReg} (h : s.Inv) : Result.Inv (Machine.execRlook a b s) :=
  .run h fun _ _ _ _ h1 => .bind (.tileArg h1) fun _ _ h2 => .get_bind (.pure h2)

end Sys2Proof.Machine
end

section
/-! The invariant of a state, kept by the functions of `Sys2Proof/Machine/TileCommands.lean`. -/

namespace Sys2Proof.Machine

variable {s : State}

theorem KeepsInv.trapKeep {α : Type} {id cause tval : Nat} (h : s.Inv) : KeepsInv (Machine.trapKeep id cause tval : Act α) s :=
  .get_bind (.throw (State.Inv.takeTrap h))

/-- What follows a walk of the page tables. -/
theorem KeepsInv.walked {α : Type} {r : Except (Nat × Nat) (Word × Nat × Nat)} {f : Nat → Nat → Act α} {g : Word → Nat → Nat → Act α}
    (hf : ∀ l p, KeepsInv (f l p) s) (hg : ∀ e l p, KeepsInv (g e l p) s) :
    KeepsInv (match r with
      | .error (l, p) => f l p
      | .ok (e, l, p) => g e l p) s := by
  rcases r with ⟨l, p⟩ | ⟨e, l, p⟩
  · exact hf l p
  · exact hg e l p
theorem KeepsInv.pinPage {id : Nat} {t : Task} {r : Range} {fin a : Nat} {pins : List TlbEntry} (h : s.Inv) :
    KeepsInv (Machine.pinPage id t r fin a pins) s := by
  unfold Machine.pinPage
  refine .get_bind (.when (.trapKeep h) (fun u hu => .ite (.ite (.pure hu) (.ite ?_ (.trapKeep hu))) ?_) h)
  · split
    · exact .ite (.trapKeep hu) (.pure hu)
    · exact .trapKeep hu
  · have hf (l p n k : Nat) (w : State) (e : s.faultRecord t 3 0xF a l p = some (n, k, w)) := State.Inv.faultRecord h e
    generalize s.faultRecord = record at hf ⊢
    refine .walked (fun l p => ?_) fun e l p => ?_
    · cases e : record t 3 0xF a l p with
      | none => exact .parkOn hu
      | some x => exact .bind (.set (hf _ _ _ _ _ e)) fun _ u hu => .trapKeep hu
    · exact .when (.trapKeep hu) (fun u hu => .when (.trapKeep hu)
        (fun _ _ => .bind (.set (.setTile (.ite h (.writeDword h)))) fun _ _ hu => .pure hu) hu) hu

theorem KeepsInv.pinEach {id : Nat} {t : Task} {fin a : Nat} {l : List Range} {x : List TlbEntry × Nat} (h : s.Inv) :
    KeepsInv (Machine.pinEach id t fin a l x) s := by
  induction l generalizing s x with
  | nil => exact .pure h
  | cons r l ih => exact .bind (.pinPage h) fun _ u hu => ih hu

theorem KeepsInv.pinRange {id : Nat} {t : Task} {l : List Range} {fin n a : Nat} {pins : List TlbEntry} (h : s.Inv) :
    KeepsInv (Machine.pinRange id t l fin n a pins) s := by
  induction n generalizing s a pins with
  | zero => exact .pure h
  | succ n ih => exact .ite (.pure h) (.bind (.pinEach h) fun _ u hu => ih hu)

theorem KeepsInv.pinAll {id : Nat} {t : Task} {l : List (List Range)} {pins : List TlbEntry} (h : s.Inv) :
    KeepsInv (Machine.pinAll id t l pins) s := by
  induction l generalizing s pins with
  | nil => exact .pure h
  | cons m l ih =>
    cases m with
    | nil => exact ih h
    | cons r m => exact .bind (.pinRange h) fun _ u hu => ih hu

theorem KeepsInv.reserveLines {vd : Nat} {l : List Nat} (h : s.Inv) : KeepsInv (Machine.reserveLines vd l) s := by
  induction l generalizing s with
  | nil => exact .pure h
  | cons x l ih =>
    unfold Machine.reserveLines
    refine .get_bind ?_
    split
    · exact ih h
    · exact .ite (ih h) (.bind (.reserve h) fun _ u hu => .bind (ih hu) fun _ u hu => .pure hu)

theorem KeepsInv.reserveAll {id vd : Nat} {l : List Range} (h : s.Inv) : KeepsInv (Machine.reserveAll id vd l) s := by
  unfold Machine.reserveAll
  refine .get_bind (.ite (.pure h) ?_)
  have hl := KeepsInv.reserveLines (vd := vd) (l := (writtenLines l).dedup) h
  split <;> rename_i e
  · exact .bind (.set (hl.ok _ _ e)) fun _ u hu => .pure hu
  · exact .trapKeep h
  · exact .throw (hl.error _ e)

theorem State.Inv.enter {p : Place} {q : EngQ} {c : Cmd} {tag : BitVec 8} (h : s.Inv) : (s.enter p q c tag).Inv := by
  unfold State.enter
  exact .modCore (.ite h (.mapCmds h))

theorem KeepsInv.cmdFuture {id vd : Nat} {hd : CmdHead} (h : s.Inv) : KeepsInv (Machine.cmdFuture id vd hd) s := by
  unfold Machine.cmdFuture
  split
  · exact .pure h
  · exact .bind (.newFut h) fun _ t h1 => .bind (.modify (.putH h1)) fun _ _ h2 => .pure h2

theorem KeepsInv.push {i : Instr} {hd : CmdHead} {id : Nat} {t : Task} {vals : List Word} {more : Cmd → Act (Option Table)}
    (h : s.Inv) (hm : ∀ c u, u.Inv → KeepsInv (more c) u) : KeepsInv (Machine.push i hd id t vals more) s := by
  unfold Machine.push
  refine .bind (.modify (.release h)) fun _ _ h1 => .bind (.pinAll h1) fun _ _ h2 => .get_bind (.bind (hm _ _ h2) fun _ _ h3 =>
    .get_bind (.bind (.reserveAll h3) fun _ _ h4 => .get_bind (.when (.throw h3) (fun _ h5 => .when (.throw h3) (fun _ h6 =>
      .when (.throw h3) (fun _ h7 => .bind (.cmdFuture h7) fun _ _ h8 => .bind (.modify (.same h8 rfl rfl rfl rfl)) fun _ _ h9 => ?_)
      h6) h5) h4)))
  exact .when (.modify (.modCore h9)) (fun _ h10 => .bind (.modify (.enter h10)) fun _ _ h11 => .pure h11) h9

theorem KeepsInv.illegal {α : Type} {i : Instr} : KeepsInv (Machine.illegal i : Act α) s := .trap

theorem KeepsInv.checkRange {sh : Shape} (h : s.Inv) : KeepsInv (Machine.checkRange sh) s := .ite .trap (.pure h)

theorem KeepsInv.checkBerth {t : Task} {x : Option Arg} (h : s.Inv) : KeepsInv (Machine.checkBerth t x) s := by
  unfold Machine.checkBerth
  split
  · exact .ite .trap (.pure h)
  · exact .pure h

theorem KeepsInv.checkTable {id : Nat} {p : Place} {ty slot : Nat} (h : s.Inv) : KeepsInv (Machine.checkTable id p ty slot) s :=
  .ite (.get_bind (.ite (.trapKeep h) (.pure h))) (.pure h)

theorem KeepsInv.matrixPush {i : Instr} {hd : CmdHead} {sh : Shape} {a b : Opnd} {id : Nat} {t : Task} {vals : List Word}
    (h : s.Inv) : KeepsInv (Machine.matrixPush i hd sh a b id t vals) s :=
  .bind (.checkRange h) (fun _ _ h1 => .bind (.checkBerth h1) (fun _ _ h2 => .bind (.checkBerth h2) (fun _ _ h3 => .push h3
    (fun _ _ h4 => .bind (.checkTable h4) (fun _ _ h5 => .bind (.checkTable h5) (fun _ _ h6 => .pure h6))))))

theorem Result.Inv.execMma {hd : CmdHead} {sh : Shape} {a b : Opnd} {sc : ScaleMode} (h : s.Inv) :
    Result.Inv (Machine.execMma hd sh a b sc s) := .run h fun _ _ _ _ h1 => .matrixPush h1

theorem Result.Inv.execMmas {hd : CmdHead} {sh : Shape} {a b : Opnd} {sc : ScaleMode} (h : s.Inv) :
    Result.Inv (Machine.execMmas hd sh a b sc s) := .run h fun _ _ _ _ h1 => .matrixPush h1

theorem Result.Inv.execAccz {hd : CmdHead} {sh : Shape} (h : s.Inv) : Result.Inv (Machine.execAccz hd sh s) :=
  .run h fun _ _ _ _ h1 => .bind (.checkRange h1) fun _ _ h2 => .push h2 fun _ _ h3 => .pure h3

theorem Result.Inv.execAccld {hd : CmdHead} {sh : Shape} {a : Opnd} (h : s.Inv) : Result.Inv (Machine.execAccld hd sh a s) :=
  .run h fun _ _ _ _ h1 => .bind (.checkRange h1) fun _ _ h2 => .push h2 fun _ _ h3 => .pure h3

theorem Result.Inv.execAccst {hd : CmdHead} {sh : Shape} {c : Opnd} {ta tb : GReg} {out : BitVec 4} (h : s.Inv) :
    Result.Inv (Machine.execAccst hd sh c ta tb out s) :=
  .run h fun _ _ _ _ h1 => .bind (.checkRange h1) fun _ _ h2 => .push h2 fun _ _ h3 => .pure h3

theorem Result.Inv.execTabld {hd : CmdHead} {slot : BitVec 2} {a : Opnd} (h : s.Inv) :
    Result.Inv (Machine.execTabld hd slot a s) := by
  unfold Machine.execTabld
  refine .run h fun x x1 x2 t h1 => .when .trap (fun t1 h2 => .push h2 (fun x3 t2 h3 => .get_bind ?_)) h1
  dsimp only
  refine .bind (.set (.engineRead h3)) fun x4 t3 h4 => ?_
  split
  · exact .trapKeep h4
  · exact .trapKeep h4
  · split
    · exact .trapKeep h4
    · exact .pure h4

theorem KeepsInv.checkAlign {l : List (Nat × Nat)} (h : s.Inv) : KeepsInv (Machine.checkAlign l) s := by
  induction l generalizing s with
  | nil => exact .pure h
  | cons x l ih => exact .when .trap (fun u hu => ih hu) h

theorem Result.Inv.execTcopy {hd : CmdHead} {a c : Opnd} {len : GReg} (h : s.Inv) :
    Result.Inv (Machine.execTcopy hd a c len s) :=
  .run h (fun _ _ _ _ h1 => .when .illegal (fun _ h2 => .bind (.checkAlign h2) (fun _ _ h3 => .push h3 (fun _ _ h4 =>
    .pure h4))) h1)

theorem Result.Inv.execTfill {hd : CmdHead} {c : Opnd} {len val : GReg} (h : s.Inv) :
    Result.Inv (Machine.execTfill hd c len val s) :=
  .run h (fun _ _ _ _ h1 => .when .illegal (fun _ h2 => .bind (.checkAlign h2) (fun _ _ h3 => .push h3 (fun _ _ h4 =>
    .pure h4))) h1)

theorem Result.Inv.execTgather {hd : CmdHead} {a b c : Opnd} {len : GReg} (h : s.Inv) :
    Result.Inv (Machine.execTgather hd a b c len s) :=
  .run h (fun _ _ _ _ h1 => .when .illegal (fun _ h2 => .bind (.checkAlign h2) (fun _ _ h3 => .push h3 (fun _ _ h4 =>
    .pure h4))) h1)

theorem Result.Inv.execTscatter {hd : CmdHead} {a b c : Opnd} {len : GReg} (h : s.Inv) :
    Result.Inv (Machine.execTscatter hd a b c len s) :=
  .run h (fun _ _ _ _ h1 => .when .illegal (fun _ h2 => .bind (.checkAlign h2) (fun _ _ h3 => .push h3 (fun _ _ h4 =>
    .pure h4))) h1)

theorem Result.Inv.execTxchg {hd : CmdHead} {sh : Shape} {grp : GReg} (h : s.Inv) :
    Result.Inv (Machine.execTxchg hd sh grp s) :=
  .run h (fun _ _ _ _ h1 => .when .illegal (fun _ h2 => .get_bind (.when .illegal (fun _ h3 => .bind (.checkRange h3)
    (fun _ _ h4 => .push h4 (fun _ _ h5 => .pure h5))) h2)) h1)

theorem Result.Inv.execTsub {hd : CmdHead} {a c : Opnd} {len : GReg} {pull : Bool} (h : s.Inv) :
    Result.Inv (Machine.execTsub hd a c len pull s) := by
  unfold Machine.execTsub
  refine .run h fun x x1 x2 t h1 => .when .illegal (fun t1 h2 => ?_) h1
  dsimp only
  exact .bind (.checkAlign h2) fun _ _ h3 => .when .trap (fun _ h4 => .push h4 (fun _ _ h5 => .pure h5)) h3

theorem Result.Inv.execTunsub {hd : CmdHead} {c : Opnd} (h : s.Inv) : Result.Inv (Machine.execTunsub hd c s) := by
  unfold Machine.execTunsub
  refine .run h fun x x1 x2 t h1 => ?_
  dsimp only
  split
  · exact .trap
  · refine .get_bind (.when (.parkOn h1) (fun t1 h2 => .bind (.modify (.release h2)) (fun x3 t2 h3 => .bind (.cmdFuture h3)
    (fun x4 t3 h4 => .get_bind ?_))) h1)
    split
    · exact .bind (.modify (.modCore h4)) fun _ _ h5 => .pure h5
    · split
      · exact .bind (.modify (.closeFut (.complete h4))) fun _ _ h5 => .pure h5
      · exact .pure h4

theorem Result.Inv.execQfence {hd : CmdHead} {q : EngQ} {mask : BitVec 4} (h : s.Inv) :
    Result.Inv (Machine.execQfence hd q mask s) := .run h fun _ _ _ _ h1 => .push h1 fun _ _ h2 => .pure h2

end Sys2Proof.Machine
end

section
/-! The invariant of a state, kept by the functions of `Sys2Proof/Machine/Matrix.lean`. -/

namespace Sys2Proof.Machine

variable {s : State}

theorem State.Inv.fetchOperands {tile : Nat} {c : Cmd} (h : s.Inv) : (s.fetchOperands tile c).Inv := by
  unfold State.fetchOperands
  split
  · exact .foldl (.foldl h (fun t _ h1 => .engineFetch h1)) fun _ _ h1 => .l2Pin h1
  · exact .foldl (.foldl h (fun t _ h1 => .engineFetch h1)) fun _ _ h1 => .l2Pin h1
  · exact .foldl (.foldl h (fun t _ h1 => .engineFetch h1)) fun _ _ h1 => .l2Pin h1
  · exact h

end Sys2Proof.Machine
end

section
/-! The invariant of a state, kept by the functions of `Sys2Proof/Machine/Engines.lean`. -/

namespace Sys2Proof.Machine

variable {s : State}

theorem State.Inv.advance {k : Nat} (h : s.Inv) : (s.advance k).Inv := by
  unfold State.advance
  split
  · exact .ite (.receive h) (.hop h)
  · exact h

theorem Result.Inv.execStoreBufferDrain {t k : Nat} (h : s.Inv) : Result.Inv (Machine.execStoreBufferDrain t k s) := by
  unfold Machine.execStoreBufferDrain
  refine .event h ?_
  split
  · exact .ite .none (.some (.drainOne h))
  · exact .map fun _ => .advance h
  · exact .none

theorem Result.Inv.execVectorLaneBind {tile group : Nat} (h : s.Inv) :
    Result.Inv (Machine.execVectorLaneBind tile group s) := by
  unfold Machine.execVectorLaneBind
  refine .event h (.ite .none ?_)
  split
  · exact .none
  · split
    · exact .none
    · exact .some (.setTile h)

theorem Result.Inv.execVectorRetire {tile core : Nat} (h : s.Inv) : Result.Inv (Machine.execVectorRetire tile core s) := by
  unfold Machine.execVectorRetire
  refine .event h ?_
  dsimp only
  split
  · split
    · exact .some (.setTile (.draw h))
    · exact .none
  · exact .none

theorem Result.Inv.execLaneCountHalving {tile : Nat} (h : s.Inv) : Result.Inv (Machine.execLaneCountHalving tile s) :=
  .event h (.ite .none (.some (.modTile h)))

theorem State.Inv.unspecBytes {c : Cmd} {fresh : List (Nat × Byte)} {l : List (Except Nat (Nat × Byte))} (h : s.Inv) :
    (s.unspecBytes c fresh l).2.Inv := .iteSnd h (.same h rfl rfl rfl rfl)

theorem State.Inv.inParts {c : Cmd} {n : Nat}
    {f : State → List (Nat × Byte) → Nat → List (Except Nat Byte) × List (Nat × Byte) × State} (h : s.Inv)
    (hf : ∀ u l i, u.Inv → (f u l i).2.2.Inv) : (s.inParts c n f).2.Inv := by
  have hu : (if c.before.isEmpty then (true, s) else (Config.keeps s.draws, { s with draws := s.draws + 1 })).2.Inv := by
    split
    · exact h
    · exact .drawn h
  unfold State.inParts
  generalize (if c.before.isEmpty then (true, s) else (Config.keeps s.draws, { s with draws := s.draws + 1 })) = p at hu ⊢
  exact List.foldlRecOn (motive := fun r : List (List (Except Nat Byte)) × List (Nat × Byte) × State => r.2.2.Inv) _ _ hu
    fun r hr i _ => hf _ _ _ hr

theorem State.Inv.copyRead {tile : Nat} {c : Cmd} {fresh : List (Nat × Byte)} {va n : Nat} {l2 : Bool} (h : s.Inv) :
    (s.copyRead tile c fresh va n l2).2.Inv := by
  unfold State.copyRead
  dsimp only
  exact .unspecBytes (.engineRead h)

theorem State.Inv.copyRun {tile : Nat} {c : Cmd} {src dst n : Nat} {l2 : Bool} (h : s.Inv) :
    (s.copyRun tile c src dst n l2).2.Inv := by
  unfold State.copyRun
  dsimp only
  exact .iteSnd (.unspecBytes (.engineRead h)) (.inParts (.engineRead h) (fun t _ _ h1 => .unspecBytes h1))

theorem State.Inv.gathered {tile : Nat} {c : Cmd} {fresh : List (Nat × Byte)} {z iz e : Nat} (h : s.Inv) :
    (s.gathered tile c fresh z iz e).2.Inv := by
  unfold State.gathered
  dsimp only
  split
  · exact .copyRead h
  · exact .iteSnd (.copyRead (.copyRead h)) (.copyRead h)

theorem State.Inv.packetData {tile core : Nat} {c : Cmd} {p : Nat} (h : s.Inv) : (s.packetData tile core c p).2.2.2.Inv := by
  unfold State.packetData
  split
  · dsimp only
    exact .copyRun h
  · dsimp only
    exact h
  · dsimp only
    exact .inParts h fun t _ _ h1 => .gathered h1
  · dsimp only
    split
    · exact .copyRead h
    · split
      · exact .copyRun (.copyRead h)
      · exact .copyRead h
  · dsimp only
    exact h
  · exact h

theorem State.Inv.modCmd {tile core id : Nat} {f : Cmd → Cmd} (h : s.Inv) : (s.modCmd tile core id f).Inv := by
  unfold State.modCmd
  exact .modCore h

theorem State.Inv.doPacket {tile core id p : Nat} {posts : Bool} (h : s.Inv) : (s.doPacket tile core id p posts).Inv := by
  unfold State.doPacket
  split
  · exact h
  · refine .ite h ?_
    dsimp only
    exact .modCmd (.iteFst (.enginePosts (.packetData h)) (.engineWrite (.packetData h)))

theorem State.Inv.doPackets {tile core id n : Nat} {open_ : Bool} (h : s.Inv) : (s.doPackets tile core id open_ n).Inv := by
  induction n generalizing s with
  | zero => exact h
  | succ n ih =>
    unfold State.doPackets
    split
    · exact h
    · split
      · exact h
      · exact .doPacket h
      · exact .ite (ih (.doPacket (.draw h))) (ih (.doPacket h))

theorem State.Inv.joinRound {c : Cmd} (h : s.Inv) : (s.joinRound c).Inv := .ite h (.setGroup h)

theorem State.Inv.setRound {c : Cmd} {r : Round} (h : s.Inv) : (s.setRound c r).Inv := .setGroup h

theorem State.Inv.exchangeRead {tile core : Nat} {c : Cmd} (h : s.Inv) : (s.exchangeRead tile core c).2.Inv := by
  unfold State.exchangeRead
  dsimp only
  split
  · exact h
  · exact .ite h (.drawn h)

theorem State.Inv.sendSum {tile : Nat} {c : Cmd} {round dest : Nat} {m : Message} (h : s.Inv) :
    (s.sendSum tile c round dest m).Inv := .send (.foldl h (fun _ _ h1 => .send h1))

theorem State.Inv.exchange {tile core : Nat} {c : Cmd} (h : s.Inv) : (s.exchange tile core c).1.Inv := by
  unfold State.exchange
  extract_lets g sh errs note
  have hnote (u : State) (hu : u.Inv) : (note u).Inv := .ite (.modCmd hu) hu
  clear_value note
  split
  · exact h
  · split
    · exact h
    · extract_lets before waits following send
      have hsend (u : State) (m : Message) (hu : u.Inv) : (send u m).Inv := by
        dsimp only [send]
        clear_value following
        cases following with
        | none => exact .setRound hu
        | some d => exact .sendSum (.setRound hu)
      clear_value send following
      split
      · refine .iteFst (hsend _ _ h) ?_
        cases following with
        | none =>
          dsimp only
          exact .modCore (hnote _ (hsend _ _ (.exchangeRead h)))
        | some d => exact hnote _ (hsend _ _ (.exchangeRead h))
      · refine .iteFst h ?_
        cases following with
        | none => exact hsend _ _ h
        | some d => exact hnote _ (hsend _ _ (.exchangeRead h))

theorem State.Inv.startCmd {tile core : Nat} {c : Cmd} (h : s.Inv) : (s.startCmd tile core c).Inv := by
  unfold State.startCmd
  split
  · split
    · split
      · exact .joinRound (.modCmd (.foldl (.foldl (.modFut h) (fun t _ h1 => .engineSettle h1)) (fun t _ h1 => .berthMove h1)))
      · exact .fetchOperands (.modCmd (.foldl (.foldl (.modFut h) (fun t _ h1 => .engineSettle h1)) (fun t _ h1 =>
        .berthMove h1)))
    · split
      · exact .joinRound (.modCmd (.foldl (.modFut h) (fun t _ h1 => .berthMove h1)))
      · exact .fetchOperands (.modCmd (.foldl (.modFut h) (fun t _ h1 => .berthMove h1)))
  · split
    · split
      · exact .joinRound (.modCmd (.foldl (.foldl h (fun t _ h1 => .engineSettle h1)) (fun t _ h1 => .berthMove h1)))
      · exact .fetchOperands (.modCmd (.foldl (.foldl h (fun t _ h1 => .engineSettle h1)) (fun t _ h1 => .berthMove h1)))
    · split
      · exact .joinRound (.modCmd (.foldl h (fun t _ h1 => .berthMove h1)))
      · exact .fetchOperands (.modCmd (.foldl h (fun t _ h1 => .berthMove h1)))

theorem State.Inv.startSub {tile core : Nat} {c : Cmd} (h : s.Inv) : (s.startSub tile core c).Inv := by
  unfold State.startSub
  split
  · exact .modCore h
  · dsimp only
    exact .modCore (.draw h)

theorem OptInv.within? {tile : Nat} {t : State} (h : t.Inv) : OptInv (s.within? tile t) := .ite (.some h) .none

theorem Result.Inv.execEngineCommandStart {tile : Nat} {q : EngQ} (h : s.Inv) :
    Result.Inv (Machine.execEngineCommandStart tile q s) := by
  unfold Machine.execEngineCommandStart
  refine .event h (.ite .none ?_)
  split
  · dsimp only
    split
    · exact .none
    · split
      · exact .none
      · exact .within? (.startSub (.startCmd (.modTile h)))
  · dsimp only
    split
    · exact .none
    · split
      · exact .none
      · exact .within? (.startCmd (.modTile h))

theorem State.Inv.leaveBerths {tile core : Nat} {c : Cmd} (h : s.Inv) : (s.leaveBerths tile core c).Inv :=
  .foldl h fun _ _ h1 => .modCore (.berthMove h1)

theorem Result.Inv.execEngineCommandComplete {tile core : Nat} {q : EngQ} (h : s.Inv) :
    Result.Inv (Machine.execEngineCommandComplete tile core q s) := by
  unfold Machine.execEngineCommandComplete
  have hc : State.Inv { s with cur := ⟨tile, core, s.cur.thread⟩ } := .same h rfl rfl rfl rfl
  refine .event h ?_
  dsimp only
  split
  · exact .none
  · next c _ _ =>
    refine .ite (.ite .none (.some (.finishCmd hc))) (.ite .none ?_)
    have hf := State.Inv.flush (f := Pkt.engineOf c.id) hc
    generalize State.flush _ _ = u at hf ⊢
    have hcopy {open_ : Bool} {n : Nat} : (u.doPackets tile core c.id open_ n).Inv := .doPackets hf
    split
    · exact .ite .none (.map fun _ => .finishCmd hcopy)
    · exact .ite .none (.map fun _ => .finishCmd hcopy)
    · exact .ite .none (.map fun _ => .finishCmd hcopy)
    · exact .ite .none (.map fun _ => .finishCmd hcopy)
    · exact .ite .none (.map fun _ => .finishCmd hcopy)
    · exact .some (.finishCmd (.modCore hf))
    · next e =>
      simp only [e]
      exact .ite (.some (.finishCmd (.leaveBerths hf))) (.some (.finishCmd (.leaveBerths (.modCore (.drawn hf)))))
    · next e =>
      simp only [e]
      exact .ite (.some (.finishCmd (.leaveBerths hf))) (.some (.finishCmd (.leaveBerths (.modCore (.drawn hf)))))
    · next e =>
      simp only [e]
      exact .ite (.some (.finishCmd (.leaveBerths hf))) (.some (.finishCmd (.leaveBerths (.modCore hf))))
    · next e =>
      simp only [e]
      exact .ite (.some (.finishCmd (.leaveBerths hf))) (.some (.finishCmd (.leaveBerths (.modCore (.drawn hf)))))
    · have hx : (if c.done.isEmpty then u.exchange tile core c else (u, true)).1.Inv := .iteFst (.exchange hf) hf
      generalize (if c.done.isEmpty then u.exchange tile core c else (u, true)) = x at hx ⊢
      obtain ⟨w, fin⟩ := x
      have hw : State.Inv (if fin then w.modCmd tile core c.id fun x => { x with done := [0] } else w) := .ite (.modCmd hx) hx
      exact .ite .none (.ite (.map fun _ => .finishCmd hw) (.some hw))
    · split
      · exact .ite (.some (.endSub hf)) .none
      · exact .none
    · exact .none

theorem State.Inv.enginePacket {tile core : Nat} (h : s.Inv) : (s.enginePacket tile core).Inv := by
  unfold State.enginePacket
  extract_lets k works run1
  have hr (c : Cmd) : (run1 c).Inv := OptInv.getD (.within? (.doPacket (.draw h))) h
  clear_value run1
  split
  · exact hr _
  · exact hr _
  · exact .ite (hr _) (hr _)
  · exact h

theorem Result.Inv.execTxchgMessageArrival {k : Nat} (h : s.Inv) : Result.Inv (Machine.execTxchgMessageArrival k s) := by
  unfold Machine.execTxchgMessageArrival
  refine .event h ?_
  split
  · exact .none
  · split
    · exact .ite .none (.some (.exchangeHere (.answer (.same h rfl rfl rfl rfl))))
    · exact .none

theorem Result.Inv.execBerthFillStart {tile core : Nat} (h : s.Inv) : Result.Inv (Machine.execBerthFillStart tile core s) := by
  unfold Machine.execBerthFillStart
  refine .event h ?_
  split
  · exact .none
  · exact .ite .none (.some (.modCore (.same (.berthMove h) rfl rfl rfl rfl)))

theorem Result.Inv.execBerthFillComplete {tile core : Nat} (h : s.Inv) :
    Result.Inv (Machine.execBerthFillComplete tile core s) := by
  unfold Machine.execBerthFillComplete
  refine .event h ?_
  split
  · exact .ite (.within? (.fillDone h)) .none
  · exact .none

theorem Result.Inv.execBerthDrain {tile core berth : Nat} (h : s.Inv) :
    Result.Inv (Machine.execBerthDrain tile core berth s) := by
  unfold Machine.execBerthDrain
  refine .event h ?_
  split
  · split
    · refine .ite ?_ (.some (.berthMove h))
      split
      · exact .ite .none (.within? (.pullPanel h))
      · exact .some (.berthMove h)
    · exact .some (.berthMove h)
  · split
    · refine .ite ?_ .none
      split
      · exact .ite .none (.within? (.pullPanel h))
      · exact .some (.berthMove h)
    · exact .none

end Sys2Proof.Machine
end

section
/-! The invariant of a state, kept by the functions of `Sys2Proof/Machine/Time.lean`. -/

namespace Sys2Proof.Machine

variable {s : State}

theorem State.Inv.pass {n : Nat} (h : s.Inv) : (s.pass n).Inv :=
  .countFull ⟨h.mem, h.tasks, h.tiles, State.Inv.keys_map h.vds _⟩

theorem State.Inv.tick (h : s.Inv) : s.tick.Inv := .ite h (.pass (.same h rfl rfl rfl rfl))

theorem State.Inv.settleMessages {n : Nat} (h : s.Inv) : (s.settleMessages n).Inv := by
  induction n generalizing s with
  | zero => exact h
  | succ n ih =>
    have h1 : (s.packets.zipIdx.filter fun x => s.passedBy x.2 x.1).foldl (fun s x => s.countRest x.1) s |>.Inv :=
      .foldl h fun t _ ht => .countRest ht
    exact .ite h (ih (.foldl (.same h1 rfl rfl rfl rfl) fun t _ ht => .messageHere ht))

theorem State.Inv.finish (h : s.Inv) : s.finish.Inv := .tick (.ite (.settleMessages h) h)

theorem Result.Inv.tickResult {r : Result} (h : r.Inv) : (Machine.tickResult r).Inv := by
  cases r with
  | next s => exact .next (.finish (h s rfl))
  | fault f => exact .fault
  | refused f => exact .refused

theorem State.Inv.waitTill {till : Nat} (h : s.Inv) : (s.waitTill till).Inv := .ite (.pass h) h

end Sys2Proof.Machine
end

section
/-! The invariant of a state, kept by the functions of `Sys2Proof/Machine/Waits.lean`. -/

namespace Sys2Proof.Machine

variable {s : State}

theorem Result.Inv.execMwait {d a b : GReg} {dw : Bool} {c : Scope} (h : s.Inv) :
    Result.Inv (Machine.execMwait d a b dw c s) := by
  unfold Machine.execMwait
  refine .run h fun x x1 x2 t h1 => .when .trap (fun t1 h2 => .bind (.resolve h2) (fun x3 t2 h3 => ?_)) h1
  dsimp only
  split
  · refine .bind .trap (fun x4 t3 h4 => .bind (.keyOf h4) (fun x5 t4 h5 => .bind (.budget h5) (fun x6 t5 h6 => .bind (.modify
    (.settlePath (.drain h6))) (fun x7 t6 h7 => .bind (.keyOf h7) (fun x8 t7 h8 => .bind (.atomicRead h8) (fun x9 t8 h9 =>
    ?_))))))
    split
    · exact .bind (.modify (.ite (.l2Drop h9) (.l2Demand h9))) (fun _ _ h10 => .bind (.modify (.traffic h10)) (fun _ _ h11 =>
      .when (.parkOn h11) (fun _ h12 => .bind (.modify (.acquire h12)) (fun _ _ h13 => .pure h13)) h11))
    · exact .bind (.modify (.traffic h9)) (fun _ _ h10 => .when (.parkOn h10) (fun _ h11 => .bind (.modify (.acquire h11))
      (fun _ _ h12 => .pure h12)) h10)
  · refine .bind .trap (fun x4 t3 h4 => .bind (.keyOf h4) (fun x5 t4 h5 => .bind (.budget h5) (fun x6 t5 h6 => .bind (.modify
    (.settlePath (.drain h6))) (fun x7 t6 h7 => .bind (.keyOf h7) (fun x8 t7 h8 => .bind (.atomicRead h8) (fun x9 t8 h9 =>
    ?_))))))
    split
    · exact .bind (.modify (.ite (.l2Drop h9) (.l2Demand h9))) (fun _ _ h10 => .bind (.modify (.traffic h10)) (fun _ _ h11 =>
      .when (.parkOn h11) (fun _ h12 => .bind (.modify (.acquire h12)) (fun _ _ h13 => .pure h13)) h11))
    · exact .bind (.modify (.traffic h9)) (fun _ _ h10 => .when (.parkOn h10) (fun _ h11 => .bind (.modify (.acquire h11))
      (fun _ _ h12 => .pure h12)) h10)
  · refine .bind (.keyOf h3) (fun x4 t3 h4 => .bind (.budget h4) (fun x5 t4 h5 => .bind (.modify (.settlePath (.drain h5)))
    (fun x6 t5 h6 => .bind (.keyOf h6) (fun x7 t6 h7 => .bind (.atomicRead h7) (fun x8 t7 h8 => ?_)))))
    split
    · exact .bind (.modify (.ite (.l2Drop h8) (.l2Demand h8))) (fun _ _ h9 => .bind (.modify (.traffic h9)) (fun _ _ h10 =>
      .when (.parkOn h10) (fun _ h11 => .bind (.modify (.acquire h11)) (fun _ _ h12 => .pure h12)) h10))
    · exact .bind (.modify (.traffic h8)) (fun _ _ h9 => .when (.parkOn h9) (fun _ h10 => .bind (.modify (.acquire h10))
      (fun _ _ h11 => .pure h11)) h9)

theorem Result.Inv.execEvwait {d a : GReg} (h : s.Inv) : Result.Inv (Machine.execEvwait d a s) :=
  .run h (fun _ _ _ _ h1 => .when .trap (fun _ h2 => .get_bind (.when (.parkOn h2) (fun _ _ => .bind (.set (.acquire
    (.setPending h2))) (fun _ _ h4 => .pure h4)) h2)) h1)

theorem Result.Inv.execEvsig {a b : GReg} (h : s.Inv) : Result.Inv (Machine.execEvsig a b s) := by
  unfold Machine.execEvsig
  refine .run h fun id t v s hs => .when .trap (fun u hu => .get_bind (.bind ?_ fun _ u hu => ?_)) hs
  · refine .ite (.pure hu) ?_
    split
    · exact .trap
    · exact .when .holdHere (fun u hu => .ite (.pure hu) .trap) hu
  · refine .bind (.modify (.release hu)) fun _ u hu => .ite (.bind (.modify (.send hu)) fun _ u hu => ?_) (.pure hu)
    exact .ite (.get_bind (.when .holdHere (fun _ _ => .bind (.set (.hop hu)) fun _ _ hu => .pure hu) hu)) (.pure hu)

end Sys2Proof.Machine
end

section
/-! The invariant of a state, kept by the functions of `Sys2Proof/Machine/Sched.lean`. -/

namespace Sys2Proof.Machine

variable {s : State}

theorem State.Inv.modeSeen {vd : Nat} {p : Place} (h : s.Inv) : (s.modeSeen vd p).2.Inv := by
  unfold State.modeSeen
  dsimp only
  split
  · exact .draw h
  · exact h

theorem Result.Inv.execDispatch {p : Place} (h : s.Inv) : Result.Inv (Machine.execDispatch p s) := by
  unfold Machine.execDispatch
  refine .event h ?_
  split
  · exact .none
  · refine .ite .none ?_
    dsimp only
    split
    · split
      · exact .some (.startOn (.modeSeen h))
      · exact .map fun _ => .modTask (.startOn (.modeSeen h))
    · exact .map fun _ => .startOn (.modeSeen h)

theorem Result.Inv.execWorkSteal {p : Place} (h : s.Inv) : Result.Inv (Machine.execWorkSteal p s) := by
  unfold Machine.execWorkSteal
  refine .event h ?_
  split
  · exact .none
  · refine .ite .none ?_
    dsimp only
    refine .ite .none ?_
    split
    · exact .none
    · exact .map fun _ => .ite (.startOn (.modTask (.modeSeen h))) (.modTask (.modeSeen h))

theorem Result.Inv.execTimeSliceExpiry {p : Place} (h : s.Inv) : Result.Inv (Machine.execTimeSliceExpiry p s) := by
  unfold Machine.execTimeSliceExpiry
  refine .event h ?_
  split
  · exact .ite .none (.some (.modTask h))
  · exact .none

theorem Result.Inv.execAging {t : Nat} (h : s.Inv) : Result.Inv (Machine.execAging t s) := by
  unfold Machine.execAging
  refine .event h ?_
  split
  · refine .ite ?_ .none
    split
    · exact .some (.modFut (.modTask h))
    · exact .some (.modTask h)
  · exact .none

theorem Result.Inv.execDispatchCountHalving {cluster : Nat} (h : s.Inv) : Result.Inv (Machine.execDispatchCountHalving cluster s) :=
  .event h (.ite .none (.some (.vdsMapped (.modCluster h))))

theorem State.Inv.freeCells {base n : Nat} (h : s.Inv) : (s.freeCells base n).2.Inv := .same h rfl rfl rfl rfl

theorem State.Inv.takeCmds {id : Nat} {cmds : List (EngQ × Cmd)} (h : s.Inv) : (s.takeCmds id cmds).Inv :=
  .ite (.flush (.removeCmds h)) (.mapCmds (.flush (.removeCmds h)))

theorem State.Inv.quiesce {id : Nat} {p : Place} (h : s.Inv) : (s.quiesce id p).Inv := by
  unfold State.quiesce
  split
  · exact h
  · exact .ite (.setTask h) (.release (.modTask (.modTile (.modCore (.takeCmds h)))))

theorem State.Inv.saveAway {id tile core : Nat} (h : s.Inv) : (s.saveAway id tile core).Inv := by
  unfold State.saveAway
  split
  · exact h
  · refine .modTask (.ite (.freePartition (.ite (.modCore ?_) ?_)) (.ite (.modCore ?_) ?_))
    · split
      · refine .wakeWhere (.modCore ?_)
        split
        · split
          · exact .moveMarks (.moveMarks h)
          · exact h
        · exact h
      · split
        · split
          · exact .moveMarks (.moveMarks h)
          · exact h
        · exact h
    · split
      · refine .wakeWhere (.modCore ?_)
        split
        · split
          · exact .moveMarks (.moveMarks h)
          · exact h
        · exact h
      · split
        · split
          · exact .moveMarks (.moveMarks h)
          · exact h
        · exact h
    · split
      · refine .wakeWhere (.modCore ?_)
        split
        · split
          · exact .moveMarks (.moveMarks h)
          · exact h
        · exact h
      · split
        · split
          · exact .moveMarks (.moveMarks h)
          · exact h
        · exact h
    · split
      · refine .wakeWhere (.modCore ?_)
        split
        · split
          · exact .moveMarks (.moveMarks h)
          · exact h
        · exact h
      · split
        · split
          · exact .moveMarks (.moveMarks h)
          · exact h
        · exact h

theorem State.Inv.writeContext {id : Nat} {preempted : Bool} (h : s.Inv) : (s.writeContext id preempted).Inv := by
  unfold State.writeContext
  split
  · exact h
  · dsimp only
    refine .replaceRange (.iteSnd (.freeCells (.freeCells (.saveCtx h))) ?_)
    dsimp only
    exact .freeCells (.saveCtx h)

theorem State.Inv.saveParked {id : Nat} (h : s.Inv) : (s.saveParked id).Inv := by
  unfold State.saveParked
  split
  · exact h
  · exact .writeContext (.modTask (.saveAway (.release h)))

theorem Result.Inv.execPreemption {w : Nat} (h : s.Inv) : Result.Inv (Machine.execPreemption w s) := by
  unfold Machine.execPreemption
  refine .event h ?_
  split
  · exact .none
  · refine .ite .none (.ite .none (.ite .none ?_))
    dsimp only
    split
    · exact .none
    · exact .some (.modTask (.quiesce h))

theorem Result.Inv.execSaveTransferComplete {t : Nat} (h : s.Inv) : Result.Inv (Machine.execSaveTransferComplete t s) := by
  unfold Machine.execSaveTransferComplete
  refine .event h ?_
  split
  · exact .none
  · split
    · exact .ite (.some (.setTask h)) (.ite .none (.some (.makeReady (.modTask (.writeContext (.saveAway (.release h)))))))
    · exact .none

theorem State.Inv.gangStart {vd : Nat} {g : GangWait} {gid : Nat} {l : List (Nat × Nat × Place)} (h : s.Inv) :
    (s.gangStart vd g gid l).Inv := by
  unfold State.gangStart
  refine .foldl h fun t x h1 => ?_
  dsimp only
  exact .startOn (.setGroup (.addTask h1))

theorem Result.Inv.execGangPlacement {vd : Nat} (h : s.Inv) : Result.Inv (Machine.execGangPlacement vd s) := by
  unfold Machine.execGangPlacement
  refine .event h ?_
  split
  · exact .none
  · refine .ite .none ?_
    split
    · exact .some (.gangStart (.modFut (.modVd h)))
    · exact .none

theorem Result.Inv.execDoomedFlagDelivery {t : Nat} (h : s.Inv) : Result.Inv (Machine.execDoomedFlagDelivery t s) := by
  unfold Machine.execDoomedFlagDelivery
  refine .event h ?_
  split
  · exact .none
  · refine .ite .none ?_
    split
    · exact .ite .none (.some (.setTask h))
    · exact .some (.setTask h)
    · exact .some (.setTask h)
    · exact .some (.setTask h)
    · exact .none
    · exact .none

theorem State.Inv.settleStopped {id : Nat} {t : Task} (h : s.Inv) : (s.settleStopped id t).Inv := .release (.modTile h)

theorem State.Inv.quietDown {id : Nat} {t : Task} (h : s.Inv) : (s.quietDown id t).Inv := by
  unfold State.quietDown
  exact .modTask (.endSubs (.muteSubs (.dropPopper (.departAll (.removeCmds (.settleStopped h))))))

theorem State.Inv.tearDown {id : Nat} (h : s.Inv) : (s.tearDown id).Inv := by
  unfold State.tearDown
  split
  · exact h
  · exact .modTask (.endSubs (.dropPopper (.freeLeases (.departAll (.dropReachers (.dropHandles (.dropCmds
    (.settleStopped h))))))))

theorem State.Inv.reclaimed {id : Nat} (h : s.Inv) : (s.reclaimed id).Inv := by
  unfold State.reclaimed
  split
  · exact h
  · split
    · exact .ite (.closeFut (.taskCut (.freePartitions h))) (.ite (.closeFut (.complete (.taskCut (.freePartitions h))))
        (.freeFut (.taskCut (.freePartitions h))))
    · exact .joinEnd (.taskCut (.freePartitions h))
    · exact .joinEnd (.taskCut (.freePartitions h))

theorem Result.Inv.execReclaim {t : Nat} (h : s.Inv) : Result.Inv (Machine.execReclaim t s) := by
  unfold Machine.execReclaim
  refine .event h ?_
  split
  · exact .none
  · split
    · exact .ite .none (.ite (.ite .none (.some (.quietDown h))) (.ite (.ite .none (.some (.ite h (.tearDown h)))) (.some
      (.reclaimed (.ite h (.tearDown h))))))
    · exact .none

theorem Result.Inv.execBarrierFire {vd group : Nat} (h : s.Inv) : Result.Inv (Machine.execBarrierFire vd group s) :=
  .event h (.ite (.some (.fire h)) .none)

theorem Result.Inv.execXputLanding {k : Nat} (h : s.Inv) : Result.Inv (Machine.execXputLanding k s) := by
  unfold Machine.execXputLanding
  refine .event h ?_
  split
  · exact .none
  · split
    · exact .ite .none (.some (.answer (.land (.same h rfl rfl rfl rfl))))
    · exact .none

theorem Result.Inv.execEventArrival {k : Nat} (h : s.Inv) : Result.Inv (Machine.execEventArrival k s) := by
  unfold Machine.execEventArrival
  refine .event h ?_
  split
  · exact .none
  · split
    · exact .ite .none (.some (.messageHere (.same h rfl rfl rfl rfl)))
    · exact .none

theorem State.Inv.acceptedFor {vd : Nat} {hd : Word32} {n0 : Pusher} (h : s.Inv) : (s.acceptedFor vd hd n0).Inv := by
  unfold State.acceptedFor
  split
  · split
    · exact .pushSettled h
    · exact h
  · exact .answerHere h
  · exact .same h rfl rfl rfl rfl
  · exact h

theorem Result.Inv.execHeldPushAccept {vd lid slot : Nat} (h : s.Inv) :
    Result.Inv (Machine.execHeldPushAccept vd lid slot s) := by
  unfold Machine.execHeldPushAccept
  refine .event h ?_
  split
  · exact .none
  · split
    · exact .none
    · refine .ite .none (.ite .none (.ite (.some (.wakeEvent h)) ?_))
      split
      · exact .some (.acceptedFor (.hand (.setQueue (.wakeEvent h))))
      · exact .some (.acceptedFor (.setQueue (.wakeEvent h)))

theorem OptInv.takeEnqueue {k : Nat} {p : Pkt} {delivered : Bool} (h : s.Inv) : OptInv (s.takeEnqueue k p delivered) := by
  unfold State.takeEnqueue
  split
  · exact .some (.ite (.messageHere (.same h rfl rfl rfl rfl)) (.answerEnqueue (.same h rfl rfl rfl rfl)))
  · exact .none

theorem Result.Inv.execEnqueueReply {k : Nat} {delivered : Bool} (h : s.Inv) :
    Result.Inv (Machine.execEnqueueReply k delivered s) := by
  unfold Machine.execEnqueueReply
  refine .event h ?_
  split
  · exact .none
  · split
    · exact .ite .none (.takeEnqueue h)
    · exact .none

theorem Result.Inv.execRemoteEnqueueArrival {src : BitVec 16} {vd : Nat} {handle : BitVec 32} {value : BitVec 64} (h : s.Inv) :
    Result.Inv (Machine.execRemoteEnqueueArrival src vd handle value s) := by
  unfold Machine.execRemoteEnqueueArrival
  refine .event h (.ite (.some (.responded h)) (.ite .none ?_))
  split <;> rename_i e
  · exact .some (.responded ((State.Inv.holdFor h).1 _ e))
  · have hs := (State.Inv.holdFor h).2 _ e
    split
    · exact .some (.responded hs)
    · exact .some (.responded (.push hs))

theorem Result.Inv.execFaultRecordDeferred {t : Nat} (h : s.Inv) : Result.Inv (Machine.execFaultRecordDeferred t s) := by
  unfold Machine.execFaultRecordDeferred
  refine .event h ?_
  split
  · exact .none
  · split
    · refine .mapOf fun x e => ?_
      obtain ⟨n, r, u⟩ := x
      have hu : u.Inv := .faultRecord h e
      refine .ite (.makeReady (.modTask hu)) ?_
      dsimp only
      split
      · exact .makeReady (.modTask hu)
      · exact .modTask hu
    · exact .none

end Sys2Proof.Machine
end

section
/-! The invariant of a state, kept by the functions of `Sys2Proof/Machine/Census.lean`. -/

namespace Sys2Proof.Machine

variable {s : State}

theorem State.Inv.sample {vd : Nat} (h : s.Inv) : (s.sample vd).Inv := .modVd h

theorem Result.Inv.execCensusSample (h : s.Inv) : Result.Inv (Machine.execCensusSample s) :=
  .event h (.ite .none (.some (.foldl (.same h rfl rfl rfl rfl) (fun _ _ h1 => .ite (.sample h1) h1))))

theorem State.Inv.backingRoom {vd : Nat} (h : s.Inv) : (s.backingRoom vd).2.Inv := by
  unfold State.backingRoom
  dsimp only
  exact .draw h

theorem State.Inv.pickTile {vd role : Nat} {leaving : Bool} (h : s.Inv) : (s.pickTile vd role leaving).2.Inv := by
  unfold State.pickTile
  dsimp only
  split
  · exact h
  · split
    · exact h
    · split <;> rename_i e <;> have hb := State.Inv.snd e (.backingRoom h)
      · exact hb
      · exact .iteSnd hb hb

theorem State.Inv.castLid {vd role : Nat} (h : s.Inv) : (s.castLid vd role).2.Inv := by
  unfold State.castLid
  dsimp only
  split
  · exact h
  · split
    · exact .draw h
    · exact h

theorem State.Inv.decide {vd : Nat} {d : Decision} (h : s.Inv) : (s.decide vd d).Inv := .modVd h

theorem State.Inv.takeFor {vd role n : Nat} (h : s.Inv) : (s.takeFor vd role n).2.Inv := by
  induction n generalizing s with
  | zero => exact h
  | succ n ih =>
    unfold State.takeFor
    split
    · exact h
    · split
      · next e => exact ih (.decide (.snd e (.castLid h)))
      · exact h

theorem State.Inv.recastFor {vd role n : Nat} {gs : List Gauge} (h : s.Inv) : (s.recastFor vd role gs n).Inv := by
  induction n generalizing s with
  | zero => exact h
  | succ n ih =>
    refine .ite h ?_
    split
    · exact h
    · split <;> rename_i e <;> have hp := State.Inv.snd e (.pickTile h)
      · exact ih (.decide hp)
      · exact hp

theorem State.Inv.giveBack {vd n : Nat} {gs : List Gauge} (h : s.Inv) : (s.giveBack vd gs n).Inv := by
  induction n generalizing s with
  | zero => exact h
  | succ n ih =>
    refine .ite h ?_
    split
    · exact h
    · split <;> rename_i e <;> have hp := State.Inv.snd e (.pickTile h)
      · exact ih (.decide hp)
      · exact hp

theorem State.Inv.decisionsOf {vd : Nat} (h : s.Inv) : (s.decisionsOf vd).Inv := by
  unfold State.decisionsOf
  dsimp only
  exact .giveBack (.foldl (List.foldlRecOn (motive := fun r : List (Gauge × Nat) × State => r.2.Inv) _ _ h
    fun _ hr _ _ => .takeFor hr) fun _ _ ht => .recastFor ht)

theorem State.Inv.degrade {n : Nat} (h : s.Inv) : (s.degrade n).Inv := by
  induction n generalizing s with
  | zero => exact h
  | succ n ih =>
    refine .ite h ?_
    split
    · exact ih (.modVd h)
    · exact h

theorem State.Inv.retire {n : Nat} (h : s.Inv) : (s.retire n).Inv := by
  unfold State.retire
  refine .degrade (.foldl (.setTile ⟨Memory.wf_clear h.mem _ _, h.tasks, h.tiles, h.vds⟩) (fun t x h1 => .ite ?_ h1))
  split
  · exact .modVd h1
  · exact .modVd h1

theorem State.Inv.retarget {n : Nat} (h : s.Inv) : (s.retarget n).Inv :=
  .foldl h fun _ _ h1 => .foldl h1 fun _ _ h2 => .ite (.modEntry h2) h2

theorem State.Inv.retirePool {n : Nat} (h : s.Inv) : (s.retirePool n).Inv := .retarget (.retire h)

theorem Result.Inv.execCensusEpoch (h : s.Inv) : Result.Inv (Machine.execCensusEpoch s) :=
  .event h (.ite .none (.some (.foldl (.foldl ⟨h.mem, h.tasks, h.tiles, State.Inv.keys_map h.vds _⟩ (fun _ _ h1 => .ite
    (.retirePool h1) h1)) (fun _ _ h1 => .modVd (.ite h1 (.decisionsOf (.foldl (.modVd h1) (fun _ _ h2 => .decide h2))))))))

theorem State.Inv.roleLine {vd : Nat} (h : s.Inv) : (s.roleLine vd).Inv := .foldl h fun _ _ h1 => .send h1

theorem State.Inv.issue {vd : Nat} {d : Decision} (h : s.Inv) : (s.issue vd d).Inv :=
  .roleLine (.noticeReservedPut (.modEntry (.modVd h)))

theorem State.Inv.issueRetirement {vd lid : Nat} (h : s.Inv) : (s.issueRetirement vd lid).Inv :=
  .ite (.roleLine (.noticePut (.ite (.modVd (.modEntry (.ite (.modVd h) h))) (.modEntry (.ite (.modVd h) h))))) (.modVd
    (.ite (.modVd (.modEntry (.ite (.modVd h) h))) (.modEntry (.ite (.modVd h) h))))

theorem Result.Inv.execNotice {vd : Nat} (h : s.Inv) : Result.Inv (Machine.execNotice vd s) := by
  unfold Machine.execNotice
  refine .event h (.ite .none ?_)
  split
  · exact .none
  · exact .ite (.ite (.some (.issueRetirement (.modVd h))) (.some (.modVd h))) (.ite (.some (.issue (.modVd h))) (.some
    (.modVd h)))

theorem Result.Inv.execNoticeRecordDeferred {vd : Nat} (h : s.Inv) : Result.Inv (Machine.execNoticeRecordDeferred vd s) := by
  unfold Machine.execNoticeRecordDeferred
  refine .event h ?_
  dsimp only
  split
  · exact .none
  · exact .ite .none (.some (.ite (.roleLine (.noticePut (.modVd h))) (.noticePut (.modVd h))))

end Sys2Proof.Machine
end

section
/-! The invariant of a state, kept by the functions of `Sys2Proof/Machine/Moves.lean`. -/

namespace Sys2Proof.Machine

variable {s : State}

theorem Result.Inv.execTideDrain (h : s.Inv) : Result.Inv (Machine.execTideDrain s) :=
  .event h (.ite .none (.some (.endDrains (.same h rfl rfl rfl rfl))))

theorem Result.Inv.execInjectionStarvation {stop dir : Nat} (h : s.Inv) :
    Result.Inv (Machine.execInjectionStarvation stop dir s) := .event h (.map (fun _ => .same h rfl rfl rfl rfl))

theorem State.Inv.castTile {n : Nat} {owner : Option (Nat × Nat)} {role : Nat} (h : s.Inv) : (s.castTile n owner role).Inv :=
  .setTile ⟨Memory.wf_clear h.mem _ _, h.tasks, h.tiles, h.vds⟩

theorem State.Inv.toPool {n : Nat} (h : s.Inv) : (s.toPool n).Inv := .castTile h

theorem State.Inv.moveRange {old new len : Nat} (h : s.Inv) : (s.moveRange old new len).Inv :=
  .ite h (.moveMarks ⟨Memory.wf_replace (Memory.wf_clear h.mem _ _) _ _ _, h.tasks, h.tiles, h.vds⟩)

theorem State.Inv.quiesceParked {id n : Nat} (h : s.Inv) : (s.quiesceParked id n).Inv := by
  unfold State.quiesceParked
  split
  · exact h
  · exact .release (.ite h (.modTask (.takeCmds h)))

theorem State.Inv.rearm {id : Nat} (h : s.Inv) : (s.rearm id).Inv := by
  unfold State.rearm
  split
  · exact h
  · split
    · exact .ite (.makeReady h) h
    · exact h

theorem State.Inv.leaveTile {vd n : Nat} (h : s.Inv) : (s.leaveTile vd n).Inv := by
  unfold State.leaveTile
  refine .foldl h fun t x h1 => ?_
  split
  · exact h1
  · refine .ite h1 ?_
    split
    · exact .ite (.quiesce h1) h1
    · exact .ite (.release h1) h1
    · exact .ite (.release h1) h1
    · exact .ite (.quiesceParked h1) (.ite (.rearm (.modTask (.release h1))) h1)

theorem State.Inv.saveOff {vd n : Nat} (h : s.Inv) : (s.saveOff vd n).Inv := by
  unfold State.saveOff
  refine .foldl h fun t x h1 => ?_
  split
  · exact h1
  · exact .ite (.rearm (.saveParked h1)) h1

theorem State.Inv.landAt {vd lid : Nat} (h : s.Inv) : (s.landAt vd lid).Inv := .flush h

theorem State.Inv.newHome {vd lid boundary : Nat} (h : s.Inv) : (s.newHome vd lid boundary).Inv := by
  unfold State.newHome
  split
  · dsimp only
    split
    · exact .modEntry (.castTile h)
    · exact .modEntry (.modEntry h)
  · dsimp only
    split
    · exact .modEntry (.castTile h)
    · exact h

theorem State.Inv.relight {vd lid : Nat} (h : s.Inv) : (s.relight vd lid).Inv := by
  unfold State.relight
  dsimp only
  split
  · split
    · exact .endRecord (.modEntry h)
    · exact .modEntry h
  · refine .migrateEvents ?_
    split
    · exact .endRecord (.modEntry (.castTile h))
    · exact .modEntry (.castTile h)

theorem State.Inv.beginMove {vd lid boundary : Nat} (h : s.Inv) : (s.beginMove vd lid boundary).Inv :=
  .ite (.relight h) (.ite (.leaveTile (.landAt (.modEntry h))) (.ite (.newHome (.modEntry h)) (.modEntry h)))

theorem Result.Inv.execTideDrainEnd (h : s.Inv) : Result.Inv (Machine.execTideDrainEnd s) :=
  .event h (.ite .none (.some (.foldl (.same h rfl rfl rfl rfl) (fun _ _ h1 => .beginMove h1))))

theorem State.Inv.finishMove {vd lid : Nat} {e' : Entry} {newlid newphys oldphys : Option Nat} {said : Nat} (h : s.Inv) :
    (s.finishMove vd lid e' newlid newphys oldphys said).Inv := by
  unfold State.finishMove
  refine .migrateEvents ?_
  split
  · exact .endRecord (.modVd h)
  · exact .modVd h

theorem State.Inv.giveLid {vd n role : Nat} (h : s.Inv) : (s.giveLid vd n role).2.Inv := by
  unfold State.giveLid
  split
  · exact .toPool h
  · split
    · exact .toPool h
    · dsimp only
      exact .modEntry (.castTile h)

theorem State.Inv.completeInPlace {vd lid : Nat} (h : s.Inv) : (s.completeInPlace vd lid).Inv := by
  unfold State.completeInPlace
  refine .ite (.finishMove h) (.ite ?_ (.ite (.finishMove (.toPool h)) (.finishMove (.castTile h))))
  split
  · split
    · dsimp only
      split
      · exact .finishMove (.retire (.castTile h))
      · exact .finishMove (.retire h)
    · dsimp only
      split
      · exact .finishMove (.retire (.castTile h))
      · exact .finishMove (.retire h)
  · split
    · dsimp only
      exact .finishMove (.retire h)
    · dsimp only
      exact .finishMove (.retire h)

theorem State.Inv.completeStorage {vd lid : Nat} (h : s.Inv) : (s.completeStorage vd lid).Inv := by
  unfold State.completeStorage
  dsimp only
  refine .finishMove (.iteSnd (.retire ?_) (.giveLid ?_))
  · split
    · exact .modTile (.moveRange (.castTile h))
    · exact .moveRange h
  · split
    · exact .modTile (.moveRange (.castTile h))
    · exact .moveRange h

theorem State.Inv.completeCast {vd lid n : Nat} (h : s.Inv) : (s.completeCast vd lid n).Inv :=
  .finishMove (.ite (.modTile (.moveRange (.castTile h))) (.castTile h))

theorem Result.Inv.execRoleMoveComplete {vd lid : Nat} (h : s.Inv) : Result.Inv (Machine.execRoleMoveComplete vd lid s) := by
  unfold Machine.execRoleMoveComplete
  refine .event h (.ite .none (.ite (.ite (.some (.completeInPlace (.saveOff h))) .none) (.ite (.ite (.some
    (.completeInPlace h)) .none) (.ite (.ite .none (.some (.completeStorage ?_))) ?_))))
  · split
    · exact .ite (.saveOff h) h
    · exact h
  · split
    · exact .some (.completeCast h)
    · exact .some (.finishMove h)

theorem Result.Inv.execForward {k : Nat} (h : s.Inv) : Result.Inv (Machine.execForward k s) := by
  unfold Machine.execForward
  refine .event h ?_
  split
  · exact .none
  · refine .ite .none ?_
    split
    · exact .some (.answer (.deliver (.same h rfl rfl rfl rfl)))
    · exact .some (.answer (.deliver (.same h rfl rfl rfl rfl)))
    · exact .some (.answer (.deliver (.same h rfl rfl rfl rfl)))
    · exact .some (.answer (.same h rfl rfl rfl rfl))
    · exact .takeEnqueue h
    · exact .some (.deliver (.same h rfl rfl rfl rfl))

theorem Result.Inv.execTileFailingMark {tile : Nat} (h : s.Inv) : Result.Inv (Machine.execTileFailingMark tile s) :=
  .event h (.ite .none (.some (.modTile h)))

theorem State.Inv.loseParked {id n : Nat} (h : s.Inv) : (s.loseParked id n).Inv := by
  unfold State.loseParked
  split
  · exact h
  · next t _ =>
    extract_lets owned sv u
    have hr : u.Inv := .release h
    clear_value u
    split
    · next w _ => exact .ite (.modTask (.drawn (.freeCells (base := 0) (n := 2 * w.size) hr))) hr
    · exact .ite (.modTask (.drawn hr)) (.ite (.modTask hr) hr)

theorem State.Inv.failTasks {vd n : Nat} (h : s.Inv) : (s.failTasks vd n).Inv := by
  unfold State.failTasks
  refine .foldl (.foldl (.foldl (.foldl h (fun _ _ h1 => .modCore h1)) (fun t _ h1 => .settleSub h1)) (fun _ _ h1 =>
    .finishCmd h1)) (fun t x h1 => ?_)
  split
  · exact h1
  · refine .ite h1 ?_
    split
    · exact .ite h1 (.ite (.modTask (.quietDown h1)) (.endTask h1))
    · exact .ite h1 (.ite (.modTask (.quietDown h1)) (.endTask h1))
    · exact .ite h1 (.ite (.ite h1 (.quietDown h1)) (.reclaimed (.ite h1 (.tearDown h1))))
    · exact .loseParked h1

theorem State.Inv.rehome {vd lid : Nat} (h : s.Inv) : (s.rehome vd lid).Inv := by
  unfold State.rehome
  refine .ite (.modEntry h) ?_
  split
  · exact .ite (.saveOff h) h
  · exact h

theorem Result.Inv.execTileFailure {tile : Nat} (h : s.Inv) : Result.Inv (Machine.execTileFailure tile s) := by
  unfold Machine.execTileFailure
  refine .event h (.ite .none ?_)
  split
  · exact .some (.retirePool h)
  · refine .ite (.some (.retirePool h)) (.ite (.some (.retarget ?_)) ?_)
    · have hc {w : State} (hw : w.Inv) : (if (w.tile tile).retired then w else w.retire tile).Inv := .ite hw (.retire hw)
      exact hc (.completeStorage (.ite (.rehome (.modEntry (.erred (.modTile h)))) (.newHome (.modEntry (.erred (.modTile h))))))
    · dsimp only
      split
      · exact .some (.retarget (.finishMove (.retire (.castTile (.ite (.failTasks (.modEntry (.modTile h)))
          (.modEntry (.modTile h)))))))
      · exact .some (.retarget (.finishMove (.retire (.ite (.failTasks (.modEntry (.modTile h))) (.modEntry (.modTile h))))))

end Sys2Proof.Machine
end

section
/-! The invariant of a state, kept by the functions of `Sys2Proof/Machine/System.lean`. -/

namespace Sys2Proof.Machine

variable {s : State}

theorem OptInv.writeSys {id : Nat} {t : Task} {r : Nat} {x : Word} (h : s.Inv) : OptInv (s.writeSys id t r x) := by
  unfold State.writeSys
  split
  · exact .some (.modTask h)
  · exact .some (.modTask h)
  · exact .some (.modTile h)
  · exact .some (.modTask h)
  · exact .some (.modTask h)
  · exact .some (.modTask h)
  · exact .some (.modTask h)
  · exact .some (.modVd h)
  · exact .none

theorem Result.Inv.execSrrd {d : GReg} {r : BitVec 12} (h : s.Inv) : Result.Inv (Machine.execSrrd d r s) := by
  unfold Machine.execSrrd
  refine .run h fun x x1 x2 t h1 => .get_bind ?_
  split
  · exact .pure h1
  · exact .trap

theorem Result.Inv.execSrwr {a : GReg} {r : BitVec 12} (h : s.Inv) : Result.Inv (Machine.execSrwr a r s) := by
  unfold Machine.execSrwr
  refine .run h fun id t v s hs => .get_bind ?_
  split
  · next u e => exact .bind (.set (OptInv.writeSys hs u e)) fun _ u hu => .pure hu
  · exact .trap

theorem Result.Inv.execTrap {c : BitVec 12} (h : s.Inv) : Result.Inv (Machine.execTrap c s) :=
  .run h fun _ _ _ _ _ => .throw trivial

theorem Result.Inv.execBrk {c : BitVec 12} (h : s.Inv) : Result.Inv (Machine.execBrk c s) :=
  .run h fun _ _ _ _ _ => .throw trivial

theorem Result.Inv.execEret (h : s.Inv) : Result.Inv (Machine.execEret s) :=
  .run h fun _ _ _ _ h1 => .get_bind (.throw (.eret h1))

theorem State.Inv.forget {p : TlbEntry → Bool} (h : s.Inv) : (s.forget p).Inv :=
  ⟨h.mem, State.Inv.keys_map h.tasks _, State.Inv.keys_map h.tiles _, h.vds⟩

theorem State.Inv.performWhere {vd : Nat} {p : Nat → Bool} (h : s.Inv) : (s.performWhere vd p).Inv :=
  .flush (.foldl h (fun _ _ h1 => .ite h1 (.drainN h1)))

theorem KeepsInv.invalidate {id : Nat} {t : Task} {gone : TlbEntry → Bool} {within : Nat → Bool} (h : s.Inv) :
    KeepsInv (Machine.invalidate id t gone within) s := by
  unfold Machine.invalidate
  refine .get_bind ?_
  split
  · exact .when (.throw h) (fun _ _ => .bind (.set (.modTask h)) (fun _ _ h2 => .pure h2)) h
  · exact .ite (.bind (.set (.performWhere (.forget h))) (fun _ _ h1 => .pure h1)) (.throw (.modTask (.performWhere
    (.forget h))))

theorem Result.Inv.execTinv {a : GReg} (h : s.Inv) : Result.Inv (Machine.execTinv a s) :=
  .run h fun _ _ _ _ h1 => .get_bind (.invalidate h1)

theorem Result.Inv.execTinvAll (h : s.Inv) : Result.Inv (Machine.execTinvAll s) := .run h fun _ _ _ _ h1 => .invalidate h1

theorem Result.Inv.execSleep {a : GReg} (h : s.Inv) : Result.Inv (Machine.execSleep a s) :=
  .run h (fun _ _ _ _ h1 => .get_bind (.ite (.pure h1) (.ite (.bind (.set (.modTask h1)) (fun _ _ h2 => .pure h2))
    (.ite (.throw trivial) (.throw (.park (.modTask h1)))))))

end Sys2Proof.Machine
end

section
/-! The invariant of a state, kept by the functions of `Sys2Proof/Machine/Idle.lean`. -/

namespace Sys2Proof.Machine

variable {s : State}

theorem State.Inv.access {a : MemAccess} (h : s.Inv) : (s.access a).Inv := by
  unfold State.access
  extract_lets x bad plain t u
  have ht : t.Inv := .foldl h fun _ _ hu => .ite (.l2Access hu) hu
  have hu : u.Inv := by
    dsimp only [u]
    split
    · exact .write ht
    · exact ht
  clear_value u
  exact .ite (.responded ht) (.responded hu)

theorem State.Inv.outside {a : MemAccess} (h : s.Inv) : (s.outside a).Inv := by
  have hw (l : List Nat) : (l.foldl (fun s v => s.wakeEvent v) s).Inv := .foldl h fun _ _ hu => .wakeEvent hu
  unfold State.outside
  dsimp only
  split
  · split <;> rename_i e
    · exact .responded ((State.Inv.holdFor (hw _)).1 _ e)
    · exact (State.Inv.holdFor (hw _)).2 _ e
  · exact .access (hw _)

theorem State.Inv.mailboxStore {vd : Nat} {value : Word} (h : s.Inv) : (s.mailboxStore vd value).Inv := by
  unfold State.mailboxStore
  refine .ite h ?_
  split
  · exact .ite (.writeDword h) h
  · exact h

theorem State.Inv.wakeWrite {vd : Nat} {value : Word} (h : s.Inv) : (s.wakeWrite vd value).Inv := by
  unfold State.wakeWrite
  split <;> rename_i e
  · exact (State.Inv.holdFor h).1 _ e
  · exact .mailboxStore ((State.Inv.holdFor h).2 _ e)

theorem Result.Inv.execWake {vd : Nat} {value : BitVec 64} (h : s.Inv) : Result.Inv (Machine.execWake vd value s) :=
  .event h (.ite (.some (.wakeWrite (.modVd h))) .none)

theorem Result.Inv.execWaketime {vd : Nat} {value : BitVec 64} (h : s.Inv) : Result.Inv (Machine.execWaketime vd value s) :=
  .event h (.ite .none (.ite (.some (.wakeWrite (.modVd h))) (.some (.modVd h))))

theorem Result.Inv.execWaketimeExpiry {vd : Nat} (h : s.Inv) : Result.Inv (Machine.execWaketimeExpiry vd s) :=
  .event h (.ite (.some (.wakeWrite (.modVd h))) .none)

theorem Result.Inv.execIdlectl {vd : Nat} {value : BitVec 64} (h : s.Inv) : Result.Inv (Machine.execIdlectl vd value s) :=
  .event h (.ite .none (.some (.modVd h)))

theorem Result.Inv.execSleepExpiry {t : Nat} (h : s.Inv) : Result.Inv (Machine.execSleepExpiry t s) := by
  unfold Machine.execSleepExpiry
  refine .event h ?_
  split
  · exact .none
  · split
    · refine .ite .none ?_
      split
      · exact .some (.makeReady h)
      · exact .some (.wakeEvent h)
      · exact .some (.wakeEvent h)
      · exact .none
    · exact .none

theorem Result.Inv.execIdleCollapse {vd : Nat} (h : s.Inv) : Result.Inv (Machine.execIdleCollapse vd s) := by
  unfold Machine.execIdleCollapse
  refine .event h ?_
  dsimp only
  split
  · exact .none
  · refine .ite .none (.some (.foldl (.modVd h) (fun t x h1 => ?_)))
    split
    · exact h1
    · exact .ite h1 (.ite (.withdraw h1) (.endRecord (.modEntry h1)))

theorem State.Inv.copyLine {old new : Nat} (h : s.Inv) : (s.copyLine old new).Inv :=
  ⟨Memory.wf_replace h.mem _ _ _, h.tasks, h.tiles, h.vds⟩

theorem State.Inv.toArea {vd lid tile : Nat} {live : List Nat} (h : s.Inv) : (s.toArea vd lid tile live).Inv :=
  .foldl h fun _ _ h1 => .copyLine h1

theorem State.Inv.fromArea {vd lid place : Nat} {live : List Nat} (h : s.Inv) : (s.fromArea vd lid place live).Inv :=
  .foldl h fun _ _ h1 => .copyLine h1

theorem State.Inv.freezeMap {vd : Nat} (h : s.Inv) : (s.freezeMap vd).Inv := .foldl h fun _ _ ht => .replaced ht

theorem State.Inv.collapseTasks {vd : Nat} (h : s.Inv) : (s.collapseTasks vd).Inv := by
  unfold State.collapseTasks
  refine .foldl h fun t x h1 => ?_
  split
  · exact h1
  · exact .ite h1 (.ite (.saveParked (.release h1)) (.modTask (.release h1)))

theorem State.Inv.collapseEntry {vd lid : Nat} (h : s.Inv) : (s.collapseEntry vd lid).Inv :=
  .ite h (.modEntry (.ite h (.toPool (.ite (.modEntry (.moveArms (.toArea h))) h))))

theorem State.Inv.collapseL2 {vd : Nat} (h : s.Inv) : (s.collapseL2 vd).Inv := .foldl h fun _ _ h1 => .l2Drop h1

theorem State.Inv.copyGroup {old new : Nat} (h : s.Inv) : (s.copyGroup old new).Inv :=
  ⟨Memory.wf_replace h.mem _ _ _, h.tasks, h.tiles, h.vds⟩

theorem State.Inv.groupsDown {vd : Nat} (h : s.Inv) : (s.groupsDown vd).Inv :=
  .foldl h fun _ _ h1 => .same (.ite (.copyGroup h1) h1) rfl rfl rfl rfl

theorem State.Inv.groupsUp {vd : Nat} (h : s.Inv) : (s.groupsUp vd).Inv :=
  .foldl h fun _ _ h1 => .same (.ite (.copyGroup h1) h1) rfl rfl rfl rfl

theorem Result.Inv.execCollapseComplete {vd : Nat} (h : s.Inv) : Result.Inv (Machine.execCollapseComplete vd s) :=
  .event h (.ite .none (.some (.modVd (.groupsDown (.foldl (.collapseL2 (.foldl (.freezeMap (.modVd (.collapseTasks
    (.modVd h)))) (fun _ _ h1 => .collapseEntry h1))) (fun _ _ h1 => .retire h1))))))

theorem State.Inv.restoreEntry {vd lid n : Nat} (h : s.Inv) : (s.restoreEntry vd lid n).Inv := by
  unfold State.restoreEntry
  exact .modEntry (.ite (.modTile (.moveArms (.fromArea (.castTile h)))) (.castTile h))

theorem State.Inv.restoreBacked {vd lid : Nat} (h : s.Inv) : (s.restoreBacked vd lid).Inv := .modEntry (.fromArea h)

theorem State.Inv.wakeEntry {vd lid : Nat} {first : Option Nat} (h : s.Inv) : (s.wakeEntry vd lid first).Inv := by
  unfold State.wakeEntry
  refine .ite h (.ite (.modEntry h) (.ite (.restoreBacked h) (.ite h ?_)))
  split
  · exact .restoreEntry h
  · exact .ite (.restoreBacked h) h

theorem State.Inv.makeHeld {vd : Nat} {n0 : HeldItem} (h : s.Inv) : (s.makeHeld vd n0).Inv := by
  unfold State.makeHeld
  split
  · exact .mailboxStore h
  · exact .outside h
  · exact .enqueue h
  · split
    · exact .same h rfl rfl rfl rfl
    · dsimp only
      exact .same (.push h) rfl rfl rfl rfl
  · exact .arrive h

theorem State.Inv.makeAll {vd : Nat} {l : List HeldItem} (h : s.Inv) : (s.makeAll vd l).Inv := by
  induction l generalizing s with
  | nil => exact h
  | cons x l ih => exact .ite (.responded (ih (.makeHeld h))) (ih (.makeHeld h))

theorem State.Inv.gatherEvents {vd : Nat} (h : s.Inv) : (s.gatherEvents vd).Inv := by
  unfold State.gatherEvents
  split
  · exact h
  · exact .ite h (.setPending (.modVd h))

theorem State.Inv.resume {vd : Nat} (h : s.Inv) : (s.resume vd).Inv := by
  unfold State.resume
  exact .wakeWhere (.migrateEvents (.gatherEvents (.modVd (.foldl (.groupsUp h) (fun t _ h1 => .wakeEntry h1)))))

theorem State.Inv.abort {vd : Nat} (h : s.Inv) : (s.abort vd).Inv := by
  unfold State.abort
  extract_lets step mine s1 s2
  have h1 : s1.Inv := .ite h ⟨h.mem, h.tasks, State.Inv.keys_kept h.tiles fun x => by split <;> rfl, h.vds⟩
  have h2 : s2.Inv := .ite h1 (.collapseL2 h1)
  clear_value s1 s2
  have hg := State.Inv.groupsUp (vd := vd) h2
  exact ⟨hg.mem, hg.tasks, State.Inv.keys_kept h2.tiles fun x => by split <;> rfl, hg.vds⟩

theorem Result.Inv.execWakeComplete {vd : Nat} (h : s.Inv) : Result.Inv (Machine.execWakeComplete vd s) :=
  .event h (.ite .none (.some (.migrateEvents (.modVd (.makeAll (.modVd (.ite (.resume h) (.abort h))))))))

end Sys2Proof.Machine
end

section
/-! The invariant of a state, kept by the functions of `Sys2Proof/Machine/Power.lean`. -/

namespace Sys2Proof.Machine

variable {s : State}

theorem State.Inv.telemetry {l : List Nat} (h : s.Inv) : (s.telemetry l).Inv := .ite (.writeDword h) (.writeDword (.write h))

theorem Result.Inv.execPowerInterval {rs : List SensorReading} (h : s.Inv) : Result.Inv (Machine.execPowerInterval rs s) := by
  unfold Machine.execPowerInterval
  refine .event h (.ite .none ?_)
  extract_lets n clock s1 senses records s2
  have h1 : s1.Inv := .same h rfl rfl rfl rfl
  have h2 : s2.Inv := .foldl h1 fun _ _ ht => .telemetry ht
  exact .some (.same h2 rfl rfl rfl rfl)

theorem Result.Inv.execCurrentSample {die amps : Nat} (h : s.Inv) : Result.Inv (Machine.execCurrentSample die amps s) := by
  unfold Machine.execCurrentSample
  refine .event h ?_
  split
  · extract_lets x lower f s1
    have h1 : s1.Inv := .foldl h fun _ _ ht => .modCluster ht
    clear_value s1
    exact .ite .none (.some (.same h1 rfl rfl rfl rfl))
  · exact .none

theorem OptInv.onCluster {c : Nat} {f : Cluster → Cluster} (h : s.Inv) : OptInv (s.onCluster c f) :=
  .ite (.some (.modCluster h)) .none

theorem Result.Inv.execBudget {cluster : Nat} {value : BitVec 64} (h : s.Inv) :
    Result.Inv (Machine.execBudget cluster value s) := .event h (.onCluster h)

theorem Result.Inv.execPctl {cluster : Nat} {value : BitVec 64} (h : s.Inv) : Result.Inv (Machine.execPctl cluster value s) :=
  .event h (.onCluster h)

theorem Result.Inv.execDieCtl {die : Nat} {value : BitVec 64} (h : s.Inv) : Result.Inv (Machine.execDieCtl die value s) := by
  unfold Machine.execDieCtl
  refine .event h ?_
  split
  · exact .some (.same h rfl rfl rfl rfl)
  · exact .none

theorem Result.Inv.execThrottle {cluster : Nat} {value : BitVec 64} (h : s.Inv) :
    Result.Inv (Machine.execThrottle cluster value s) := .event h (.onCluster h)

theorem Result.Inv.execTeleper {cluster : Nat} {value : BitVec 64} (h : s.Inv) :
    Result.Inv (Machine.execTeleper cluster value s) := .event h (.onCluster h)

theorem Result.Inv.execSensorRecalibration {cluster sensor : Nat} (h : s.Inv) :
    Result.Inv (Machine.execSensorRecalibration cluster sensor s) := .event h (.ite .none (.onCluster h))

theorem Result.Inv.execFreeze (h : s.Inv) : Result.Inv (Machine.execFreeze s) := .next (.same h rfl rfl rfl rfl)

theorem Result.Inv.execUnfreeze (h : s.Inv) : Result.Inv (Machine.execUnfreeze s) := .next (.same h rfl rfl rfl rfl)

end Sys2Proof.Machine
end

section
/-! The invariant of a state, kept by the functions of `Sys2Proof/Machine/Host.lean`. -/

namespace Sys2Proof.Machine

variable {s : State}

theorem State.Inv.semWrite {port sem value : Nat} (h : s.Inv) : (s.semWrite port sem value).Inv :=
  .ite (.ite (.same h rfl rfl rfl rfl) (.ite (.same h rfl rfl rfl rfl) h)) h

theorem Result.Inv.execSemClaim {port sem : Nat} (h : s.Inv) : Result.Inv (Machine.execSemClaim port sem s) :=
  .next (.semWrite h)

theorem Result.Inv.execSemFree {port sem : Nat} (h : s.Inv) : Result.Inv (Machine.execSemFree port sem s) := .next (.semWrite h)

theorem Result.Inv.execHostLinkDown {port : Nat} (h : s.Inv) : Result.Inv (Machine.execHostLinkDown port s) :=
  .next (.same h rfl rfl rfl rfl)

theorem State.Inv.newDevice {r : CmdRecord} {notice fault : List TlbEntry} (h : s.Inv) : (s.newDevice r notice fault).Inv := by
  unfold State.newDevice
  exact .writeDword (.vdAdded h)

theorem State.Inv.create {port : Nat} {r : CmdRecord} (h : s.Inv) : (s.create port r).2.Inv := by
  unfold State.create
  refine .iteSnd h (.iteSnd h (.iteSnd h ?_))
  dsimp only
  split
  · next a b _ _ =>
      have hn : (s.newDevice r a b).Inv := .newDevice h
      refine .iteSnd h (.iteSnd h ?_)
      dsimp only
      exact hn
  · exact h

theorem State.Inv.beginCommand {addr result : Nat} {dying : Option Nat} (h : s.Inv) : (s.beginCommand addr result dying).Inv :=
  .same h rfl rfl rfl rfl

theorem State.Inv.startCreate {port addr : Nat} {r : CmdRecord} (h : s.Inv) : (s.startCreate port addr r).Inv := by
  unfold State.startCreate
  exact .ite (.beginCommand h) (.beginCommand (.create h))

theorem Result.Inv.execCreate {port addr : Nat} {rec : CmdRecord} (h : s.Inv) :
    Result.Inv (Machine.execCreate port addr rec s) := .event h (.ite .none (.some (.startCreate h)))

theorem State.Inv.stopDevice {vd : Nat} (h : s.Inv) : (s.stopDevice vd).Inv :=
  ⟨h.mem, State.Inv.keys_kept h.tasks fun x => by split <;> rfl, h.tiles, h.vds⟩

theorem State.Inv.startDestroy {port addr : Nat} {r : CmdRecord} (h : s.Inv) : (s.startDestroy port addr r).Inv :=
  .ite (.beginCommand h) (.ite (.beginCommand h) (.ite (.beginCommand h) (.beginCommand (.stopDevice (.modVd h)))))

theorem Result.Inv.execDestroy {port addr : Nat} {rec : CmdRecord} (h : s.Inv) :
    Result.Inv (Machine.execDestroy port addr rec s) := .event h (.ite .none (.some (.startDestroy h)))

theorem State.Inv.lastAnswers {vd : Nat} {v : Vd} (h : s.Inv) : (s.lastAnswers vd v).Inv :=
  .ite (.makeAll h) (.same (.makeAll h) rfl rfl rfl rfl)

theorem State.Inv.removeDevice {vd : Nat} (h : s.Inv) : (s.removeDevice vd).Inv := by
  unfold State.removeDevice
  extract_lets v s1 s2 s3
  have h2 : s2.Inv := .foldl (.groupsUp h) fun _ _ ht => .ite (.ite (.retire (.toPool ht)) (.toPool ht)) ht
  have h3 : s3.Inv := ⟨Memory.wf_clear h2.mem _ _, State.Inv.keys_filter h2.tasks _, h2.tiles, nodup_cut h2.vds _⟩
  exact .lastAnswers (.same h3 rfl rfl rfl rfl)

theorem Result.Inv.execCommandDone (h : s.Inv) : Result.Inv (Machine.execCommandDone s) := by
  unfold Machine.execCommandDone
  refine .event h (.ite .none ?_)
  split
  · exact .some (.same h rfl rfl rfl rfl)
  · exact .ite .none (.some (.same (.removeDevice h) rfl rfl rfl rfl))

theorem State.Inv.commandWrite {port : Nat} {value : Word} (h : s.Inv) : (s.commandWrite port value).Inv :=
  .ite h (.ite (.startDestroy h) (.startCreate h))

theorem OptInv.blockWrite {vd off : Nat} {value : Word} (h : s.Inv) : OptInv (s.blockWrite vd off value) := by
  unfold State.blockWrite
  extract_lets take
  have ht {r : Result} (hr : r.Inv) : OptInv (take r) := by
    cases r with
    | next t => exact .some (hr t rfl)
    | fault f => exact .some h
    | refused f => exact .some h
  clear_value take
  exact .ite (ht (.execWake h)) (.ite (ht (.execWaketime h)) (.ite (ht (.execIdlectl h)) (.ite (.some h)
    (.ite (.some (.ite (.modVd h) h)) .none))))

theorem State.Inv.windowWrite {value : Word} {n0 : WindowReg} (h : s.Inv) : (s.windowWrite value n0).Inv := by
  unfold State.windowWrite
  split
  · exact .same h rfl rfl rfl rfl
  · exact .same h rfl rfl rfl rfl
  · exact .modCluster h
  · exact .modCluster h
  · exact .modCluster h
  · exact .modCluster h
  · exact h
  · exact h
  · exact h
  · exact h

theorem OptInv.regionWrite {port offset bytes : Nat} {value : Word} (h : s.Inv) :
    OptInv (s.regionWrite port offset bytes value) :=
  .ite .none (.ite (.some (.semWrite h)) (.ite (.some (.ite (.commandWrite h) h)) (.ite (.some h)
    (.ite (.map fun _ => .windowWrite h) (.bind fun _ => .blockWrite h)))))

theorem Result.Inv.execHostRegionWrite {port offset bytes : Nat} {value : BitVec 64} (h : s.Inv) :
    Result.Inv (Machine.execHostRegionWrite port offset bytes value s) := by
  unfold Machine.execHostRegionWrite
  split
  · next t e => exact .next (.responded (OptInv.regionWrite h t e))
  · exact .next (.responded h)

theorem State.Inv.hostRead {port offset bytes : Nat} (h : s.Inv) : (s.hostRead port offset bytes).Inv := by
  unfold State.hostRead
  split
  · exact .same h rfl rfl rfl rfl
  · exact .same h rfl rfl rfl rfl

theorem State.Inv.peerWrite {offset bytes : Nat} {value : Word} (h : s.Inv) : (s.peerWrite offset bytes value).Inv := by
  have ho : OptInv (if bytes = 8 ∧ offset % 8 = 0 then (blockAt offset).bind fun b => s.blockWrite b.1 b.2 value else none) :=
    .ite (.bind fun _ => .blockWrite h) .none
  unfold State.peerWrite
  split
  · next t e => exact .responded (ho t e)
  · exact .responded h

theorem State.Inv.hostWrites {o0 o1 : Nat} {x0 x1 : Word} (h : s.Inv) : (s.hostWrites o0 x0 o1 x1).Inv := by
  unfold State.hostWrites
  extract_lets one
  have hone {u : State} {port o : Nat} {x : Word} (hu : u.Inv) : (one u port o x).1.Inv := by
    have ho : OptInv (if u.freeze && !Machine.resumes o 8 x then none else u.regionWrite port o 8 x) :=
      .ite .none (.regionWrite hu)
    dsimp only [one]
    split
    · next t e => exact ho t e
    · exact hu
  clear_value one
  dsimp only
  exact .responded (hone (hone h))

theorem State.Inv.readOut {stop : Nat} (h : s.Inv) : (s.readOut stop).Inv := .same h rfl rfl rfl rfl

theorem Result.Inv.execCxlMemAccess {a : MemAccess} (h : s.Inv) : Result.Inv (Machine.execCxlMemAccess a s) :=
  .ite (.next (.same h rfl rfl rfl rfl)) (.next (.outside h))

theorem Result.Inv.execPeerAccessArrival {a : MemAccess} (h : s.Inv) : Result.Inv (Machine.execPeerAccessArrival a s) :=
  .ite (.next (.same h rfl rfl rfl rfl)) (.next (.outside h))

theorem Result.Inv.execHdmDecoderCommit {base : Nat} (h : s.Inv) : Result.Inv (Machine.execHdmDecoderCommit base s) :=
  .next (.same h rfl rfl rfl rfl)

theorem Result.Inv.execPeerLinkTimeout {port : Nat} (h : s.Inv) : Result.Inv (Machine.execPeerLinkTimeout port s) := by
  unfold Machine.execPeerLinkTimeout
  dsimp only
  refine .next (.foldl (.same h rfl rfl rfl rfl) (fun t x h1 => ?_))
  split
  · exact .closeFut (.complete h1)
  · exact h1

theorem Result.Inv.execPseudoChannelRetirement {channel : Nat} (h : s.Inv) :
    Result.Inv (Machine.execPseudoChannelRetirement channel s) := .event h (.ite .none (.some (.same h rfl rfl rfl rfl)))

theorem Result.Inv.execApertureTableWrite {vd i : Nat} {value : BitVec 128} (h : s.Inv) :
    Result.Inv (Machine.execApertureTableWrite vd i value s) := .event h (.ite .none (.some (.modVd h)))

end Sys2Proof.Machine
end

section
/-! The invariant of a state, kept by the functions of `Sys2Proof/Machine/Mask.lean`. -/

namespace Sys2Proof.Machine

variable {s : State}

theorem KeepsInv.setMask {id : Nat} {d : MReg} {x : Word32} (h : s.Inv) : KeepsInv (Machine.setMask id d x) s :=
  .modify (.modTask h)

theorem Result.Inv.maskOp {i : Instr} {d : MReg} {f : Ctx → List Word → Word32} (h : s.Inv) :
    Result.Inv (Machine.maskOp i d f s) := .run h fun _ _ _ _ h1 => .bind (.setMask h1) fun _ _ h2 => .pure h2

theorem Result.Inv.execMset {d : MReg} {a : GReg} (h : s.Inv) : Result.Inv (Machine.execMset d a s) := .maskOp h

theorem Result.Inv.execMand {d a b : MReg} (h : s.Inv) : Result.Inv (Machine.execMand d a b s) := .maskOp h

theorem Result.Inv.execMor {d a b : MReg} (h : s.Inv) : Result.Inv (Machine.execMor d a b s) := .maskOp h

theorem Result.Inv.execMxor {d a b : MReg} (h : s.Inv) : Result.Inv (Machine.execMxor d a b s) := .maskOp h

theorem Result.Inv.execMnot {d a : MReg} (h : s.Inv) : Result.Inv (Machine.execMnot d a s) := .maskOp h

theorem Result.Inv.execMpopc {d : GReg} {a : MReg} (h : s.Inv) : Result.Inv (Machine.execMpopc d a s) :=
  .run h fun _ _ _ _ h1 => .pure h1

theorem Result.Inv.execMfirst {d : GReg} {a : MReg} (h : s.Inv) : Result.Inv (Machine.execMfirst d a s) :=
  .run h fun _ _ _ _ h1 => .pure h1

end Sys2Proof.Machine
end

section
/-! The invariant of a state, kept by the functions of `Sys2Proof/Machine/Snapshots.lean`. -/

namespace Sys2Proof.Machine

variable {s : State}

theorem KeepsInv.regionArg {x : Word} (h : s.Inv) : KeepsInv (Machine.regionArg x) s := .when .trap (fun _ h1 => .pure h1) h

theorem KeepsInv.readRegion {id : Nat} {t : Task} {a : Nat} (h : s.Inv) : KeepsInv (Machine.readRegion id t a) s := by
  unfold Machine.readRegion
  refine .tryCatch (.loadBytes h) fun e he => ?_
  split
  · exact .trap
  · exact .trap
  · exact .throw he

theorem KeepsInv.pinUndo {vd n fin fuel va : Nat} (h : s.Inv) : KeepsInv (Machine.pinUndo vd n fin fuel va) s := by
  induction fuel generalizing s va with
  | zero => exact .pure h
  | succ fuel ih =>
    refine .ite (.pure h) (.get_bind ?_)
    split
    · exact .throw trivial
    · exact .when .trap (fun _ _ => .when (.set (.writeDword h)) (fun u hu => .bind (ih hu) fun _ u hu => .pure hu) ‹_›) h

theorem Result.Inv.execSnapopen {a : GReg} (h : s.Inv) : Result.Inv (Machine.execSnapopen a s) :=
  .run h (fun _ _ _ _ h1 => .bind (.regionArg h1) (fun _ _ h2 => .get_bind (.when .trap (fun _ h3 => .bind (.readRegion h3)
    (fun _ _ h4 => .when .trap (fun _ h5 => .when .trap (fun _ h6 => .bind (.pinUndo h6) (fun _ _ h7 => .bind (.modify
    (.release h7)) (fun _ _ h8 => .bind (.modify (.undoWrite h8)) (fun _ _ h9 => .bind (.modify (.modVd h9)) (fun _ _ h10 =>
    .pure h10))))) h5) h4)) h2)))

theorem State.Inv.closeRegion {vd n : Nat} {r : Region} (h : s.Inv) : (s.closeRegion vd n r).Inv := by
  unfold State.closeRegion
  exact .modVd (.undoWrite h)

theorem Result.Inv.execSnapcommit {a : GReg} (h : s.Inv) : Result.Inv (Machine.execSnapcommit a s) := by
  unfold Machine.execSnapcommit
  refine .run h fun x x1 x2 t h1 => .bind (.regionArg h1) fun x3 t1 h2 => .get_bind ?_
  split
  · exact .pure h2
  · exact .bind (.modify (.closeRegion (.release h2))) fun _ _ h3 => .pure h3

theorem KeepsInv.restoreLine {vd : Nat} {r : Region} {e : Nat} {bound : Word} (h : s.Inv) :
    KeepsInv (Machine.restoreLine vd r e bound) s := by
  unfold Machine.restoreLine
  refine .get_bind (.ite (.pure h) ?_)
  split
  · exact .throw trivial
  · exact .ite (.set (.same h rfl rfl rfl rfl)) (.set (.write h))

theorem KeepsInv.restoreLines {vd : Nat} {r : Region} {bound : Word} {n : Nat} (h : s.Inv) :
    KeepsInv (Machine.restoreLines vd r bound n) s := by
  induction n generalizing s with
  | zero => exact .pure h
  | succ n ih => exact .bind (.restoreLine h) fun _ u hu => ih hu

theorem Result.Inv.execSnaproll {a b : GReg} (h : s.Inv) : Result.Inv (Machine.execSnaproll a b s) := by
  unfold Machine.execSnaproll
  refine .run h fun x x1 x2 t h1 => .bind (.regionArg h1) fun x3 t1 h2 => .get_bind ?_
  split
  · exact .pure h2
  · exact .bind (.modify (.release h2)) (fun _ _ h3 => .get_bind (.bind (.restoreLines h3) (fun _ _ h4 => .bind (.modify
    (.acquire (.closeRegion h4))) (fun _ _ h5 => .pure h5))))

end Sys2Proof.Machine
end

section
/-! The invariant of a state, kept by the functions of `Sys2Proof/Machine/Vector.lean`. -/

namespace Sys2Proof.Machine

variable {s : State}

theorem KeepsInv.enterQueue {i : Instr} {id : Nat} {t : Task} (h : s.Inv) : KeepsInv (Machine.enterQueue i id t) s :=
  .get_bind (.when .holdHere (fun _ _ => .set (.modCore h)) h)

theorem KeepsInv.finish {id : Nat} {flags : Nat} {f : Ctx → Ctx} (h : s.Inv) : KeepsInv (Machine.finish id flags f) s := by
  unfold Machine.finish
  refine .get_bind ?_
  split
  · exact .pure h
  · exact .ite (.throw (.takeTrap (.setTask h))) (.bind (.set (.setTask h)) (fun _ _ h1 => .pure h1))

theorem KeepsInv.lanewise {t : VTy} {d : VReg} {k : MReg} {id : Nat} {tk : Task} {f : Nat → Nat × Nat} (h : s.Inv) :
    KeepsInv (Machine.lanewise t d k id tk f) s := by
  unfold Machine.lanewise
  exact .finish h

theorem KeepsInv.elementwise {i : Instr} {d a b : VReg} {k : MReg} {t : VTy} {f : Rm → Bool → Nat → Nat → Nat → Nat × Nat}
    {id : Nat} {tk : Task} {v : List Word} (h : s.Inv) : KeepsInv (Machine.elementwise i d a b k t f id tk v) s :=
  .bind (.enterQueue h) fun _ _ h1 => .lanewise h1

theorem KeepsInv.vaddBody {d a b : VReg} {k : MReg} {t : VTy} {id : Nat} {tk : Task} {v : List Word} (h : s.Inv) :
    KeepsInv (Machine.vaddBody d a b k t id tk v) s := .elementwise h

theorem KeepsInv.vsubBody {d a b : VReg} {k : MReg} {t : VTy} {id : Nat} {tk : Task} {v : List Word} (h : s.Inv) :
    KeepsInv (Machine.vsubBody d a b k t id tk v) s := .elementwise h

theorem KeepsInv.vmulBody {d a b : VReg} {k : MReg} {t : VTy} {id : Nat} {tk : Task} {v : List Word} (h : s.Inv) :
    KeepsInv (Machine.vmulBody d a b k t id tk v) s := .elementwise h

theorem KeepsInv.vfmaBody {d a b : VReg} {k : MReg} {t : VTy} {id : Nat} {tk : Task} {v : List Word} (h : s.Inv) :
    KeepsInv (Machine.vfmaBody d a b k t id tk v) s := .elementwise h

theorem KeepsInv.vminBody {d a b : VReg} {k : MReg} {t : VTy} {id : Nat} {tk : Task} {v : List Word} (h : s.Inv) :
    KeepsInv (Machine.vminBody d a b k t id tk v) s := .elementwise h

theorem KeepsInv.vmaxBody {d a b : VReg} {k : MReg} {t : VTy} {id : Nat} {tk : Task} {v : List Word} (h : s.Inv) :
    KeepsInv (Machine.vmaxBody d a b k t id tk v) s := .elementwise h

theorem KeepsInv.vabsBody {d a : VReg} {k : MReg} {t : VTy} {id : Nat} {tk : Task} {v : List Word} (h : s.Inv) :
    KeepsInv (Machine.vabsBody d a k t id tk v) s := .elementwise h

theorem KeepsInv.vnegBody {d a : VReg} {k : MReg} {t : VTy} {id : Nat} {tk : Task} {v : List Word} (h : s.Inv) :
    KeepsInv (Machine.vnegBody d a k t id tk v) s := .elementwise h

theorem KeepsInv.vandBody {d a b : VReg} {k : MReg} {t : VTy} {id : Nat} {tk : Task} {v : List Word} (h : s.Inv) :
    KeepsInv (Machine.vandBody d a b k t id tk v) s := .elementwise h

theorem KeepsInv.vorBody {d a b : VReg} {k : MReg} {t : VTy} {id : Nat} {tk : Task} {v : List Word} (h : s.Inv) :
    KeepsInv (Machine.vorBody d a b k t id tk v) s := .elementwise h

theorem KeepsInv.vxorBody {d a b : VReg} {k : MReg} {t : VTy} {id : Nat} {tk : Task} {v : List Word} (h : s.Inv) :
    KeepsInv (Machine.vxorBody d a b k t id tk v) s := .elementwise h

theorem KeepsInv.vshlBody {d a b : VReg} {k : MReg} {t : VTy} {id : Nat} {tk : Task} {v : List Word} (h : s.Inv) :
    KeepsInv (Machine.vshlBody d a b k t id tk v) s := .elementwise h

theorem KeepsInv.vshrBody {d a b : VReg} {k : MReg} {t : VTy} {id : Nat} {tk : Task} {v : List Word} (h : s.Inv) :
    KeepsInv (Machine.vshrBody d a b k t id tk v) s := .elementwise h

theorem KeepsInv.vsraBody {d a b : VReg} {k : MReg} {t : VTy} {id : Nat} {tk : Task} {v : List Word} (h : s.Inv) :
    KeepsInv (Machine.vsraBody d a b k t id tk v) s := .elementwise h

theorem KeepsInv.vaddSatBody {d a b : VReg} {k : MReg} {t : VTy} {id : Nat} {tk : Task} {v : List Word} (h : s.Inv) :
    KeepsInv (Machine.vaddSatBody d a b k t id tk v) s := .elementwise h

theorem KeepsInv.vsubSatBody {d a b : VReg} {k : MReg} {t : VTy} {id : Nat} {tk : Task} {v : List Word} (h : s.Inv) :
    KeepsInv (Machine.vsubSatBody d a b k t id tk v) s := .elementwise h

theorem KeepsInv.functionBody {i : Instr} {d a : VReg} {k : MReg} {t : VTy} {hd : Fmt → Rm → Bool → Num → Nat × Nat}
    {id : Nat} {tk : Task} {v : List Word} (h : s.Inv) : KeepsInv (Machine.functionBody i d a k t hd id tk v) s :=
  .elementwise h

theorem KeepsInv.vrcpBody {d a : VReg} {k : MReg} {t : VTy} {id : Nat} {tk : Task} {v : List Word} (h : s.Inv) :
    KeepsInv (Machine.vrcpBody d a k t id tk v) s := .functionBody h

theorem KeepsInv.vrsqBody {d a : VReg} {k : MReg} {t : VTy} {id : Nat} {tk : Task} {v : List Word} (h : s.Inv) :
    KeepsInv (Machine.vrsqBody d a k t id tk v) s := .functionBody h

theorem KeepsInv.vexp2Body {d a : VReg} {k : MReg} {t : VTy} {id : Nat} {tk : Task} {v : List Word} (h : s.Inv) :
    KeepsInv (Machine.vexp2Body d a k t id tk v) s := .functionBody h

theorem KeepsInv.vlog2Body {d a : VReg} {k : MReg} {t : VTy} {id : Nat} {tk : Task} {v : List Word} (h : s.Inv) :
    KeepsInv (Machine.vlog2Body d a k t id tk v) s := .functionBody h

theorem KeepsInv.vcmpBody {c : Cond} {md : MReg} {a b : VReg} {k : MReg} {t : VTy} {id : Nat} {tk : Task} {v : List Word}
    (h : s.Inv) : KeepsInv (Machine.vcmpBody c md a b k t id tk v) s := .bind (.enterQueue h) fun _ _ h1 => .finish h1

theorem KeepsInv.vselBody {d a b : VReg} {k : MReg} {t : VTy} {id : Nat} {tk : Task} {v : List Word} (h : s.Inv) :
    KeepsInv (Machine.vselBody d a b k t id tk v) s := .bind (.enterQueue h) fun _ _ h1 => .finish h1

theorem KeepsInv.vredBody {d a : VReg} {p : RedOp} {k : MReg} {t : VTy} {id : Nat} {tk : Task} {v : List Word} (h : s.Inv) :
    KeepsInv (Machine.vredBody d a p k t id tk v) s := by
  unfold Machine.vredBody
  refine .bind (.enterQueue h) fun x t1 h1 => ?_
  dsimp only
  exact .finish h1

theorem KeepsInv.vscanBody {d a : VReg} {p : RedOp} {k : MReg} {t : VTy} {id : Nat} {tk : Task} {v : List Word} (h : s.Inv) :
    KeepsInv (Machine.vscanBody d a p k t id tk v) s := by
  unfold Machine.vscanBody
  refine .bind (.enterQueue h) fun x t1 h1 => ?_
  dsimp only
  exact .finish h1

theorem KeepsInv.vcvtBody {d a : VReg} {e : VTy} {k : MReg} {t : VTy} {id : Nat} {tk : Task} {v : List Word} (h : s.Inv) :
    KeepsInv (Machine.vcvtBody d a e k t id tk v) s := .bind (.enterQueue h) fun _ _ h1 => .finish h1

theorem KeepsInv.slotTable {tk : Task} {slot : BitVec 2} {t : VTy} (h : s.Inv) : KeepsInv (Machine.slotTable tk slot t) s := by
  unfold Machine.slotTable
  refine .get_bind ?_
  split
  · exact .ite (.pure h) .trap
  · exact .trap

theorem KeepsInv.codeBody {i : Instr} {d a : VReg} {sl : BitVec 2} {k : MReg} {t : VTy} {f : Table → Nat → Nat × Nat}
    {id : Nat} {tk : Task} {v : List Word} (h : s.Inv) : KeepsInv (Machine.codeBody i d a sl k t f id tk v) s :=
  .bind (.enterQueue h) fun _ _ h1 => .bind (.slotTable h1) fun _ _ h2 => .lanewise h2

theorem KeepsInv.vdecBody {d a : VReg} {sl : BitVec 2} {k : MReg} {t : VTy} {id : Nat} {tk : Task} {v : List Word} (h : s.Inv) :
    KeepsInv (Machine.vdecBody d a sl k t id tk v) s := .codeBody h

theorem KeepsInv.vencBody {d a : VReg} {sl : BitVec 2} {k : MReg} {t : VTy} {id : Nat} {tk : Task} {v : List Word} (h : s.Inv) :
    KeepsInv (Machine.vencBody d a sl k t id tk v) s := .codeBody h

theorem KeepsInv.vbcastBody {d : VReg} {g : GReg} {k : MReg} {t : VTy} {id : Nat} {tk : Task} {v : List Word} (h : s.Inv) :
    KeepsInv (Machine.vbcastBody d g k t id tk v) s := .bind (.enterQueue h) fun _ _ h1 => .lanewise h1

theorem KeepsInv.vmovsBody {a : VReg} {l : BitVec 5} {t : VTy} {id : Nat} {tk : Task} {v : List Word} (h : s.Inv) :
    KeepsInv (Machine.vmovsBody a l t id tk v) s := .pure h

theorem KeepsInv.vpermBody {d a b : VReg} {k : MReg} {t : VTy} {id : Nat} {tk : Task} {v : List Word} (h : s.Inv) :
    KeepsInv (Machine.vpermBody d a b k t id tk v) s := .bind (.enterQueue h) fun _ _ h1 => .lanewise h1

theorem KeepsInv.vslideBody {d a : VReg} {g : GReg} {k : MReg} {t : VTy} {id : Nat} {tk : Task} {v : List Word} (h : s.Inv) :
    KeepsInv (Machine.vslideBody d a g k t id tk v) s := .bind (.enterQueue h) fun _ _ h1 => .lanewise h1

theorem KeepsInv.viotaBody {d : VReg} {k : MReg} {t : VTy} {id : Nat} {tk : Task} {v : List Word} (h : s.Inv) :
    KeepsInv (Machine.viotaBody d k t id tk v) s := .bind (.enterQueue h) fun _ _ h1 => .lanewise h1

theorem Result.Inv.execVadd {d a b : VReg} {k : MReg} {t : VTy} (h : s.Inv) : Result.Inv (Machine.execVadd d a b k t s) :=
  .run h fun _ _ _ _ h1 => .vaddBody h1

theorem Result.Inv.execVsub {d a b : VReg} {k : MReg} {t : VTy} (h : s.Inv) : Result.Inv (Machine.execVsub d a b k t s) :=
  .run h fun _ _ _ _ h1 => .vsubBody h1

theorem Result.Inv.execVmul {d a b : VReg} {k : MReg} {t : VTy} (h : s.Inv) : Result.Inv (Machine.execVmul d a b k t s) :=
  .run h fun _ _ _ _ h1 => .vmulBody h1

theorem Result.Inv.execVfma {d a b : VReg} {k : MReg} {t : VTy} (h : s.Inv) : Result.Inv (Machine.execVfma d a b k t s) :=
  .run h fun _ _ _ _ h1 => .vfmaBody h1

theorem Result.Inv.execVmin {d a b : VReg} {k : MReg} {t : VTy} (h : s.Inv) : Result.Inv (Machine.execVmin d a b k t s) :=
  .run h fun _ _ _ _ h1 => .vminBody h1

theorem Result.Inv.execVmax {d a b : VReg} {k : MReg} {t : VTy} (h : s.Inv) : Result.Inv (Machine.execVmax d a b k t s) :=
  .run h fun _ _ _ _ h1 => .vmaxBody h1

theorem Result.Inv.execVabs {d a : VReg} {k : MReg} {t : VTy} (h : s.Inv) : Result.Inv (Machine.execVabs d a k t s) :=
  .run h fun _ _ _ _ h1 => .vabsBody h1

theorem Result.Inv.execVneg {d a : VReg} {k : MReg} {t : VTy} (h : s.Inv) : Result.Inv (Machine.execVneg d a k t s) :=
  .run h fun _ _ _ _ h1 => .vnegBody h1

theorem Result.Inv.execVand {d a b : VReg} {k : MReg} {t : VTy} (h : s.Inv) : Result.Inv (Machine.execVand d a b k t s) :=
  .run h fun _ _ _ _ h1 => .vandBody h1

theorem Result.Inv.execVor {d a b : VReg} {k : MReg} {t : VTy} (h : s.Inv) : Result.Inv (Machine.execVor d a b k t s) :=
  .run h fun _ _ _ _ h1 => .vorBody h1

theorem Result.Inv.execVxor {d a b : VReg} {k : MReg} {t : VTy} (h : s.Inv) : Result.Inv (Machine.execVxor d a b k t s) :=
  .run h fun _ _ _ _ h1 => .vxorBody h1

theorem Result.Inv.execVshl {d a b : VReg} {k : MReg} {t : VTy} (h : s.Inv) : Result.Inv (Machine.execVshl d a b k t s) :=
  .run h fun _ _ _ _ h1 => .vshlBody h1

theorem Result.Inv.execVshr {d a b : VReg} {k : MReg} {t : VTy} (h : s.Inv) : Result.Inv (Machine.execVshr d a b k t s) :=
  .run h fun _ _ _ _ h1 => .vshrBody h1

theorem Result.Inv.execVsra {d a b : VReg} {k : MReg} {t : VTy} (h : s.Inv) : Result.Inv (Machine.execVsra d a b k t s) :=
  .run h fun _ _ _ _ h1 => .vsraBody h1

theorem Result.Inv.execVcmp {c : Cond} {m : MReg} {a b : VReg} {k : MReg} {t : VTy} (h : s.Inv) :
    Result.Inv (Machine.execVcmp c m a b k t s) := .run h fun _ _ _ _ h1 => .vcmpBody h1

theorem Result.Inv.execVsel {d a b : VReg} {k : MReg} {t : VTy} (h : s.Inv) : Result.Inv (Machine.execVsel d a b k t s) :=
  .run h fun _ _ _ _ h1 => .vselBody h1

theorem Result.Inv.execVaddSat {d a b : VReg} {k : MReg} {t : VTy} (h : s.Inv) : Result.Inv (Machine.execVaddSat d a b k t s) :=
  .run h fun _ _ _ _ h1 => .vaddSatBody h1

theorem Result.Inv.execVsubSat {d a b : VReg} {k : MReg} {t : VTy} (h : s.Inv) : Result.Inv (Machine.execVsubSat d a b k t s) :=
  .run h fun _ _ _ _ h1 => .vsubSatBody h1

theorem Result.Inv.execVred {d a : VReg} {p : RedOp} {k : MReg} {t : VTy} (h : s.Inv) :
    Result.Inv (Machine.execVred d a p k t s) := .run h fun _ _ _ _ h1 => .vredBody h1

theorem Result.Inv.execVscan {d a : VReg} {p : RedOp} {k : MReg} {t : VTy} (h : s.Inv) :
    Result.Inv (Machine.execVscan d a p k t s) := .run h fun _ _ _ _ h1 => .vscanBody h1

theorem Result.Inv.execVcvt {d a : VReg} {e : VTy} {k : MReg} {t : VTy} (h : s.Inv) :
    Result.Inv (Machine.execVcvt d a e k t s) := .run h fun _ _ _ _ h1 => .vcvtBody h1

theorem Result.Inv.execVdec {d a : VReg} {sl : BitVec 2} {k : MReg} {t : VTy} (h : s.Inv) :
    Result.Inv (Machine.execVdec d a sl k t s) := .run h fun _ _ _ _ h1 => .vdecBody h1

theorem Result.Inv.execVenc {d a : VReg} {sl : BitVec 2} {k : MReg} {t : VTy} (h : s.Inv) :
    Result.Inv (Machine.execVenc d a sl k t s) := .run h fun _ _ _ _ h1 => .vencBody h1

theorem Result.Inv.execVrcp {d a : VReg} {k : MReg} {t : VTy} (h : s.Inv) : Result.Inv (Machine.execVrcp d a k t s) :=
  .run h fun _ _ _ _ h1 => .vrcpBody h1

theorem Result.Inv.execVrsq {d a : VReg} {k : MReg} {t : VTy} (h : s.Inv) : Result.Inv (Machine.execVrsq d a k t s) :=
  .run h fun _ _ _ _ h1 => .vrsqBody h1

theorem Result.Inv.execVexp2 {d a : VReg} {k : MReg} {t : VTy} (h : s.Inv) : Result.Inv (Machine.execVexp2 d a k t s) :=
  .run h fun _ _ _ _ h1 => .vexp2Body h1

theorem Result.Inv.execVlog2 {d a : VReg} {k : MReg} {t : VTy} (h : s.Inv) : Result.Inv (Machine.execVlog2 d a k t s) :=
  .run h fun _ _ _ _ h1 => .vlog2Body h1

theorem Result.Inv.execVbcast {d : VReg} {g : GReg} {k : MReg} {t : VTy} (h : s.Inv) :
    Result.Inv (Machine.execVbcast d g k t s) := .run h fun _ _ _ _ h1 => .vbcastBody h1

theorem Result.Inv.execVmovs {g : GReg} {a : VReg} {l : BitVec 5} {t : VTy} (h : s.Inv) :
    Result.Inv (Machine.execVmovs g a l t s) := .run h fun _ _ _ _ h1 => .vmovsBody h1

theorem Result.Inv.execVperm {d a b : VReg} {k : MReg} {t : VTy} (h : s.Inv) : Result.Inv (Machine.execVperm d a b k t s) :=
  .run h fun _ _ _ _ h1 => .vpermBody h1

theorem Result.Inv.execVslide {d a : VReg} {g : GReg} {k : MReg} {t : VTy} (h : s.Inv) :
    Result.Inv (Machine.execVslide d a g k t s) := .run h fun _ _ _ _ h1 => .vslideBody h1

theorem Result.Inv.execViota {d : VReg} {k : MReg} {t : VTy} (h : s.Inv) : Result.Inv (Machine.execViota d k t s) :=
  .run h fun _ _ _ _ h1 => .viotaBody h1

end Sys2Proof.Machine
end

section
/-! The invariant of a state, kept by the functions of `Sys2Proof/Machine/Fetch.lean`. -/

namespace Sys2Proof.Machine

variable {s : State}

theorem State.Inv.fetched {tile key : Nat} (h : s.Inv) : (s.fetched tile key).Inv := .ite h (.modTile h)

theorem KeepsInv.fetchBytes {id : Nat} {t : Task} {va n : Nat} (h : s.Inv) : KeepsInv (Machine.fetchBytes id t va n) s := by
  unfold Machine.fetchBytes
  refine .bind (.resolve h) fun x t1 h1 => ?_
  dsimp only
  exact .bind (.keyOf h1) (fun _ _ h2 => .get_bind (.when (.budget h2) (fun _ h3 => .bind (.modify (.fetched h3))
    (fun _ _ h4 => .get_bind (.pure h4))) h2))

theorem KeepsInv.fetch {id : Nat} {t : Task} (h : s.Inv) : KeepsInv (Machine.fetch id t) s := by
  unfold Machine.fetch
  refine .bind (.fetchBytes h) fun x t1 h1 => .ite (.ite .trap (.bind (.fetchBytes h1) (fun x1 t2 h2 => ?_))) ?_
  · dsimp only
    split
    · exact .pure h2
    · exact .trap
  · split
    · exact .pure h1
    · exact .trap

theorem State.Inv.slotFrom {tile core : Nat} {l : List Nat} (h : s.Inv) : (s.slotFrom tile core l).2.Inv := by
  induction l generalizing s with
  | nil => exact h
  | cons n l ih =>
    unfold State.slotFrom
    dsimp only
    split
    · exact ih h
    · split
      · exact ih h
      · split
        · exact ih (.modCore h)
        · exact .ite (.modCore h) h

theorem State.Inv.issueSlot {tile core : Nat} (h : s.Inv) : (s.issueSlot tile core).2.Inv := .slotFrom h

theorem State.Inv.issuing {p : Place} (h : s.Inv) : (s.issuing p).Inv := .ite h (.modCore h)

/-- A fetch that leads to no instruction ends the turn; one that does leaves a state to run it in. -/
theorem State.Inv.fetchTurn {p : Place} (h : s.Inv) :
    (∀ r, Machine.fetchTurn s p = .inl r → r.Inv) ∧ ∀ i t, Machine.fetchTurn s p = .inr (i, t) → t.Inv := by
  have hc : State.Inv { s with cur := p } := .same h rfl rfl rfl rfl
  have hs := State.Inv.issueSlot (tile := p.tile) (core := p.core) hc
  unfold Machine.fetchTurn
  dsimp only
  split <;> rename_i e <;> rw [e] at hs
  · exact ⟨fun r e' => Sum.inl.inj e' ▸ .next hs, fun i t e' => absurd e' Sum.inl_ne_inr⟩
  · split
    · exact ⟨fun r e' => Sum.inl.inj e' ▸ .next hc, fun i t e' => absurd e' Sum.inl_ne_inr⟩
    · have hi := State.Inv.issuing (p := p) hs
      split
      · exact ⟨fun r e' => Sum.inl.inj e' ▸ .next hi, fun i t e' => absurd e' Sum.inl_ne_inr⟩
      · next id t _ =>
        have hf := KeepsInv.fetch (id := id) (t := t) hi
        split <;> rename_i e'
        · refine ⟨fun r e => absurd e Sum.inr_ne_inl, fun i t e => ?_⟩
          obtain ⟨-, rfl⟩ := Prod.mk.inj (Sum.inr.inj e)
          exact hf.ok _ _ e'
        · exact ⟨fun r e => Sum.inl.inj e ▸ .settleTurn (m := throw _) (s' := s) hi (.throw (hf.error _ e')),
            fun i t e => absurd e Sum.inl_ne_inr⟩

end Sys2Proof.Machine
end

section
/-! The invariant of a state, kept by the functions of `Sys2Proof/Machine/VectorMem.lean`. -/

namespace Sys2Proof.Machine

variable {s : State}

theorem KeepsInv.loadRuns {id : Nat} {t : Task} {a : Nat} {l : List (Nat × Nat)} (h : s.Inv) :
    KeepsInv (Machine.loadRuns id t a l) s := by
  induction l generalizing s with
  | nil => exact .pure h
  | cons x l ih => exact .bind (.loadBytes h) fun _ t ht => .bind (ih ht) fun _ t ht => .pure ht

theorem KeepsInv.vectorAddress {t : VTy} {v : List Word} (h : s.Inv) : KeepsInv (Machine.vectorAddress t v) s :=
  .when .trap (fun _ h1 => .pure h1) h

theorem KeepsInv.vldBody {d : VReg} {a b : GReg} {k : MReg} {t : VTy} {id : Nat} {tk : Task} {v : List Word} (h : s.Inv) :
    KeepsInv (Machine.vldBody d a b k t id tk v) s :=
  .bind (.enterQueue h) (fun _ _ h1 => .bind (.vectorAddress h1) (fun _ _ h2 => .bind (.checkPages h2) (fun _ _ h3 => .bind
    (.loadRuns h3) (fun _ _ h4 => .finish h4))))

theorem KeepsInv.vstBody {d : VReg} {a b : GReg} {k : MReg} {t : VTy} {id : Nat} {tk : Task} {v : List Word} (h : s.Inv) :
    KeepsInv (Machine.vstBody d a b k t id tk v) s :=
  .bind (.enterQueue h) (fun _ _ h1 => .bind (.vectorAddress h1) (fun _ _ h2 => .bind (.checkPages h2) (fun _ _ h3 => .bind
    (.storeBytes h3) (fun _ _ h4 => .pure h4))))

theorem KeepsInv.laneAddress {t : VTy} {base : Word} {x : Nat} (h : s.Inv) : KeepsInv (Machine.laneAddress t base x) s :=
  .when .trap (fun _ h1 => .pure h1) h

theorem KeepsInv.loadLanes {id : Nat} {tk : Task} {t : VTy} {base : Word} {l : List (Nat × Nat)} (h : s.Inv) :
    KeepsInv (Machine.loadLanes id tk t base l) s := by
  induction l generalizing s with
  | nil => exact .pure h
  | cons x l ih =>
    exact .bind (.laneAddress h) fun _ u hu => .bind (.loadBytes hu) fun _ u hu => .bind (ih hu) fun _ t ht => .pure ht

theorem KeepsInv.storeLanes {id : Nat} {t : VTy} {base : Word} {l : List (Nat × Nat)} (h : s.Inv) :
    KeepsInv (Machine.storeLanes id t base l) s := by
  induction l generalizing s with
  | nil => exact .pure h
  | cons x l ih => exact .bind (.laneAddress h) fun _ t ht => .bind (.storeBytes ht) fun _ t ht => ih ht

theorem KeepsInv.vldxBody {d : VReg} {a : GReg} {b : VReg} {k : MReg} {t : VTy} {id : Nat} {tk : Task} {v : List Word}
    (h : s.Inv) : KeepsInv (Machine.vldxBody d a b k t id tk v) s :=
  .bind (.enterQueue h) fun _ _ h1 => .bind (.loadLanes h1) fun _ _ h2 => .lanewise h2

theorem KeepsInv.vstxBody {d : VReg} {a : GReg} {b : VReg} {k : MReg} {t : VTy} {id : Nat} {tk : Task} {v : List Word}
    (h : s.Inv) : KeepsInv (Machine.vstxBody d a b k t id tk v) s :=
  .bind (.enterQueue h) fun _ _ h1 => .bind (.storeLanes h1) fun _ _ h2 => .pure h2

theorem Result.Inv.execVld {d : VReg} {a b : GReg} {k : MReg} {t : VTy} (h : s.Inv) :
    Result.Inv (Machine.execVld d a b k t s) := .run h fun _ _ _ _ h1 => .vldBody h1

theorem Result.Inv.execVst {d : VReg} {a b : GReg} {k : MReg} {t : VTy} (h : s.Inv) :
    Result.Inv (Machine.execVst d a b k t s) := .run h fun _ _ _ _ h1 => .vstBody h1

theorem Result.Inv.execVldx {d : VReg} {a : GReg} {b : VReg} {k : MReg} {t : VTy} (h : s.Inv) :
    Result.Inv (Machine.execVldx d a b k t s) := .run h fun _ _ _ _ h1 => .vldxBody h1

theorem Result.Inv.execVstx {d : VReg} {a : GReg} {b : VReg} {k : MReg} {t : VTy} (h : s.Inv) :
    Result.Inv (Machine.execVstx d a b k t s) := .run h fun _ _ _ _ h1 => .vstxBody h1

theorem KeepsInv.fetchBody {id : Nat} {t : Task} {a n : Nat} (h : s.Inv) : KeepsInv (Machine.fetchBody id t a n) s := by
  induction n generalizing s a with
  | zero => exact .pure h
  | succ n ih =>
    exact .bind (.fetchBytes h) fun _ t ht => .when .trap (fun t ht => .bind (ih ht) fun _ t ht => .pure ht) ht

theorem KeepsInv.vectorBody {i : Instr} {b : VBody} {id : Nat} {tk : Task} {v : List Word}
    (e : Machine.vectorBody i = some b) (h : s.Inv) : KeepsInv (b id tk v) s := by
  have key {b' : VBody} (e' : some b' = some b) (h' : KeepsInv (b' id tk v) s) : KeepsInv (b id tk v) s :=
    Option.some.inj e' ▸ h'
  unfold Machine.vectorBody at e
  split at e
  · exact key e (.vaddBody h)
  · exact key e (.vsubBody h)
  · exact key e (.vmulBody h)
  · exact key e (.vfmaBody h)
  · exact key e (.vminBody h)
  · exact key e (.vmaxBody h)
  · exact key e (.vabsBody h)
  · exact key e (.vnegBody h)
  · exact key e (.vandBody h)
  · exact key e (.vorBody h)
  · exact key e (.vxorBody h)
  · exact key e (.vshlBody h)
  · exact key e (.vshrBody h)
  · exact key e (.vsraBody h)
  · exact key e (.vcmpBody h)
  · exact key e (.vselBody h)
  · exact key e (.vaddSatBody h)
  · exact key e (.vsubSatBody h)
  · exact key e (.vredBody h)
  · exact key e (.vscanBody h)
  · exact key e (.vcvtBody h)
  · exact key e (.vdecBody h)
  · exact key e (.vencBody h)
  · exact key e (.vrcpBody h)
  · exact key e (.vrsqBody h)
  · exact key e (.vexp2Body h)
  · exact key e (.vlog2Body h)
  · exact key e (.vbcastBody h)
  · exact key e (.vmovsBody h)
  · exact key e (.vpermBody h)
  · exact key e (.vslideBody h)
  · exact key e (.viotaBody h)
  · exact key e (.vldBody h)
  · exact key e (.vstBody h)
  · exact key e (.vldxBody h)
  · exact key e (.vstxBody h)
  · exact absurd e (Option.some_ne_none _).symm

theorem Result.Inv.vrepWord {r : Vrep} {id : Nat} {t : Task} (h : s.Inv) : Result.Inv (Machine.vrepWord r id t s) := by
  unfold Machine.vrepWord
  refine .ite (.next (.setTask h)) ?_
  split
  · exact .next (.setTask h)
  · dsimp only
    split
    · exact .next (.setTask h)
    · next e => exact .runAs h fun _ _ _ _ hs => .vectorBody e hs

theorem Result.Inv.execVrep {n : BitVec 4} {a : GReg} {st : BitVec 5} (h : s.Inv) : Result.Inv (Machine.execVrep n a st s) := by
  unfold Machine.execVrep
  split
  · exact .fault
  · split
    · refine .ite (.vrepWord h) (.run h (fun x x1 x2 t h1 => .when .trap (fun t1 h2 => .bind (.fetchBody h2) (fun x3 t2 h3 =>
      .ite (.bind (.modify (.modTask h3)) (fun _ _ h4 => .pure h4)) ?_)) h1))
      dsimp only
      exact .bind (.modify (.modTask h3)) fun _ _ h4 => .pure h4
    · refine .run h (fun x x1 x2 t h1 => .when .trap (fun t1 h2 => .bind (.fetchBody h2) (fun x3 t2 h3 => .ite (.bind (.modify
      (.modTask h3)) (fun _ _ h4 => .pure h4)) ?_)) h1)
      dsimp only
      exact .bind (.modify (.modTask h3)) fun _ _ h4 => .pure h4

end Sys2Proof.Machine
end

section
/-! The invariant of a state, kept by the functions of `Sys2Proof/Machine/Dispatch.lean`. -/

namespace Sys2Proof.Machine

variable {s : State}

/-- What an instruction or an event does, arm by arm. -/
theorem Result.Inv.exec {i : Instr} (h : s.Inv) : Result.Inv (Machine.exec i s) :=
  match i with
  | .add .. => .execAdd h
  | .addImm .. => .execAddImm h
  | .sub .. => .execSub h
  | .mul .. => .execMul h
  | .mulImm .. => .execMulImm h
  | .mulh .. => .execMulh h
  | .mulhu .. => .execMulhu h
  | .div .. => .execDiv h
  | .divu .. => .execDivu h
  | .rem .. => .execRem h
  | .remu .. => .execRemu h
  | .and .. => .execAnd h
  | .andImm .. => .execAndImm h
  | .or .. => .execOr h
  | .orImm .. => .execOrImm h
  | .xor .. => .execXor h
  | .xorImm .. => .execXorImm h
  | .shl .. => .execShl h
  | .shr .. => .execShr h
  | .sra .. => .execSra h
  | .shlImm .. => .execShlImm h
  | .shrImm .. => .execShrImm h
  | .sraImm .. => .execSraImm h
  | .slt .. => .execSlt h
  | .sltu .. => .execSltu h
  | .sltImm .. => .execSltImm h
  | .sltuImm .. => .execSltuImm h
  | .min .. => .execMin h
  | .max .. => .execMax h
  | .minu .. => .execMinu h
  | .maxu .. => .execMaxu h
  | .minImm .. => .execMinImm h
  | .maxImm .. => .execMaxImm h
  | .minuImm .. => .execMinuImm h
  | .maxuImm .. => .execMaxuImm h
  | .clz .. => .execClz h
  | .popc .. => .execPopc h
  | .ext .. => .execExt h
  | .extImm .. => .execExtImm h
  | .lui .. => .execLui h
  | .beq .. => .execBeq h
  | .bne .. => .execBne h
  | .blt .. => .execBlt h
  | .bge .. => .execBge h
  | .bltu .. => .execBltu h
  | .bgeu .. => .execBgeu h
  | .bmany .. => .execBmany h
  | .bmnone .. => .execBmnone h
  | .bmall .. => .execBmall h
  | .jal .. => .execJal h
  | .jalr .. => .execJalr h
  | .ld .. => .execLd h
  | .ldn .. => .execLdn h
  | .st .. => .execSt h
  | .lda .. => .execLda h
  | .stl .. => .execStl h
  | .fence .. => .execFence h
  | .cinv .. => .execCinv h
  | .cinvAll .. => .execCinvAll h
  | .pf .. => .execPf h
  | .amoAdd .. => .execAmoAdd h
  | .amoAnd .. => .execAmoAnd h
  | .amoOr .. => .execAmoOr h
  | .amoXor .. => .execAmoXor h
  | .amoMin .. => .execAmoMin h
  | .amoMax .. => .execAmoMax h
  | .amoMinn .. => .execAmoMinn h
  | .amoMaxn .. => .execAmoMaxn h
  | .amoSwap .. => .execAmoSwap h
  | .amocas .. => .execAmocas h
  | .mwait .. => .execMwait h
  | .evwait .. => .execEvwait h
  | .evsig .. => .execEvsig h
  | .vadd .. => .execVadd h
  | .vsub .. => .execVsub h
  | .vmul .. => .execVmul h
  | .vfma .. => .execVfma h
  | .vmin .. => .execVmin h
  | .vmax .. => .execVmax h
  | .vabs .. => .execVabs h
  | .vneg .. => .execVneg h
  | .vand .. => .execVand h
  | .vor .. => .execVor h
  | .vxor .. => .execVxor h
  | .vshl .. => .execVshl h
  | .vshr .. => .execVshr h
  | .vsra .. => .execVsra h
  | .vcmp .. => .execVcmp h
  | .vsel .. => .execVsel h
  | .vaddSat .. => .execVaddSat h
  | .vsubSat .. => .execVsubSat h
  | .vred .. => .execVred h
  | .vscan .. => .execVscan h
  | .vcvt .. => .execVcvt h
  | .vdec .. => .execVdec h
  | .venc .. => .execVenc h
  | .vrcp .. => .execVrcp h
  | .vrsq .. => .execVrsq h
  | .vexp2 .. => .execVexp2 h
  | .vlog2 .. => .execVlog2 h
  | .vbcast .. => .execVbcast h
  | .vmovs .. => .execVmovs h
  | .vperm .. => .execVperm h
  | .vslide .. => .execVslide h
  | .viota .. => .execViota h
  | .vld .. => .execVld h
  | .vst .. => .execVst h
  | .vldx .. => .execVldx h
  | .vstx .. => .execVstx h
  | .vrep .. => .execVrep h
  | .mset .. => .execMset h
  | .mand .. => .execMand h
  | .mor .. => .execMor h
  | .mxor .. => .execMxor h
  | .mnot .. => .execMnot h
  | .mpopc .. => .execMpopc h
  | .mfirst .. => .execMfirst h
  | .spawn .. => .execSpawn h
  | .spawnPass .. => .execSpawnPass h
  | .gang .. => .execGang h
  | .fork .. => .execFork h
  | .fwait .. => .execFwait h
  | .ftest .. => .execFtest h
  | .fcancel .. => .execFcancel h
  | .fref .. => .execFref h
  | .fdrop .. => .execFdrop h
  | .fpin .. => .execFpin h
  | .ftake .. => .execFtake h
  | .fdone .. => .execFdone h
  | .depdec .. => .execDepdec h
  | .depdecMem .. => .execDepdecMem h
  | .rpoint .. => .execRpoint h
  | .self .. => .execSelf h
  | .exit .. => .execExit h
  | .yield .. => .execYield h
  | .gjoin .. => .execGjoin h
  | .gleave .. => .execGleave h
  | .gbar .. => .execGbar h
  | .garrive .. => .execGarrive h
  | .xput .. => .execXput h
  | .qnew .. => .execQnew h
  | .qfree .. => .execQfree h
  | .qbind .. => .execQbind h
  | .qpush .. => .execQpush h
  | .qpop .. => .execQpop h
  | .qenq .. => .execQenq h
  | .qlen .. => .execQlen h
  | .lease .. => .execLease h
  | .unlease .. => .execUnlease h
  | .rack .. => .execRack h
  | .rlook .. => .execRlook h
  | .snapopen .. => .execSnapopen h
  | .snapcommit .. => .execSnapcommit h
  | .snaproll .. => .execSnaproll h
  | .srrd .. => .execSrrd h
  | .srwr .. => .execSrwr h
  | .trap .. => .execTrap h
  | .brk .. => .execBrk h
  | .eret .. => .execEret h
  | .tinv .. => .execTinv h
  | .tinvAll .. => .execTinvAll h
  | .sleep .. => .execSleep h
  | .mma .. => .execMma h
  | .mmas .. => .execMmas h
  | .accz .. => .execAccz h
  | .accld .. => .execAccld h
  | .accst .. => .execAccst h
  | .tabld .. => .execTabld h
  | .tcopy .. => .execTcopy h
  | .tfill .. => .execTfill h
  | .tgather .. => .execTgather h
  | .tscatter .. => .execTscatter h
  | .txchg .. => .execTxchg h
  | .tsub .. => .execTsub h
  | .tunsub .. => .execTunsub h
  | .qfence .. => .execQfence h
  | .dispatch .. => .execDispatch h
  | .workSteal .. => .execWorkSteal h
  | .timeSliceExpiry .. => .execTimeSliceExpiry h
  | .preemption .. => .execPreemption h
  | .saveTransferComplete .. => .execSaveTransferComplete h
  | .aging .. => .execAging h
  | .dispatchCountHalving .. => .execDispatchCountHalving h
  | .storeBufferDrain .. => .execStoreBufferDrain h
  | .vectorLaneBind .. => .execVectorLaneBind h
  | .vectorRetire .. => .execVectorRetire h
  | .laneCountHalving .. => .execLaneCountHalving h
  | .engineCommandStart .. => .execEngineCommandStart h
  | .engineCommandComplete .. => .execEngineCommandComplete h
  | .gangPlacement .. => .execGangPlacement h
  | .doomedFlagDelivery .. => .execDoomedFlagDelivery h
  | .reclaim .. => .execReclaim h
  | .barrierFire .. => .execBarrierFire h
  | .xputLanding .. => .execXputLanding h
  | .censusSample .. => .execCensusSample h
  | .censusEpoch .. => .execCensusEpoch h
  | .notice .. => .execNotice h
  | .tideDrain .. => .execTideDrain h
  | .tideDrainEnd .. => .execTideDrainEnd h
  | .roleMoveComplete .. => .execRoleMoveComplete h
  | .forward .. => .execForward h
  | .tileFailingMark .. => .execTileFailingMark h
  | .tileFailure .. => .execTileFailure h
  | .injectionStarvation .. => .execInjectionStarvation h
  | .berthFillStart .. => .execBerthFillStart h
  | .berthFillComplete .. => .execBerthFillComplete h
  | .berthDrain .. => .execBerthDrain h
  | .heldPushAccept .. => .execHeldPushAccept h
  | .remoteEnqueueArrival .. => .execRemoteEnqueueArrival h
  | .enqueueReply .. => .execEnqueueReply h
  | .eventArrival .. => .execEventArrival h
  | .txchgMessageArrival .. => .execTxchgMessageArrival h
  | .faultRecordDeferred .. => .execFaultRecordDeferred h
  | .idleCollapse .. => .execIdleCollapse h
  | .collapseComplete .. => .execCollapseComplete h
  | .wake .. => .execWake h
  | .wakeComplete .. => .execWakeComplete h
  | .waketime .. => .execWaketime h
  | .waketimeExpiry .. => .execWaketimeExpiry h
  | .idlectl .. => .execIdlectl h
  | .sleepExpiry .. => .execSleepExpiry h
  | .powerInterval .. => .execPowerInterval h
  | .currentSample .. => .execCurrentSample h
  | .budget .. => .execBudget h
  | .pctl .. => .execPctl h
  | .dieCtl .. => .execDieCtl h
  | .throttle .. => .execThrottle h
  | .teleper .. => .execTeleper h
  | .sensorRecalibration .. => .execSensorRecalibration h
  | .semClaim .. => .execSemClaim h
  | .semFree .. => .execSemFree h
  | .hostLinkDown .. => .execHostLinkDown h
  | .create .. => .execCreate h
  | .destroy .. => .execDestroy h
  | .hostRegionWrite .. => .execHostRegionWrite h
  | .cxlMemAccess .. => .execCxlMemAccess h
  | .peerLinkTimeout .. => .execPeerLinkTimeout h
  | .pseudoChannelRetirement .. => .execPseudoChannelRetirement h
  | .boot .. => .execBoot h
  | .liveUpdate .. => .execLiveUpdate h
  | .peerAccessArrival .. => .execPeerAccessArrival h
  | .hdmDecoderCommit .. => .execHdmDecoderCommit h
  | .noticeRecordDeferred .. => .execNoticeRecordDeferred h
  | .apertureTableWrite .. => .execApertureTableWrite h
  | .freeze .. => .execFreeze h
  | .unfreeze .. => .execUnfreeze h
  | .getVersion .. => .execGetVersion h
  | .getCapabilities .. => .execGetCapabilities h
  | .negotiateAlgorithms .. => .execNegotiateAlgorithms h
  | .getDigests .. => .execGetDigests h
  | .getCertificate .. => .execGetCertificate h
  | .getMeasurements .. => .execGetMeasurements h
  | .commandDone .. => .execCommandDone h

end Sys2Proof.Machine
end

section
/-! The invariant of a state, kept by the functions of `Sys2Proof/Machine/Turns.lean`. -/

namespace Sys2Proof.Machine

variable {s : State}

theorem State.Inv.choose (h : s.Inv) : s.choose.2.Inv := .iteSnd h (.same h rfl rfl rfl rfl)

end Sys2Proof.Machine
end

section
/-! The invariant of a state, kept by the functions of `Sys2Proof/Machine/Step.lean`. -/

namespace Sys2Proof.Machine

variable {s : State}

theorem State.Inv.memoryError {line : Nat} {corrected : Bool} (h : s.Inv) : (s.memoryError line corrected).Inv :=
  .ite (.same h rfl rfl rfl rfl) (.ite h (.same h rfl rfl rfl rfl))

theorem State.Inv.l1Error {tile line : Nat} (h : s.Inv) : (s.l1Error tile line).Inv := .ite h (.setTile h)

theorem State.Inv.accError {tile core i : Nat} {corrected : Bool} (h : s.Inv) : (s.accError tile core i corrected).Inv :=
  .ite (.same h rfl rfl rfl rfl) (.modCore h)

theorem Result.Inv.turn {t : Turn} (h : s.Inv) : Result.Inv (Machine.turn s t) := by
  unfold Machine.turn
  refine .ite (.next (.ite (.responded h) h)) ?_
  cases t with
  | thread p =>
    have hf := State.Inv.fetchTurn (p := p) h
    dsimp only
    split <;> rename_i e
    · exact hf.1 _ e
    · exact .exec (hf.2 _ _ e)
  | event i => exact .exec h
  | packet n c => exact .next (.enginePacket h)
  | hop k => exact .next (.hop h)
  | arrive k => exact .next (.receive h)
  | shift d => exact .next (.shift h)
  | hostRead p o n => exact .next (.hostRead h)
  | peerWrite o n x => exact .next (.peerWrite h)
  | hostWrites o x p y => exact .next (.hostWrites h)
  | memoryError l c => exact .next (.memoryError h)
  | l1Error n l => exact .next (.l1Error h)
  | statusRead => exact .next (.responded h)
  | readOut n => exact .next (.readOut h)
  | accError n c i f => exact .next (.accError h)
  | wait till => exact .next (.waitTill h)

theorem Result.Inv.step (h : s.Inv) : Result.Inv (Machine.step s) := by
  unfold Machine.step
  split
  · exact .tickResult (.turn (.same h rfl rfl rfl rfl))
  · have hc : s.choose.2.Inv := .choose h
    split <;> rename_i e
    · exact .tickResult (.turn (.snd e hc))
    · exact .next (.tick (.snd e hc))

end Sys2Proof.Machine
end


section
/-! Every step keeps the invariant. -/

namespace Sys2Proof.Machine

/-- Settles O3: a turn keeps the invariant, as every function that it goes through does; so does the clock's tick. -/
theorem stepKeepsInvariant : Obligations.StepKeepsInvariant := by
  unfold Obligations.StepKeepsInvariant
  intro s t h e
  exact Result.Inv.step h t e

end Sys2Proof.Machine
end
